-- ==== Sys2Proof/Word.lean ====
section
/-! DEFINITION. The word types and their plainest arithmetic. -/

namespace Sys2Proof

abbrev Byte  := BitVec 8
abbrev Word  := BitVec 32
abbrev Dword := BitVec 64
/-- A vector register: 16,384 bits (R40). -/
abbrev Vec   := BitVec 16384
/-- A mask register: 2,048 bits (R40). -/
abbrev Mask  := BitVec 2048

end Sys2Proof
end

