-- ==== Sys2Proof/Machine/Operands.lean ====
section
/-! DEFINITION. The values that scalar operations form from their operands (R86 to R92). -/

namespace Sys2Proof.Machine

/-- A member of major 0x02: the exact value from the width N, the operands read as unsigned, and the same bits
read as two's complement (R86). -/
abbrev Member := (N x y : Nat) → (xs ys : Int) → Int

def memAdd  : Member := fun _ _ _ xs ys => xs + ys
def memSub  : Member := fun _ _ _ xs ys => xs - ys
def memMul  : Member := fun _ _ _ xs ys => xs * ys
def memMulh : Member := fun N _ _ xs ys => (xs * ys).fdiv (2 ^ N)
def memMulhn : Member := fun N x y _ _ => ((x * y / 2 ^ N : Nat) : Int)
def memDiv  : Member := fun N _ _ xs ys =>
  if ys = 0 then -1 else if xs = -(2 ^ (N - 1)) ∧ ys = -1 then xs else xs.tdiv ys
def memDivn : Member := fun N x y _ _ => if y = 0 then 2 ^ N - 1 else ((x / y : Nat) : Int)
def memRem  : Member := fun N _ _ xs ys =>
  if ys = 0 then xs else if xs = -(2 ^ (N - 1)) ∧ ys = -1 then 0 else xs - ys * xs.tdiv ys
def memRemn : Member := fun _ x y _ _ => if y = 0 then (x : Int) else ((x - y * (x / y) : Nat) : Int)
def memAnd  : Member := fun _ x y _ _ => ((x &&& y : Nat) : Int)
def memOr   : Member := fun _ x y _ _ => ((x ||| y : Nat) : Int)
def memXor  : Member := fun _ x y _ _ => ((x ^^^ y : Nat) : Int)
/-- The shift count is the low 6 bits, or 5 in the .w form. -/
def shiftCount (N y : Nat) : Nat := y % N
def memShl  : Member := fun N x y _ _ => ((x * 2 ^ shiftCount N y : Nat) : Int)
def memShr  : Member := fun N x y _ _ => ((x / 2 ^ shiftCount N y : Nat) : Int)
def memSar  : Member := fun N _ y xs _ => xs.fdiv (2 ^ shiftCount N y)
def memMin  : Member := fun _ _ _ xs ys => if xs ≤ ys then xs else ys
def memMax  : Member := fun _ _ _ xs ys => if ys ≤ xs then xs else ys
def memMinn : Member := fun _ x y _ _ => ((if x ≤ y then x else y : Nat) : Int)
def memMaxn : Member := fun _ x y _ _ => ((if y ≤ x then x else y : Nat) : Int)

/-- The result of a member in its width: the 64-bit value, or SignExtend64 of its low 32 bits (R86). -/
def aluResult (f : Member) (w : BitVec 1) (a b : Dword) : Dword :=
  if w = 1 then
    let x := a.extractLsb' 0 32
    let y := b.extractLsb' 0 32
    (BitVec.ofInt 32 (f 32 x.toNat y.toNat x.toInt y.toInt)).signExtend 64
  else BitVec.ofInt 64 (f 64 a.toNat b.toNat a.toInt b.toInt)

/-- One bit of the CRC-32C remainder (R87). -/
def crcBit (c : Nat) : Nat := if c % 2 = 1 then (c / 2) ^^^ 0x82F63B78 else c / 2

def crcByte (c b : Nat) : Nat := crcBit (crcBit (crcBit (crcBit (crcBit (crcBit (crcBit (crcBit (c ^^^ b))))))))

/-- n bytes of a number folded into a remainder, the lowest first (R87). -/
def crcFold : Nat → Nat → Nat → Nat
  | 0, c, _ => c
  | n + 1, c, v => crcFold n (crcByte c (v % 256)) (v / 256)

/-- Leading zeros, trailing zeros and ones of the low n bits (R90). -/
def clzNat : Nat → Nat → Nat
  | 0, _ => 0
  | n + 1, v => if v / 2 ^ n % 2 = 1 then 0 else clzNat n v + 1

def ctzNat : Nat → Nat → Nat
  | 0, _ => 0
  | n + 1, v => if v % 2 = 1 then 0 else ctzNat n (v / 2) + 1

def popNat : Nat → Nat → Nat
  | 0, _ => 0
  | n + 1, v => v % 2 + popNat n (v / 2)

/-- SignExtend64 of the low n bits. -/
def sextLow (n : Nat) (v : Dword) : Dword := (BitVec.ofNat n v.toNat).signExtend 64

/-- The low n bits, zero-extended. -/
def zextLow (n : Nat) (v : Dword) : Dword := BitVec.ofNat 64 (v.toNat % 2 ^ n)

/-- Bits pos to pos + len − 1 of d replaced by the low bits of v (R90). -/
def insertField (d v : Dword) (pos len : Nat) : Dword :=
  let old := d.toNat
  BitVec.ofNat 64 (old - old / 2 ^ pos % 2 ^ len * 2 ^ pos + v.toNat % 2 ^ len * 2 ^ pos)

/-- A comparison by its code (R91). -/
def compareBy (c : Nat) {n : Nat} (a b : BitVec n) : Bool :=
  match c with
  | 0 => a == b
  | 1 => a != b
  | 2 => a.slt b
  | 3 => a.sle b
  | 4 => a.ult b
  | _ => a.ule b

/-- A comparison in the width that W names (R91). -/
def compareWidth (c : Nat) (w : BitVec 1) (a b : Dword) : Bool :=
  if w = 1 then compareBy c (a.extractLsb' 0 32) (b.extractLsb' 0 32) else compareBy c a b

end Sys2Proof.Machine
end

