-- ==== Sys2Proof/Machine/Float.lean ====
section
/-! DEFINITION. Floating-point numbers (R61 to R67), exactly: a finite value is a signed multiple of a power of
two, and narrowing happens in `roundMag` alone. -/

namespace Sys2Proof.Machine

/-- A value of a floating-point format: a NaN (signalling or not), an infinity, or (−1)^neg × m × 2^e. -/
inductive FVal where
  | nan (signalling : Bool)
  | inf (neg : Bool)
  | fin (neg : Bool) (m : Nat) (e : Int)
deriving DecidableEq, Repr

/-- A format (R61): widths of its fields, bias, and whether it has infinities (R62). -/
structure Fmt where
  exp  : Nat
  frac : Nat
  bias : Nat
  infs : Bool
deriving DecidableEq, Repr

def f32  : Fmt := ⟨8, 23, 127, true⟩
def f16  : Fmt := ⟨5, 10, 15, true⟩
def bf16 : Fmt := ⟨8, 7, 127, true⟩
def e4m3 : Fmt := ⟨4, 3, 7, false⟩

/-- Width of a format in bits. -/
def Fmt.bits (f : Fmt) : Nat := 1 + f.exp + f.frac

/-- The canonical NaN (R63). -/
def Fmt.nan (f : Fmt) : Nat :=
  if f.infs then (2 ^ f.exp - 1) * 2 ^ f.frac + 2 ^ (f.frac - 1) else 0x7F

/-- Infinity of a sign, without infinities the canonical NaN. -/
def Fmt.inf (f : Fmt) (neg : Bool) : Nat :=
  if f.infs then (if neg then 2 ^ (f.exp + f.frac) else 0) + (2 ^ f.exp - 1) * 2 ^ f.frac else f.nan

/-- Largest finite magnitude, as a word without its sign. -/
def Fmt.maxFinite (f : Fmt) : Nat := if f.infs then (2 ^ f.exp - 1) * 2 ^ f.frac - 1 else 0x7E

/-- The value of a word (R61, R62). -/
def Fmt.decode (f : Fmt) (x : Nat) : FVal :=
  let neg := decide (x / 2 ^ (f.exp + f.frac) % 2 = 1)
  let e := x / 2 ^ f.frac % 2 ^ f.exp
  let m := x % 2 ^ f.frac
  if f.infs && e == 2 ^ f.exp - 1 then
    (if m = 0 then .inf neg else .nan (decide (m < 2 ^ (f.frac - 1))))
  else if !f.infs && x % 2 ^ (f.exp + f.frac) == 0x7F then .nan false
  else if e = 0 then .fin neg m (1 - (f.bias : Int) - f.frac)
  else .fin neg (2 ^ f.frac + m) ((e : Int) - f.bias - f.frac)

/-- Rounding modes (R31, R65), by code. -/
inductive Mode where
  | rne | rtz | rup | rdn | odd
deriving DecidableEq, Repr

def Mode.ofCode (c : BitVec 3) : Mode :=
  match c.toNat with
  | 0 => .rne | 1 => .rtz | 2 => .rup | 3 => .rdn | _ => .odd

/-- Whether a magnitude lo + rem / 2^sh that is not on the grid goes up (R65). -/
def roundsUp (mode : Mode) (neg : Bool) (lo rem sh : Nat) : Bool :=
  match mode with
  | .rne => decide (2 ^ sh < 2 * rem) || (decide (2 * rem = 2 ^ sh) && lo % 2 == 1)
  | .rtz => false
  | .rup => !neg
  | .rdn => neg
  | .odd => lo % 2 == 0

/-- m × 2^e as an integer multiple of 2^q, rounded: the multiple and whether it is inexact. -/
def roundAt (mode : Mode) (neg : Bool) (m : Nat) (e q : Int) : Nat × Bool :=
  if q ≤ e then (m * 2 ^ (e - q).toNat, false)
  else
    let sh := (q - e).toNat
    let lo := m / 2 ^ sh
    let rem := m % 2 ^ sh
    if rem = 0 then (lo, false) else (if roundsUp mode neg lo rem sh then lo + 1 else lo, true)

/-- A rounded magnitude n × 2^q, whether it differs from the exact one, and whether that was tiny (R68). -/
structure Rounded where
  n : Nat
  q : Int
  inexact : Bool
  tiny : Bool
deriving DecidableEq, Repr

/-- The candidate c of R65 for a non-zero magnitude on a format's unbounded grid. -/
def roundMag (f : Fmt) (mode : Mode) (neg : Bool) (m : Nat) (e : Int) : Rounded :=
  let top := e + Nat.log2 m
  let emin := 1 - (f.bias : Int)
  let q := (if top < emin then emin else top) - f.frac
  let r := roundAt mode neg m e q
  { n := r.1, q := q, inexact := r.2, tiny := decide (top < emin) }

/-- The word of a magnitude n × 2^q of the grid (n at most 2^(F+1)), none past the largest finite value. -/
def Fmt.word? (f : Fmt) (n : Nat) (q : Int) : Option Nat :=
  let qmin := 1 - (f.bias : Int) - f.frac
  let (n, q) := if n = 2 ^ (f.frac + 1) then (2 ^ f.frac, q + 1) else (n, q)
  let w := if n < 2 ^ f.frac then n else (q - qmin + 1).toNat * 2 ^ f.frac + (n - 2 ^ f.frac)
  if w ≤ f.maxFinite then some w else none

/-- Flag bits (R68). -/
def flagINV : BitVec 5 := 16#5
def flagDIV : BitVec 5 := 8#5
def flagOVF : BitVec 5 := 4#5
def flagUNF : BitVec 5 := 2#5
def flagINX : BitVec 5 := 1#5

def Fmt.signed (f : Fmt) (neg : Bool) (w : Nat) : Nat := (if neg then 2 ^ (f.exp + f.frac) else 0) + w

/-- Overflow under R66; in E4M3 the plain form gives the NaN and the saturating form ±448 (R71). -/
def Fmt.overflow (f : Fmt) (mode : Mode) (neg sat : Bool) : Nat :=
  if f.infs then
    match mode, neg with
    | .rne, _ => f.inf neg
    | .rup, false => f.inf false
    | .rdn, true => f.inf true
    | _, _ => f.signed neg f.maxFinite
  else if sat then f.signed neg f.maxFinite else f.nan

/-- Rounds a value to a format (R65 to R67): its word and the flags raised. -/
def Fmt.round (f : Fmt) (mode : Mode) (sat : Bool) (v : FVal) : Nat × BitVec 5 :=
  match v with
  | .nan _ => (f.nan, 0)
  | .inf neg =>
      if f.infs then (f.inf neg, 0)
      else if sat then (f.signed neg f.maxFinite, flagOVF ||| flagINX) else (f.nan, flagINV)
  | .fin neg m e =>
      if m = 0 then (f.signed neg 0, 0)
      else
        let r := roundMag f mode neg m e
        match f.word? r.n r.q with
        | some w => (f.signed neg w,
            (if r.inexact then flagINX else 0) ||| (if r.inexact && r.tiny then flagUNF else 0))
        | none => (f.overflow mode neg sat, flagOVF ||| flagINX)

/-- INV when an operand is a signalling NaN (R63). -/
def snan : FVal → BitVec 5
  | .nan true => flagINV
  | _ => 0

def FVal.isNan : FVal → Bool
  | .nan _ => true
  | _ => false

def FVal.negate : FVal → FVal
  | .nan s => .nan s
  | .inf n => .inf !n
  | .fin n m e => .fin (!n) m e

/-- The signed integer multiple of 2^e that a finite value is; e at most its exponent. -/
def scaled (neg : Bool) (m : Nat) (e e' : Int) : Int :=
  let k : Int := (m * 2 ^ (e - e').toNat : Nat)
  if neg then -k else k

/-- The exact sum (R67), and INV for a signalling operand or ∞ − ∞. -/
def addX (mode : Mode) (x y : FVal) : FVal × BitVec 5 :=
  let inv := snan x ||| snan y
  match x, y with
  | .nan _, _ => (.nan false, inv)
  | _, .nan _ => (.nan false, inv)
  | .inf a, .inf b => if a = b then (.inf a, inv) else (.nan false, flagINV)
  | .inf a, _ => (.inf a, inv)
  | _, .inf b => (.inf b, inv)
  | .fin a m e, .fin b n g =>
      let q := if e ≤ g then e else g
      let t := scaled a m e q + scaled b n g q
      if t = 0 then
        (.fin (if m = 0 ∧ n = 0 ∧ a = b then a else decide (mode = .rdn)) 0 q, inv)
      else (.fin (decide (t < 0)) t.natAbs q, inv)

/-- The exact product, and INV for a signalling operand or 0 × ∞. -/
def mulX (x y : FVal) : FVal × BitVec 5 :=
  let inv := snan x ||| snan y
  match x, y with
  | .nan _, _ => (.nan false, inv)
  | _, .nan _ => (.nan false, inv)
  | .inf a, .inf b => (.inf (a != b), inv)
  | .inf a, .fin b n _ => if n = 0 then (.nan false, flagINV) else (.inf (a != b), inv)
  | .fin a m _, .inf b => if m = 0 then (.nan false, flagINV) else (.inf (a != b), inv)
  | .fin a m e, .fin b n g => (.fin (a != b) (m * n) (e + g), inv)

/-- A quotient to enough bits that it rounds as the exact one, its last bit sticky; DIV for a division of a
finite non-zero number by zero, INV for 0 / 0 and ∞ / ∞ (R68). -/
def divX (x y : FVal) : FVal × BitVec 5 :=
  let inv := snan x ||| snan y
  match x, y with
  | .nan _, _ => (.nan false, inv)
  | _, .nan _ => (.nan false, inv)
  | .inf _, .inf _ => (.nan false, flagINV)
  | .inf a, .fin b _ _ => (.inf (a != b), inv)
  | .fin a _ _, .inf b => (.fin (a != b) 0 0, inv)
  | .fin a m e, .fin b n g =>
      if n = 0 then (if m = 0 then (.nan false, flagINV) else (.inf (a != b), flagDIV))
      else if m = 0 then (.fin (a != b) 0 0, inv)
      else
        let k := 64 + Nat.log2 n
        let t := m * 2 ^ k
        (.fin (a != b) (2 * (t / n) + (if t % n = 0 then 0 else 1)) (e - g - k - 1), inv)

/-- Integer square root by bits: the largest r below 2^k more than r with r² at most n. -/
def isqrtBits (n : Nat) : Nat → Nat → Nat
  | 0, r => r
  | k + 1, r =>
    let t := r + 2 ^ k
    isqrtBits n k (if t * t ≤ n then t else r)

def isqrt (n : Nat) : Nat := isqrtBits n (Nat.log2 n / 2 + 1) 0

/-- A square root to enough bits, its last bit sticky; INV below zero (R68). −0 gives −0. -/
def sqrtX (x : FVal) : FVal × BitVec 5 :=
  match x with
  | .nan s => (.nan false, if s then flagINV else 0)
  | .inf neg => if neg then (.nan false, flagINV) else (.inf false, 0)
  | .fin neg m e =>
      if m = 0 then (.fin neg 0 0, 0)
      else if neg then (.nan false, flagINV)
      else
        let odd := e % 2 = 1
        let m' := (if odd then 2 * m else m) * 2 ^ 80
        let e' := ((if odd then e - 1 else e) - 80) / 2
        let r := isqrt m'
        (.fin false (2 * r + (if r * r = m' then 0 else 1)) (e' - 1), 0)

/-- Real comparison of two values that are no NaN; −0 and +0 are equal. -/
def FVal.less : FVal → FVal → Bool
  | .nan _, _ => false
  | _, .nan _ => false
  | .inf a, .inf b => a && !b
  | .inf a, _ => a
  | _, .inf b => !b
  | .fin a m e, .fin b n g =>
      let q := if e ≤ g then e else g
      decide (scaled a m e q < scaled b n g q)

/-- x ranks strictly above y (R70). -/
def FVal.above (x y : FVal) : Bool :=
  if x.isNan then false else if y.isNan then true else y.less x

/-- Rounds a value to an integer: the value and whether it is inexact (R65). -/
def roundInt (mode : Mode) (neg : Bool) (m : Nat) (e : Int) : Int × Bool :=
  let r := roundAt mode neg m e 0
  (if neg then -(r.1 : Int) else r.1, r.2)

/-- An integer as a value; zero is +0. -/
def FVal.ofInt (i : Int) : FVal := .fin (decide (i < 0)) i.natAbs 0

/-- FP32 addition and multiplication under RNE, on words (R74, R77). -/
def addF32 (x y : Nat) : Nat := (f32.round .rne false (addX .rne (f32.decode x) (f32.decode y)).1).1
def mulF32 (x y : Nat) : Nat := (f32.round .rne false (mulX (f32.decode x) (f32.decode y)).1).1

/-! ## Fixed-point accumulation cells -/

/-- A FAC cell and its flags (R76). -/
structure FacCell where
  n   : Int
  sat : Bool
  nan : Bool
deriving DecidableEq, Repr

/-- n narrowed to 128 bits; SAT when it does not fit (R77). -/
def FacCell.put (c : FacCell) (t : Int) : FacCell :=
  if 2 ^ 127 - 1 < t then { c with n := 2 ^ 127 - 1, sat := true }
  else if t < -(2 ^ 127) then { c with n := -(2 ^ 127), sat := true }
  else { c with n := t }

/-- Adds an FP32 word to a cell of exponent b (R77). -/
def FacCell.add (c : FacCell) (b : Int) (x : Nat) : FacCell :=
  match f32.decode x with
  | .nan _ => { c with nan := true }
  | .inf neg => if neg then { c with n := -(2 ^ 127), sat := true } else { c with n := 2 ^ 127 - 1, sat := true }
  | .fin neg m e => c.put (c.n + (roundInt .rne neg m (e - b)).1)

/-- Reads a cell out (R78). -/
def FacCell.read (c : FacCell) (b : Int) : Nat :=
  if c.nan then f32.nan else (f32.round .rne false (.fin (decide (c.n < 0)) c.n.natAbs b)).1

/-- A cell from its 16 bytes as a number. -/
def facOfNat (v : Nat) : Int := if v < 2 ^ 127 then v else (v : Int) - 2 ^ 128
def facToNat (n : Int) : Nat := (n % 2 ^ 128).toNat

end Sys2Proof.Machine
end

