-- ==== Sys2Proof/Event.lean ====
section
/-! DEFINITION. The steps of units and events, and the data that they bring from outside. -/

namespace Sys2Proof

/-- The two contexts of a core (R39, R56). -/
inductive Ctx where
  | main | lining
deriving DecidableEq, Repr

/-- The engines that take commands through a queue (R50). -/
inductive Engine where
  | copy | matrix | shuttle | outbox | clause
deriving DecidableEq, Repr

/-- Who writes a register of region 6 (R381). -/
inductive Writer where
  | lining | gpm | host | hardware
deriving DecidableEq, Repr

/-- What a shuttle delivery carries: bytes as they stand with the 64-byte lines that are poisoned, reduced elements
with the FAC flags seen and the elements that are poisoned, or nothing when the command failed (R252, R257, R261). -/
inductive DeliveryBody where
  | bytes (bs : List (BitVec 8)) (bad : List Nat)
  | reduced (els : List (BitVec 32)) (sat : Bool) (bad : List Nat)
  | nothing
deriving DecidableEq, Repr

/-- A delivery into a receiving tile (R252): the tile or ring, the counter, the command of this core that
it belongs to if any, what it carries, the 64-byte lines, or for reduced elements the elements, of packets that failed their
check, and the error code of R261 otherwise. -/
structure Delivery where
  tile : BitVec 8
  ac   : BitVec 6
  own  : Option Nat
  body : DeliveryBody
  failed : List Nat
  err  : BitVec 4
deriving DecidableEq, Repr

/-- A thimble reply (R321): the command it answers, the status code of R325, and the results. -/
structure Reply where
  id   : Nat
  code : BitVec 4
  data : List (Nat × BitVec 64)
deriving DecidableEq, Repr

/-- A contribution to an agreement instance (R306). -/
structure Contribution where
  gid   : Nat
  rank  : Nat
  die   : BitVec 10
  core  : BitVec 4
  seq   : BitVec 16
  tag   : BitVec 10
  agv   : Bool
  op    : BitVec 3
  cc    : BitVec 3
  value : BitVec 32
  ref   : BitVec 32
deriving DecidableEq, Repr

/-- The report of a resolved instance (R308): for each listed site tag the mask of ranks, and the
membership at the resolution, bit r for rank r. -/
structure Report where
  tags    : List (BitVec 10 × Nat)
  members : Nat
deriving DecidableEq, Repr

/-- An outcome on its way to a member (R308, R315), with the byte address of the group's handler (R305), and whether it
comes as poison (R276). -/
structure OutcomeMsg where
  gid     : Nat
  tag     : BitVec 10
  seq     : BitVec 16
  outcome : BitVec 3
  late    : Bool
  dead    : Bool
  value   : BitVec 32
  report  : Report
  handler : Nat
  poisoned : Bool
deriving DecidableEq, Repr

/-- A join request and its answer (R316). -/
structure JoinMsg where
  gid  : Nat
  aseq : BitVec 16
  rank : Nat
  die  : BitVec 10
  core : BitVec 4
deriving DecidableEq, Repr

structure JoinAnswer where
  gid     : Nat
  ok      : Bool
  j       : BitVec 16
  members : Nat
  handler : Nat
deriving DecidableEq, Repr

/-- A thimble or mailbox packet (R283, R319 to R328): source, sending partition, member (0 to 9 as the minors of major 0x27,
10 a post, 11 a take), target address, the page of its handle, and its operands. -/
structure Packet where
  id    : Nat
  sdie  : BitVec 10
  score : BitVec 4
  part  : BitVec 6
  op    : BitVec 4
  addr  : BitVec 52
  base  : BitVec 52
  size  : Nat
  cls   : BitVec 2
  ctl   : BitVec 64
  data  : List (BitVec 64)
deriving DecidableEq, Repr

/-- A member's contribution to a collective instance (R253): minor and argument of its command, and
its data: FP32 elements for the reductions, otherwise the bytes of the tile for this core as 32-bit
words; the elements, or 64-byte lines, that are poisoned; those of packets that failed their check (R252); and the footprints of
the member's tiles in the instance, by which sender and receiver are compared (R261). -/
structure CollPart where
  gid   : Nat
  cseq  : BitVec 16
  rank  : Nat
  minor : BitVec 4
  arg   : Nat
  data  : List (BitVec 32)
  bad   : List Nat
  failed : List Nat
  feet  : List Nat
deriving DecidableEq, Repr

/-- A notch hold of a partner, or the release of one (R168, R169). -/
structure HoldMsg where
  rank  : Nat
  set   : Bool
  notch : BitVec 16
deriving DecidableEq, Repr

/-- A partial sum on its route through the reduce buffers (R250, R254): its instance, its elements as FP32, or as FAC cells
with the flags SAT and NAN (R255, R77), those that are poisoned, and those of packets that failed their check at a hop
(R252). -/
structure PartialSum where
  gid   : Nat
  cseq  : BitVec 16
  words : List (BitVec 32)
  cells : List (Int × Bool × Bool)
  bad   : List Nat
  failed : List Nat
deriving DecidableEq, Repr

/-- What position 0 carries (R285, R292): package time, a beacon, a death report, or a reservation table, for the package
rings or a rack ring, with the frame from which it holds. The last two are the GPM's words to a die: the package that it names as
the time master (R295), and the HBM or vault ranges of a job that have come back to it (R201); the manual states no form of them
(DESIGN CHOICE; log entry 83). -/
inductive SystemMsg where
  | time (ns : Nat)
  | beacon (die : BitVec 10)
  | death (die : BitVec 10)
  | table (rack : Bool) (frame : Nat) (owners : List (BitVec 8))
  | master (package : Nat)
  | returned (ranges : List (Nat × Nat))
deriving DecidableEq, Repr

/-- What a ring slot carries (R283); the manual gives the OPS field no layout, so the model carries the
fields themselves. -/
inductive SlotBody where
  | idle
  | request (p : Packet)
  | reply (r : Reply)
  | coll (c : CollPart)
  /-- Bytes that a route list takes from hop to hop, and their poisoned lines (R250). -/
  | move (bs : List (BitVec 8)) (bad : List Nat)
  | reduce (p : PartialSum)
  | contribute (c : Contribution)
  | outcome (o : OutcomeMsg)
  | join (j : JoinMsg)
  | joined (a : JoinAnswer)
  | hold (gid : Nat) (h : HoldMsg)
  | system (m : SystemMsg)
  | host (a : BitVec 52) (bs : List (BitVec 8))
deriving DecidableEq, Repr, Inhabited

/-- A slot of a package ring or rack ring with the header fields of R283: the granule `idx` of a packet of `cnt` granules, with its
check field. A whole packet, before it is cut into slots and after its slots have come together, has the same form with the check
fields of all its granules. `rack` and `cw` are the ring it rides and `via` the die where it leaves that
ring, `pos` its position in the frame (R285), `dir` the direction that DIR names for its leg, and `hops` the rest of its route
list (R250). -/
structure RingSlot where
  typ   : BitVec 4
  sdie  : BitVec 10
  score : BitVec 4
  ddie  : BitVec 10
  dunit : BitVec 7
  part  : BitVec 6
  seq   : BitVec 16
  lap   : Bool
  bnc   : Bool
  len   : Nat
  gcrc  : List (BitVec 32)
  idx   : Nat
  cnt   : Nat
  rack  : Bool
  cw    : Bool
  via   : BitVec 10
  pos   : BitVec 6
  dir   : Option Bool
  hops  : List Nat
  body  : SlotBody
deriving DecidableEq, Repr, Inhabited

/-- A link of a package-ring port (R282), or of a bridge station's rack port (R290). -/
structure LinkId where
  rack : Bool
  east : Bool
  idx  : BitVec 2
deriving DecidableEq, Repr

/-- What comes on a link (R288): a flit, the acknowledgement of one, or the request to replay from one. -/
inductive FlitKind where
  | flit | ack | replay
deriving DecidableEq, Repr

/-- A flit as a receiver sees it (R288): its number, its 64 bytes and the CRC-32C that came with them. -/
structure Flit where
  kind : FlitKind
  seq  : Nat
  data : BitVec 512
  crc  : BitVec 32
deriving DecidableEq, Repr

/-- What a matrix command met (R164, R196): whether a step failed again, and the 64-byte row segments of its accumulator tile
whose SECDED could not correct them. -/
structure MatrixFault where
  repeated : Bool
  segments : List Nat
deriving DecidableEq, Repr

/-- What a clause command met in the array (R347): nothing, a bit that SECDED corrected, or a round that failed its check. -/
inductive ArrayFault where
  | none | corrected | failed
deriving DecidableEq, Repr

/-- A multicast store of another core of the die (R188): the core-clock cycle of its landing, its core, its mask, and its bytes
by scratchpad offset. -/
structure Multicast where
  due   : Nat
  core  : BitVec 4
  mask  : BitVec 16
  cells : List (Nat × BitVec 8)
deriving DecidableEq, Repr

/-- A front-end command as it was read (R364): its ring, type and flags, and the code of R375 for a command that could
not be read whole: 1 an unknown type, 3 past the end of its buffer, 6 a failed read; 0 for none. -/
structure FeHead where
  timed : Bool
  typ   : BitVec 8
  flags : BitVec 8
  bad   : BitVec 4
deriving DecidableEq, Repr

/-- The payload of a recovery frame (R386). -/
structure Frame where
  bytes : List (BitVec 8)
deriving DecidableEq, Repr

/-- An image and its signature (R383). -/
structure Image where
  bytes : List (BitVec 8)
  sig   : List (BitVec 8)
deriving DecidableEq, Repr

/-- An interleave set that the GPM gives a partition (R185): its die, offset range, channels and granule. -/
structure SetGrant where
  die      : BitVec 10
  start    : Nat
  size     : Nat
  channels : List (BitVec 6)
  granule  : Nat
deriving DecidableEq, Repr

/-- What the GPM creates a partition with (R185, R380, R383): its image, its interleave sets, its quads on dies other than this
one, whose ownership tables this die does not hold, and its PCIe physical function, if it has a host. -/
structure NewPartition where
  image : Image
  sets  : List SetGrant
  quads : List (BitVec 10 × BitVec 2)
  fn    : Option Nat
deriving DecidableEq, Repr

/-- The steps of units and events, as the agenda of the state holds them: the same steps, with the same
data, as the last constructors of Instr. -/
inductive Ev where
  | resultLand (c : Ctx)
  | replyArrival (n : Nat)
  | replyWatchdogExpiry
  | freezeAlert
  | shareWindow
  | liningEventEntry
  | rewindEnd
  | notchHoldTimeout
  | tackBufferDrain
  | istWritePerform
  | multicastLanding
  | xtrOutLanding
  | drainAck (n : Nat)
  | walkComplete
  | engineCommandStart (e : Engine)
  | copyCommandComplete (n : Nat)
  | matrixCommandComplete (n : Nat) (bad : MatrixFault)
  | shuttleSourceRead (n : Nat)
  | shuttleDelivery (d : Delivery)
  | clauseCommandComplete (n : Nat) (bad : ArrayFault)
  | packetSend
  | thimblePacket
  | thimbleReply (r : Reply)
  | mailboxNotice (n : BitVec 2)
  | mbTakeTimeout
  | acwaitTimeout
  | agreementContribution (c : Contribution)
  | lateLimitExpiry (gid : Nat)
  | agreementOutcome (o : OutcomeMsg)
  | joinRequest (j : JoinMsg)
  | joinReply (j : JoinAnswer)
  | ringSlotArrival (p : RingSlot)
  | bounceResend (n : Nat)
  | flitReceive (l : LinkId) (f : Flit)
  | linkFail (l : LinkId)
  | frameStart
  | healthBeacon (die : BitVec 10)
  | beaconTimeout (die : BitVec 10)
  | deathReport (die : BitVec 10)
  | ptpMessage (offset : Int)
  | ppsInput (offset : Int)
  | ptpSourceLoss
  | preemptionDeadline (kill : Bool)
  | kill
  | contextSave
  | contextRestore
  | contextPortDone
  | multicastControlWrite (w : Writer) (k : BitVec 4) (v : BitVec 8)
  | scrubLine (c : BitVec 7) (errs : Nat)
  | scrubberControlWrite (w : Writer) (c : BitVec 7) (v : BitVec 64)
  | wipeComplete
  | invalidate (w : Writer) (v : BitVec 64)
  | invalidationComplete
  | splitWordWrite (w : Writer) (v : BitVec 64)
  | clauseWindowSave (i : BitVec 2)
  | clauseWindowRestore (i : BitVec 2)
  | clauseWindowRebind (i : BitVec 2)
  | clauseWindowRelease (i : BitVec 2)
  | clauseWindowDone (i : BitVec 2)
  | registerWrite (w : Writer) (o : BitVec 24) (n : Nat) (v : BitVec 64)
  | nwptrWrite (timed : Bool) (v : BitVec 32)
  | fectlClr
  | fectlEnable (nen ten : Bool)
  | festatWrite
  | feNop (h : FeHead) (ws : List (BitVec 32))
  | loadImem (h : FeHead) (ws : List (BitVec 32))
  | presetAc (h : FeHead) (ws : List (BitVec 32))
  | presetHandle (h : FeHead) (ws : List (BitVec 32))
  | feRelease (h : FeHead) (ws : List (BitVec 32))
  | callIb (h : FeHead) (ws : List (BitVec 32))
  | feReturn (h : FeHead) (ws : List (BitVec 32))
  | feWait (h : FeHead) (ws : List (BitVec 32))
  | waitPoll (timed : Bool)
  | feWrite (h : FeHead) (ws : List (BitVec 32))
  | fePost (h : FeHead) (ws : List (BitVec 32))
  | postRetry (timed : Bool)
  | timedRelease (h : FeHead) (ws : List (BitVec 32))
  | timedReleaseFire
  | feBarrier (h : FeHead) (ws : List (BitVec 32))
  | barrierArrival (id : BitVec 8) (n : Nat)
  | feTimeout (timed : Bool)
  | hostPostedWrite (a : BitVec 52) (bs : List (BitVec 8))
  | hostRead (a : BitVec 52) (n : Nat)
  | recoveryJob (f : Frame)
  | recoveryPartition (f : Frame)
  | recoveryDie (f : Frame)
  | recoveryPackage (f : Frame)
  | lifecycleProvision (f : Frame)
  | lifecycleDeploy (f : Frame)
  | lifecycleReturn (f : Frame)
  | attestationQuote (nonce : BitVec 256) (part : BitVec 6)
  | powerGood
  | s1Entry (im : Image)
  | s2Entry (lin walk gpm : Image)
  | partitionCreate (part : BitVec 6) (im : NewPartition)
  | partitionTeardown (part : BitVec 6)
  | functionLevelReset (part : BitVec 6)
  | inputUndervoltage (mv us : Nat)
  | inputOvervoltage (mv us : Nat)
  | junctionOvertemp (mdeg : Nat)
  | coolantOvertemp (mdeg us : Nat)
  | notchHoldArrival (h : HoldMsg)
  | linkRetrained (l : LinkId)
  | dieReadmission (die : BitVec 10)
  | fatalMachineError (die : BitVec 10)
  | postedWriteCredit
  | stageFailure (stage : BitVec 2) (code : BitVec 32)
deriving DecidableEq, Repr

end Sys2Proof
end

