-- ==== Sys2Proof/Config.lean ====
section
/-! DEFINITION. The free values of the model: constants without a body, applied to a counter that the
state holds or to what they depend on. No proof can see what they are. -/

namespace Sys2Proof

/-- What a format descriptor describes (R204): the bytes of an entry, the index bits of each level by its lowest address bit
and their number, from the root to the leaf, and the places in an entry of the present bit, of the permissions R, W, A and M
where it has them, and of the address field by its lowest bit, its number of bits and the address bit that its lowest names. -/
structure HostFormat where
  width   : Nat
  levels  : List (Nat × Nat)
  present : Nat
  perms   : List (Option Nat)
  field   : Nat × Nat × Nat
deriving DecidableEq, Repr, Inhabited

namespace Config

/-- A free choice between two outcomes that the manual allows (log entry 7). -/
opaque freeBit : Nat → Bool

/-- A free doubleword (log entry 7). -/
opaque freeDword : Nat → Dword

/-- The format of the page tables that a partition shares with its host, by the doubleword of the format descriptor that the
lining writes (R204, R381). The manual gives that doubleword no layout (log entry 11). -/
opaque hostFormat : Dword → HostFormat

/-- The packages in the order in which they stand around rack ring A, or ring B (R290): the installation's cabling. -/
opaque rackOrder : Bool → List Nat

/-- The descriptor image that the GPM installs for a group as a program is launched (R305), by free value and group number (log
entry 68). -/
opaque groupImage : Nat → List Byte

/-- The OPS field of a slot's header, and the slot that a header and a payload stand for, whose fields outside OPS the header
gives: the manual gives OPS no layout of its own (R283; log entry 84). -/
opaque slotOps : RingSlot → BitVec 156
opaque slotOf : BitVec 256 → List Byte → RingSlot

/-- The HSS signature by the device identity key (R385): leaf index and message (log entry 8). -/
opaque hssSign : Nat → List Byte → List Byte

/-- The Glapra factory and firmware public keys in boot ROM (R382; log entry 8). -/
opaque factoryKey : List Byte
opaque firmwareKey : List Byte

/-- Doublewords of the die's identity word (R381), whose layout the manual gives for STAGE and the life-cycle state alone,
and the codes of the life-cycle states (log entry 20). -/
opaque identity : Nat → Dword
opaque lifeCode : Nat → BitVec 2

end Config

end Sys2Proof
end

