-- ==== Sys2Proof/Machine/State.lean ====
section
/-! DEFINITION. The state of the machine, as plain data, and its value at reset. One core with its die's units
and the memories of the domain (log entry 1). -/

namespace Sys2Proof.Machine

/-- Clusters, and the slots that run on them. -/
abbrev Cl := Fin 4

/-- A tile-table index, a ring number and an accumulator tile as numbers. -/
abbrev TileNo := Nat

/-- The private registers of a cluster and its flag word (R40, R68). -/
structure Cluster where
  s  : Vector Dword 32
  v  : Vector Vec 16
  m  : Vector Mask 8
  p  : Vector Bool 8
  fp : BitVec 5
deriving DecidableEq, Repr

/-- A handle register (R208). -/
structure Handle where
  valid : Bool
  inst  : BitVec 2
  pbase : BitVec 52
  ps    : BitVec 2
  rwam  : BitVec 4
  cls   : BitVec 2
  gen   : BitVec 16
  vbase : BitVec 57
  mask  : BitVec 16
deriving DecidableEq, Repr

/-- An arrival counter (R40, R263). -/
structure ArrivalCounter where
  count : Word
  err   : Bool
deriving DecidableEq, Repr

/-- A tile-table entry (R189); bits 127:64 and 44:21 read zero. -/
structure TileEntry where
  state  : BitVec 2
  type   : BitVec 3
  rowsM1 : BitVec 7
  colsM1 : BitVec 7
  base   : BitVec 21
deriving DecidableEq, Repr

/-- A ring (R195). -/
structure RingEntry where
  base  : BitVec 8
  lenM1 : BitVec 8
  head  : BitVec 8
  tail  : BitVec 8
deriving DecidableEq, Repr

/-- A group slot (R304). -/
structure GroupSlot where
  v    : Bool
  ops  : BitVec 6
  gid  : BitVec 11
  rank : BitVec 14
  aseq : BitVec 16
  cseq : BitVec 16
deriving DecidableEq, Repr

/-- A loop-stack level (R51). -/
structure LoopLevel where
  valid : Bool
  start : BitVec 16
  stop  : BitVec 16
  count : Word
  index : Word
deriving DecidableEq, Repr

/-- The registers that the first-write log saves (R155), and the transposer's array (R240). -/
structure Regs where
  cl    : Vector Cluster 4
  w     : Vector Vec 16
  a     : Vector Dword 16
  h     : Vector Handle 16
  ac    : Vector ArrivalCounter 64
  t     : Vector TileEntry 256
  q     : Vector RingEntry 8
  g     : Vector GroupSlot 32
  /-- delta(i, L) at 6i + L (R40). -/
  delta : Vector Word 96
  loops : Vector LoopLevel 6
  fmt   : Word
  pc    : BitVec 17
  /-- MBC0 to MBC3 (R326). -/
  mbc   : Vector (BitVec 16) 4
  xarr  : BitVec 524288
  xwidth : BitVec 6
deriving DecidableEq, Repr

/-- An accumulator tile: element (i, j) in bits 32(128i + j) up, and a poison mark for each element (R196). -/
structure AccTile where
  data   : BitVec 524288
  poison : BitVec 16384
deriving DecidableEq, Repr

/-- What a group knows of a register it wrote (R17, R24). -/
inductive RegId where
  | s (k : Cl) (n : Nat) | v (k : Cl) (n : Nat) | m (k : Cl) (n : Nat) | p (k : Cl) (n : Nat) | fp (k : Cl)
  | w (n : Nat) | a (n : Nat) | h (n : Nat) | ac (n : Nat) | t (n : Nat) | q (n : Nat) | z (n : Nat) | g (n : Nat)
  | lu (i l : Nat) | fmt | sys (n : Nat)
deriving DecidableEq, Repr

/-- Where the bytes of a load go (R217, R219 to R223). -/
inductive LoadDest where
  /-- A scalar register, the bytes sign-extended or not. -/
  | scalar (d : BitVec 5) (sext : Bool)
  /-- A vector field: v0 to v15, then w0 to w15. -/
  | vec (d : BitVec 5)
  | mask (d : BitVec 3)
deriving DecidableEq, Repr

/-- One access of a load or store: element number, physical address, size in bytes. -/
structure Access where
  elem : Nat
  addr : Nat
  size : Nat
deriving DecidableEq, Repr

/-- A local atomic on its way (R225 to R227). -/
structure AtomicOp where
  minor : BitVec 4
  wide  : Bool
  addr  : Nat
  /-- Offset of the cell in its page, for the FAC members. -/
  off   : Nat
  opnd  : Dword
  cmp   : Dword
deriving DecidableEq, Repr

/-- What a result in flight does when it lands (R42). -/
inductive Landing where
  | s (d : BitVec 5) (v : Dword)
  | p (d : BitVec 3) (v : Bool)
  /-- The bits of en of a vector field's register take those of v (R123). -/
  | vec (d : BitVec 5) (en v : Vec)
  | m (d : BitVec 3) (en v : Mask)
  | flags (f : BitVec 5)
  | a (d : BitVec 4) (v : Dword)
  | h (d : BitVec 4) (v : Handle)
  | hdrop (d : BitVec 4)
  | acset (k : BitVec 6) (v : Word)
  | acadd (k : BitVec 6) (v : Word)
  | lu (i : BitVec 4) (l : BitVec 3) (v : Word)
  | fmt (v : Word)
  | sys (n : Nat) (v : Dword)
  | ctxReg (n : BitVec 10) (k : BitVec 2) (v : Dword)
  | tile (n : BitVec 8) (e : TileEntry)
  | tileState (n : Nat) (st : BitVec 2)
  | ring (n : BitVec 3) (e : RingEntry)
  /-- HEAD of a ring advances (R231). -/
  | pop (n : BitVec 3)
  | aseq (g : BitVec 5) (v : BitVec 16)
  | load (dst : LoadDest) (acc : List Access)
  | atomic (d : BitVec 5) (op : AtomicOp)
  | drain (scope : BitVec 2)
  /-- The columns that xtr.out writes (R241): tile, element bits and the bytes in order. -/
  | xtr (n : BitVec 8) (width : Nat) (cells : BitVec 524288)
deriving DecidableEq, Repr

/-- An injected upset on one operation (R120). -/
inductive Upset where
  | none
  | residue (delta : BitVec 4) (lane : BitVec 9)
  | shadow (lane : BitVec 9)
  | poison
  | drop
deriving DecidableEq, Repr

/-- What the residue unit checks of a result: nothing, one scalar, or every element of a size (R164). -/
inductive Checked where
  | no
  | scalar
  | elems (bits : Nat)
  /-- vcx: the sum of the residues of the two results (R11); the other result. -/
  | pair (bits : Nat) (other : Vec)
deriving DecidableEq, Repr

/-- A result in flight (R42): due in a running cycle (lining cycle for the lining), issued in cycle iss by a
slot of a bundle. `raw` holds bytes already read of memory. -/
structure Flight where
  due   : Nat
  iss   : Nat
  baddr : BitVec 17
  slot  : Cl
  word  : Word
  land  : Landing
  chk   : Checked
  upset : Upset
  raw   : Option (List Byte)
  /-- Its reply has not come (R45, cause 4). -/
  late  : Bool
deriving DecidableEq, Repr

/-- A store under way (R157, R268): its bytes in ascending order of writing, the running cycle of its issue and of its
local point, which a freeze moves (R42, R45), and the core-clock cycle in which its bytes are in memory (R46). For the
lining, whose stores perform in the core-clock cycle that the matching load gives, the cycle of its issue counts lining
cycles, and the other two are that core-clock cycle. `commit` is the running cycle in which its panel committed, 0
before. -/
structure Gate where
  cells : List Host.Cell
  iss   : Nat
  local_ : Nat
  reach : Nat
  commit : Nat
deriving DecidableEq, Repr

/-- A command's operation, with what it read at issue. -/
inductive CmdOp where
  /-- ce.copy of a tile form (R242). -/
  | copyTile (h : Handle) (off : Dword) (tile : TileNo)
  /-- A descriptor form, by its minor code. -/
  | copyDesc (minor : Nat) (h : Handle) (off : Dword)
  | mma (z a b : TileNo) (scaled : Bool)
  | mzero (z : TileNo)
  | mdrain (z : TileNo) (target : Option TileNo) (spool : Nat) (scale : Word) (clear : Bool)
  | mload (z s : TileNo)
  /-- sh.send: source tile or spool reservation, and the own-scratchpad offset of the route list (R250, R259). -/
  | send (src : Option TileNo) (spool : Nat) (off : Nat)
  /-- A collective (R253): minor, group slot fields, argument field, tiles. -/
  | coll (minor : Nat) (gid : Nat) (rank : Nat) (cseq : BitVec 16) (arg : Nat) (spool : Nat) (dst : TileNo)
  /-- A thimble command by its minor, its handle, offset and block (R320). -/
  | thimble (minor : Nat) (h : Handle) (off blk : Dword)
  /-- mb.post and mb.take (R326 to R328). -/
  | post (target : Dword) (blk : Dword)
  | take (n : BitVec 2) (blk : Dword) (got : Bool)
  /-- A clause-array command by its minor, with its operand (R342). -/
  | clause (minor : Nat) (arg : Dword) (h : Handle)
deriving DecidableEq, Repr

/-- A command in a queue (R50): the format word of its issue (R55), the tiles it reads, pops and writes and
its accumulator tile (R192), and whether its panel is still open (R156). -/
structure Cmd where
  id     : Nat
  held   : Bool
  ac     : BitVec 6
  lining : Bool
  fmt    : Word
  reads  : List TileNo
  pops   : List TileNo
  writes : List TileNo
  z      : Option TileNo
  /-- Set when an invalidation took its handle copy (R211). -/
  revoked : Bool
  /-- The slot operation that made it: its word, bundle and slot. -/
  word   : Word
  baddr  : BitVec 17
  slot   : Cl
  op     : CmdOp
deriving DecidableEq, Repr

/-- The bundle in decode: its address, words and header (R13, R19). -/
structure Bundle where
  addr   : BitVec 17
  words  : Vector Word 4
  header : Option Word
deriving DecidableEq, Repr

/-- A change of flow by slot 0 of a bundle. -/
inductive Flow where
  | none
  | jump (target : Nat)
  | bswap (target : Nat)
  | lbrk
  | openLoop (stop : BitVec 16) (count : Word)
  /-- A loop of count zero: the bundle after its end issues next (R100). -/
  | skip (target : Nat)
  /-- An agreed branch took its arm (R311): the address of the next bundle. -/
  | arm (target : Nat)
deriving DecidableEq, Repr

/-- Why the main context stops after its bundle (R84, R85, R171). -/
inductive StopReq where
  | halt
  | idle
  | seam (d : BitVec 16)
deriving DecidableEq, Repr

/-- A trap that a bundle raises (R151). -/
structure TrapRec where
  cause  : Nat
  smask  : BitVec 4
  reason : Nat
  code   : BitVec 10
  detail : Dword
deriving DecidableEq, Repr

/-- A rollback trigger (R159, R162), with the operation that failed. -/
structure Trigger where
  cause : Nat
  smask : BitVec 4
  slot  : Cl
  lane  : BitVec 9
  exp   : BitVec 4
  obs   : BitVec 4
  word  : Word
  baddr : BitVec 17
  addr  : Dword
  /-- DETAIL of the trap of a cause 5 or 6 (R151), and HANDLEINFO for cause 5, its CONFL bits zero (R210). -/
  detail : Dword
  info  : Dword
  iss   : Nat
  /-- The results that failed, by issue cycle and slot (R158), and the poisoned lines consumed (R167). -/
  lost  : List (Nat × Cl)
  lines : List Nat
deriving DecidableEq, Repr

/-- The instructions that wait for an agreement (R304). -/
inductive AgreeKind where
  | agr
  | agv (d : BitVec 5)
  | agj
deriving DecidableEq, Repr

/-- An instruction that waits for its outcome (R306, R311 to R316): its bundle, the arm it would take, the arm
that the main context runs ahead on, its contribution until it is sent, and for a prediction the registers after
its bundle, from which the arm that was not taken ahead goes on (R314). -/
structure AgreeWait where
  slot   : BitVec 5
  kind   : AgreeKind
  gid    : Nat
  seq    : BitVec 16
  tag    : BitVec 10
  baddr  : BitVec 17
  target : Nat
  ahead  : Option Bool
  part   : Option Contribution
  nr     : Bool
  /-- Commands with a lower identifier were issued before its bundle. -/
  limit  : Nat
  iss    : Nat
  after  : Regs
deriving DecidableEq, Repr

/-- What the bundle in progress has called for so far; it is settled when its last slot has executed. -/
structure Issue where
  /-- The lowest freeze cause that holds it, and every cause that holds (R45). -/
  hold    : Option Nat
  causes  : List Nat
  trap    : Option TrapRec
  trigger : Option Trigger
  flow    : Flow
  /-- The bundle acts as a tack (R105, R311): the registers at its issue. -/
  tack    : Option Regs
  stop    : Option StopReq
  /-- A software trap (R110): slot mask and code. -/
  soft    : Option (BitVec 4 × BitVec 10)
  /-- Slots whose operation issued with a true predicate (R120). -/
  live    : BitVec 4
  /-- The bundle made the open panel irrevocable (R158). -/
  irrev   : Bool
  /-- Store halves of the scratchpad's atomics whose due cycle this is: they perform as the running cycle ends (R268). -/
  performs : List (List Host.Cell)
  /-- Its gated stores, by slot (R157). -/
  stores  : List (Cl × Gate)
  /-- The handle-plus-offset sums of its accesses: slot, lane for a lane-wise access, sum (R164). -/
  sums    : List (Cl × Option Nat × Nat)
  /-- An ifence covers older ist writes and empties the loop buffer (R107). -/
  ifence  : Bool
  /-- The agreement that this bundle waits for (R306). -/
  agree   : Option AgreeWait
  notch   : Option (BitVec 16)
  /-- The number of the seam that it passes (R171). -/
  seam    : Option Word
deriving DecidableEq, Repr

/-- The open panel (R153, R155, R157, R160, R167). -/
structure Panel where
  entryPc : BitVec 17
  entry   : Regs
  irrev   : Bool
  retry   : Nat
  eaten   : List Nat
  /-- It was rewound, and no bundle has issued since. -/
  replay  : Bool
  gates   : List Gate
deriving DecidableEq, Repr

/-- An ist write under way (R106): its ist address, its word and the running cycle in which it performs. -/
structure IstWrite where
  addr : Nat
  word : Word
  due  : Nat
  iss  : Nat
deriving DecidableEq, Repr

/-- A multicast store under way (R188): the core-clock cycle of its landing, the die whose cores its mask names, and its cells
by scratchpad offset. -/
structure McastStore where
  due   : Nat
  die   : Nat
  mask  : BitVec 16
  cells : List Host.Cell
deriving DecidableEq, Repr

/-- A reservation of a spool slot (R247): its mdrain's command, the shuttle command that claimed it, the tile
it holds once the drain is done, and whether its panel is still open. -/
structure SpoolSlot where
  id      : Nat
  type    : BitVec 3
  claimed : Option Nat
  data    : Option (List Byte × List Nat)
  held    : Bool
deriving DecidableEq, Repr

/-- The synchronous core: everything that a bundle's slots change. -/
structure Core where
  regs    : Regs
  z       : Vector AccTile 64
  flights : List Flight
  /-- Loop-backs whose deltas the next cycle applies (R53). -/
  backs   : List Nat
  slot    : Cl
  bundle  : Bundle
  iss     : Issue
  landed  : Bool
  group   : List RegId
  panel   : Option Panel
  ists    : List IstWrite
  /-- ist writes to the idle half that no ifence covers (R97, R107): their issue cycles. -/
  loose   : List Nat
  lbuf    : List (BitVec 17 × Vector Word 4)
  /-- The loop buffer captures: no ifence or bswap has issued since the innermost level opened (R54). -/
  lfill   : Bool
  /-- The last bundle of a region issued and nothing follows (R81). -/
  offEnd  : Bool
  copyQ   : List Cmd
  matrixQ : List Cmd
  shuttleQ : List Cmd
  outboxQ : List Cmd
  clauseQ : List Cmd
  spool   : List SpoolSlot
  mcast   : List McastStore
  agree   : Option AgreeWait
  nextId  : Nat
deriving DecidableEq, Repr

/-- Whether the main context runs, and why it does not (R57). -/
inductive Status where
  | notReleased
  | running
  | trapped
  /-- Stopping after a halt, or at a seam: results land and commands start first (R84, R171, R249). -/
  | halting (seam : Option (BitVec 16))
  | halted
  | idle
  | held
  /-- Killed or torn down (R172). -/
  | dead
deriving DecidableEq, Repr

/-- What follows a rewind (R159 to R161). -/
inductive RewindAfter where
  | replay
  | trap (t : TrapRec)
  /-- A wrong prediction, or a handler: the state is that of the right arm already (R315). -/
  | arm
deriving DecidableEq, Repr

/-- A rewind under freeze cause 9 (R159): its first cycle after the freeze. -/
structure Rewind where
  until_ : Nat
  after  : RewindAfter
deriving DecidableEq, Repr

/-- A timed wait (R264, R329, R169): the slot that waits; 0 acwait, 1 mb.take, 2 a notch hold; PTIME in whole
nanoseconds of its first held cycle, the time it may last, whether it ran out; the counter and count of an acwait,
the mailbox of an mb.take. -/
structure TimedWait where
  slot    : Nat
  kind    : Nat
  since   : Nat
  limit   : Nat
  expired : Bool
  what    : Nat
  need    : Nat
deriving DecidableEq, Repr

/-- The freeze of the main context as the core sees it, outside what a held bundle gives back. -/
structure Hold where
  /-- FCAUSE (R45, R60). -/
  cause : Nat
  /-- Core-clock cycles of one freeze under causes 1, 2, 3 or 6, and whether its alert has been given (R48). -/
  len   : Nat
  alerted : Bool
  /-- The reply watchdog (R47). -/
  wdog  : Nat
  waits : List TimedWait
  /-- An eret with code 0 or 1 has just resumed the main context: its next bundle issues before any charged lining cycle
  (R117). -/
  resumed : Bool
deriving DecidableEq, Repr

/-- An event that waits for the lining (R149): its entry address and its detail. -/
structure LinEvent where
  entry  : Nat
  detail : BitVec 52
deriving DecidableEq, Repr

/-- The lining (R56 to R60). -/
structure Lining where
  pc      : BitVec 16
  s       : Vector Dword 32
  p       : Vector Bool 8
  a       : Vector Dword 16
  h       : Vector Handle 16
  flights : List Flight
  /-- Stores under way (R268). -/
  stores  : List Gate
  /-- Lining cycles so far (R56). -/
  cyc     : Nat
  serving : Bool
  pend    : List LinEvent
  /-- Stopped by a lining fault (R152). -/
  stopped : Bool
  yielded : Bool
  charge  : Nat
  /-- SHARE as written, and as it holds in this window (R60). -/
  share   : BitVec 8
  shareNow : BitVec 8
  wdexp   : BitVec 5
  iss     : Issue
  bundle  : Bundle
  /-- EVINFO (R149). -/
  evinfo  : Dword
  /-- Entry address of the event served last (R149). -/
  entered : Nat
  /-- The core-clock cycle of the last reset, from which the windows of SHARE are counted (R58). -/
  since   : Nat
deriving DecidableEq, Repr

/-- A partner's notch hold (R168): its rank, the notch it carried, and the last notch the partner passed since. -/
structure NotchHold where
  rank    : Nat
  carried : BitVec 16
  passed  : BitVec 16
deriving DecidableEq, Repr

/-- This core's part in a stop cut (R171): nothing yet, its number sent from a seam that it is held at or by hardware,
or the outcome has come. -/
inductive CutState where
  | fresh
  | sent (held : Bool)
  | answered
deriving DecidableEq, Repr

/-- System registers of the core that are plain words (R114). -/
structure SysRegs where
  trapinfo0 : Dword
  trapinfo1 : Dword
  mcinfo0   : Dword
  mcinfo1   : Dword
  mcinfo2   : Dword
  mcinfo3   : Dword
  agstat    : Dword
  seamreq   : Dword
  handleinfo : Dword
  inject    : Dword
  /-- ERR of CLSTAT: the core's last clause command (R341). -/
  clErr     : BitVec 4
  /-- ERR and SAT of sh.stat (R262). -/
  shErr     : BitVec 4
  shSat     : Bool
  /-- The last notch passed (R163). -/
  notch     : BitVec 16
  /-- The last seam passed, and this core's part in the cut (R171). -/
  lastSeam  : Word
  cut       : CutState
  /-- Notch holds of partners, by rank, and whether this core has sent its own (R168, R169). -/
  holds     : List NotchHold
  holdSent  : Bool
  /-- Notch holds and releases that this core has sent, oldest first. -/
  notes     : List HoldMsg
  /-- The seam descriptor table that the launch handed to the lining (R171, R370). -/
  seams     : List (BitVec 128)
  /-- An engine's machine check that waits for the next issue (R149): trap cause and detail. -/
  engine    : Option (Nat × Dword)
  /-- Reports of agreement that software may read by group (R309). -/
  reports   : List (Nat × Report)
deriving DecidableEq, Repr

/-- Memory: bytes by physical address (R178) in canonical form (addresses rising, no zero byte), the poisoned
64-byte lines (R165), and the 32-bit check fields of 256-byte granules (R198), by granule: those that are not the CRC-32C of
their granule's bytes, every other field being that CRC. Both are rising. -/
structure Memory where
  cells  : List Host.Cell
  poison : List Nat
  fields : List (Nat × Word)
deriving DecidableEq, Repr

/-- Instruction memories (R1, R56, R80): half 0 at 0, half 1 at 0x10000, the resident area at 0x20000, and
the lining store at 0x30000; `swapped` when half 1 is active. -/
structure InstrMem where
  cells   : List Host.Cell
  swapped : Bool
deriving DecidableEq, Repr

/-- What a command does when it completes: its stores in order, the lines it marks after them, the granules to which it
carries a check field that fails, with that field (R198), an accumulator tile, the data and marks of a spool slot, the code of its error or
zero, and the address of that error. -/
structure Effect where
  stores : List (List Host.Cell)
  poison : List Nat
  broke  : List (Nat × Word)
  z      : Option (TileNo × AccTile)
  spool  : Option (Nat × List Byte × List Nat)
  code   : Nat
  addr   : Dword
deriving DecidableEq, Repr

/-- A command that an engine has started (R50): its first core-clock cycle, the one in which it completes where the
manual gives it, its effect as its reads stood at the start, and how far it has got: source read (R252), parts
left, packet formed (R321), rounds done (R349), whether nothing more is to come, the hops of a route (R250), the
addresses of bytes that have taken effect before its end (R194), what it read as it started and keeps to: the bytes of its
descriptor, or of the scale tails of its operands (R236, R243), the image that a cl.ld found as it started (R271), and memory as
a copy command found it then (R244, R246). -/
structure Running where
  cmd     : Cmd
  seen    : Memory
  flowed  : List Nat
  kept    : List Byte
  image   : List Host.Cell
  start   : Nat
  due     : Option Nat
  eff     : Effect
  srcRead : Bool
  left    : Nat
  packet  : Option Packet
  rounds  : Nat
  ended   : Bool
  route   : List Nat
deriving DecidableEq, Repr

/-- The health window (R381): the manual counts into it and puts records there, and gives no layout. Counts by
the rule that counts them, and records in the order made. -/
structure Health where
  counts  : List (Nat × Nat)
  records : List (Dword × Dword)
deriving DecidableEq, Repr

/-- Who this core is (R178, R380). -/
structure Ident where
  die  : BitVec 10
  core : BitVec 4
  part : BitVec 6
  /-- The GPM's number of the job that holds the core (R386). -/
  job  : BitVec 16
deriving DecidableEq, Repr
/-- A leaf of a page table as the walker and the buffers hold it (R203, R206). -/
structure Leaf where
  part  : BitVec 6
  vbase : BitVec 57
  ps    : BitVec 2
  rwam  : BitVec 4
  cls   : BitVec 2
  pbase : BitVec 52
deriving DecidableEq, Repr

/-- A walk that an xlat of this core has asked the die's walker for (R205, R206): its address, whether the lining asked, and
how it ended. -/
structure Walk where
  va     : Dword
  lining : Bool
  ended  : Option Bool
deriving DecidableEq, Repr

/-- An interleave set of a partition on a die (R185). -/
structure InterleaveSet where
  part     : BitVec 6
  die      : BitVec 10
  start    : Nat
  size     : Nat
  channels : List (BitVec 6)
  granule  : Nat
deriving DecidableEq, Repr

/-- Translation: the buffers of the core (64 entries) and of the die (4,096), most recently used first, the walks asked for
in the order of their arrival, and the double matches that the bundle in hand has met (R207). -/
structure Translation where
  core  : List Leaf
  die   : List Leaf
  walks : List Walk
  confl : Nat
deriving DecidableEq, Repr

/-- Registers of the die (R381) whose bytes software reads and writes as they stand: by offset in region 6. -/
structure Region6 where
  cells : List Host.Cell
  sets  : List InterleaveSet
deriving DecidableEq, Repr

/-- A member of a group as the root holds it (R305, R310). -/
structure GroupMember where
  die     : BitVec 10
  core    : BitVec 4
  current : Bool
deriving DecidableEq, Repr

/-- A pending instance (R306): PTIME in nanoseconds of its first contribution, whether a death fell into its time
(R310), and what it holds. -/
structure Instance where
  seq   : BitVec 16
  since : Nat
  dead  : Bool
  parts : List Contribution
deriving DecidableEq, Repr

/-- A resolved instance with its stored outcome (R308). -/
structure Resolved where
  seq     : BitVec 16
  outcome : BitVec 3
  late    : Bool
  dead    : Bool
  value   : BitVec 32
  report  : Report
deriving DecidableEq, Repr

/-- An agreement group at its combiner root (R304 to R310): its descriptor, the instances that are pending, the last
four resolved with the latest first, whether DEAD waits for the next resolution, one past the highest instance that
has received a contribution, and whether a member was removed as dead (R261). The dies of the other members hold the
descriptor too, for the collectives (R253); `launched` names the cores of this die released since it was installed (log entry
68). -/
structure Group where
  gid      : Nat
  ops      : BitVec 6
  present  : Bool
  late     : Nat
  handler  : Nat
  facb     : Int
  members  : List GroupMember
  pending  : List Instance
  resolved : List Resolved
  deadNext : Bool
  next     : BitVec 16
  broken   : Bool
  launched : List Nat
deriving DecidableEq, Repr

/-- Contributions to a collective instance that the fabric holds for this core (R253). -/
structure CollInst where
  gid   : Nat
  cseq  : BitVec 16
  parts : List CollPart
deriving DecidableEq, Repr

/-- A delivery whose first byte has landed (R252): its tile, its bytes, the lines that are poisoned, and the code of
R261 that it reports. -/
structure Arriving where
  delivery : Delivery
  tile     : TileNo
  /-- The core-clock cycle of its first byte, and the addresses of bytes that have taken effect (R194). -/
  start    : Nat
  flowed   : List Nat
  cells    : List Host.Cell
  bad      : List Nat
  err      : BitVec 4
deriving DecidableEq, Repr

/-- A user routine that a thimble runs (R300): the packet that called it, its thimble, x0 to x7 and the word to run. -/
structure Routine where
  packet : Packet
  die    : Nat
  unit   : Nat
  x      : Vector Dword 8
  pc     : Nat
deriving DecidableEq, Repr
/-- The invalidation word of the die (R212), its first doubleword as written, and the physical ranges on which it waits for
accesses (R211). -/
structure Invalidation where
  vstart  : Dword
  part    : BitVec 6
  count   : BitVec 32
  busy    : Bool
  done    : Bool
  refused : Bool
  ranges  : List (Nat × Nat)
deriving DecidableEq, Repr

/-- The context port of this core (R174), and the cycle from which its transfer may end. -/
structure ContextPort where
  addr    : BitVec 52
  accmask : Dword
  restore : Bool
  sect    : BitVec 9
  busy    : Bool
  done    : Bool
  err     : BitVec 4
  due     : Nat
deriving DecidableEq, Repr

/-- A link of a port as its station sees it (R288, R289): whether it is trained, the next flit number that
it expects, failures in a row of that flit, the flits of a slot that has not come whole, package times of its CRC failures, the
number of the next flit it sends, and its retry buffer: unacknowledged flits, each by its number, which of its slot's five it is,
and its 64 bytes. -/
structure LinkState where
  up     : Bool
  expect : Nat
  fails  : Nat
  got    : List (BitVec 512)
  errs   : List Nat
  next   : Nat
  retry  : List (Nat × Nat × BitVec 512)
deriving DecidableEq, Repr

/-- A slot that came back to its source (R287): how often it has bounced, and from which core-clock cycle it may go out
again; none while it is out. -/
structure Bounce where
  slot : RingSlot
  n    : Nat
  due  : Option Nat
deriving DecidableEq, Repr

/-- The ring station of the die (R282 to R293), and the bridge station of D0 and D4 (R290): links of the package ring (east
0 to 3, west 0 to 3) and of the bridge's rack ports in the same order, slots that bounced, slots that came before an earlier
one of their source, the number that each source's next slot to a unit bears (R272), the number that the next slot of a
source core of this die to a unit of a die bears, slots that wait here for a position of their partition, the links and positions
that slots have taken in the frame (R286), slots of packets that have not come whole, package times of the last beacons, the
last microsecond in which this die sent its own, the frame, the reservation table in force and those written for a later frame
(R285), the same of the bridge's rack ring, the packages around that ring from which the bridge counts hops (its own position
and the ring's size among them), dies that a recovery frame has reset and the GPM has not readmitted (R292), and whether the
PCIe function has posted-write credit. -/
structure Fabric where
  links   : Vector LinkState 16
  bounces : List Bounce
  early   : List RingSlot
  seqs    : List (BitVec 10 × BitVec 4 × BitVec 7 × BitVec 16)
  sent    : List (BitVec 4 × BitVec 10 × BitVec 7 × BitVec 16)
  waiting : List RingSlot
  used    : List (Nat × Nat)
  parts   : List RingSlot
  seen    : List (Nat × Nat)
  beat    : Nat
  frame   : Nat
  table   : List Host.Cell
  tables  : List (Nat × List Host.Cell)
  rackTable  : List Host.Cell
  rackTables : List (Nat × List Host.Cell)
  order   : List Nat
  resets  : List Nat
  credit  : Bool
deriving DecidableEq, Repr

/-- A launch record that a front end has read and checked (R370). -/
structure LaunchRecord where
  entry : BitVec 17
  prm   : Word
  tiles : List (BitVec 8 × TileEntry)
  rings : List (BitVec 3 × RingEntry)
  seams : List (BitVec 128)
deriving DecidableEq, Repr

/-- Cores to be released (R371, R372). -/
structure Launch where
  mask   : BitVec 16
  base   : BitVec 16
  ncores : Word
  time   : Nat
  rec_   : LaunchRecord
deriving DecidableEq, Repr

/-- What a ring waits for (R372, R374). -/
inductive FeWait where
  | cores (mask : BitVec 16)
  | word (va : Dword) (eq : Bool) (value : Word)
  | barrier (id : BitVec 8) (n : Nat) (met : Nat)
  | release (l : Launch)
  | post (target : Word) (payload : List Word)
deriving DecidableEq, Repr

/-- A command that waits: its words after the header, PTIME in nanoseconds when it began, its limit in microseconds (0
for none), and the last microsecond in which it was tried. -/
structure Waiting where
  what   : FeWait
  head   : FeHead
  words  : Nat
  since  : Nat
  limit  : Nat
  polled : Nat
deriving DecidableEq, Repr

/-- An indirect buffer in execution (R367): its address, length, next word, and the flags of its CALL_IB. -/
structure IndirectBuffer where
  va    : Dword
  len   : Nat
  pos   : Nat
  flags : BitVec 8
deriving DecidableEq, Repr

/-- A command ring (R362), its indirect buffers with the innermost first, and the command that waits. -/
structure CommandRing where
  base : Dword
  size : Word
  rptr : Word
  wptr : Word
  en   : Bool
  bufs : List IndirectBuffer
  wait : Option Waiting
  /-- Stopped on an error, with the length of the top-level command that failed (R363, R375). -/
  stopped : Bool
  skip    : Nat
  /-- Words prefetched from the next header on, along the path that ring and buffers give (R368). -/
  pre     : List Word
deriving DecidableEq, Repr

/-- The partition's front end on this die (R362, R363): its rings, FESTAT's fields, and barriers that other front ends have
reached. -/
structure FrontEnd where
  normal   : CommandRing
  timed    : CommandRing
  err      : Bool
  ering    : Bool
  code     : BitVec 4
  depth    : BitVec 3
  latecnt  : BitVec 16
  eword    : Word
  barriers : List (BitVec 8 × Nat)
deriving DecidableEq, Repr

/-- Registers of this core that presets and group-slot writes have named since its last release (R371). -/
structure Presets where
  ac : List Nat
  h  : List Nat
  g  : List Nat
deriving DecidableEq, Repr

/-- The life cycle (R389). -/
inductive LifeCycle where
  | blank | provisioned | deployed | returned
deriving DecidableEq, Repr

/-- A partition that the GPM has created (R380, R384): its number, its image and measurement register, its PCIe function, and its
quads on other dies. -/
structure Partition where
  num   : BitVec 6
  image : List Byte
  mr    : List Byte
  fn    : Option Nat
  quads : List (BitVec 10 × BitVec 2)
deriving DecidableEq, Repr

/-- Boot, measurement, keys and life cycle of the package (R378 to R390): whether the rails have power, the stage, the
stage and code of a failure, measurement registers, partitions, the lining image, what
fuses hold (life-cycle state, owner key, count), the identity key by its generation, what flash holds (replay
counter, next unused leaf, fuse count of its record), and a transition of the life cycle that waits for its wipe, with the owner
key that it enrols (R389). -/
structure Boot where
  power    : Bool
  stage    : Nat
  failure  : Option (BitVec 2 × BitVec 32)
  mr0      : List Byte
  mr1      : List Byte
  parts    : List Partition
  lining   : List Byte
  life     : LifeCycle
  owner    : Option (List Byte)
  fuses    : Nat
  identity : Option Nat
  keys     : Nat
  ctr      : Nat
  leaf     : Nat
  record   : Nat
  change   : Option (LifeCycle × List Byte)
deriving DecidableEq, Repr

/-- The discipline of package time (R295): the correction still to be made and the part of a ninth of a nanosecond not
yet in PTIME, both in millionths of a ninth; the last rate, in millionths of a ninth per cycle; holdover; and the package
that the GPM names as the time master. -/
structure TimeKeeping where
  master   : Nat
  corr     : Int
  frac     : Int
  rate     : Int
  holdover : Bool
deriving DecidableEq, Repr

/-- What leaves the part of the machine that the model holds. -/
inductive Output where
  /-- A ring slot leaves the station by the ring in its header (R282). -/
  | slot (p : RingSlot)
  /-- A flit goes out on a link, by the link's number: one of the five of a slot that leaves, or one of the retry buffer again
  (R288, R289). -/
  | flit (link : Nat) (f : Flit)
  /-- A flit of a link is acknowledged, or asked for again (R288). -/
  | ack (l : LinkId) (seq : Nat)
  | replay (l : LinkId) (seq : Nat)
  /-- A health beacon, or a death report, in position 0 (R292). -/
  | beacon (die : BitVec 10)
  | death (die : BitVec 10)
  /-- Package time, or a reservation table, that goes on in position 0 (R285, R295). -/
  | system (m : SystemMsg)
  /-- An MSI-X message of the partition's function (R364, R375). -/
  | interrupt
  /-- Bytes that the host reads, none on an error (R277, R199). -/
  | hostData (a : BitVec 52) (bs : Option (List Byte))
  /-- An attestation quote: signature and PTIME (R385). -/
  | quote (sig : List Byte) (time : Nat)
  /-- A host-bound slot's bytes (R287). -/
  | toHost (a : BitVec 52) (bs : List Byte)
deriving DecidableEq, Repr

/-- A literal of a column: its row, positive or not (R334). -/
structure Lit where
  row : BitVec 11
  pos : Bool
deriving DecidableEq, Repr

/-- A column that is enabled or has literals (R334): its number, its enable, its literals by rising row. -/
structure ClauseColumn where
  num  : Nat
  en   : Bool
  lits : List Lit
deriving DecidableEq, Repr

/-- A trail entry (R338). -/
structure TrailEntry where
  round  : BitVec 16
  reason : BitVec 13
  level  : BitVec 8
  val    : Bool
  row    : BitVec 11
deriving DecidableEq, Repr

/-- The state of an instance (R335). -/
inductive Binding where
  | free
  | bound (core : BitVec 4)
  | failed (core : BitVec 4)
  | resident
deriving DecidableEq, Repr

/-- An instance of the clause array (R332, R334): the job whose context it holds (R335, R353), its columns by rising number,
its level, and its trail, oldest first. The row states are those that the trail names (R338). RES and the report words are
R340's. -/
structure ClauseInst where
  binding : Binding
  job     : BitVec 16
  cols    : List ClauseColumn
  level   : BitVec 8
  trail   : List TrailEntry
  res     : BitVec 2
  report  : Vector Dword 4
deriving DecidableEq, Repr

/-- A clause window (R354); `mine` when this core's lining wrote GO, `since` the cycle from which its operation runs: that of GO,
or of the completion of the instance's command; `cycles` those that it takes, 0 for one that fails. -/
structure ClauseWindow where
  addr : BitVec 52
  op   : BitVec 2
  core : BitVec 4
  busy : Bool
  done : Bool
  err  : BitVec 4
  mine : Bool
  since : Nat
  cycles : Nat
deriving DecidableEq, Repr

/-- The clause array of the die (R332, R333). -/
structure ClauseArray where
  split : Dword
  inst  : Vector ClauseInst 4
  win   : Vector ClauseWindow 4
deriving DecidableEq, Repr

/-- The machine. -/
structure State where
  core  : Core
  /-- The core as it stood before the results of this cycle landed; a bundle that does not commit gives it back. -/
  save  : Core
  lsave : Lining
  /-- The core as the bundle in decode found it, with the results of its cycle landed; a trap or a trigger on that bundle
  leaves it so (R148, R159; log entry 23). -/
  found : Core
  /-- Whose operation the next slot operation is. -/
  ctx   : Ctx
  status : Status
  rewind : Option Rewind
  hold  : Hold
  sys   : SysRegs
  lin   : Lining
  imem  : InstrMem
  mem   : Memory
  /-- Committed stores that have not reached memory (R157). -/
  drains : List Gate
  running : List Running
  xlate : Translation
  reg6  : Region6
  health : Health
  id    : Ident
  /-- Core-clock cycle, running cycle (R4), and package time in ninths of a nanosecond (R295; log entry 5). -/
  clock : Nat
  run   : Nat
  ptime : Nat
  agenda : List Ev
  /-- Arrivals that have not come yet: replies, outcomes and deliveries on their way to this core, each with the
  cycle before which it cannot come (log entry 6). -/
  wires : List (Nat × Ev)
  /-- Deliveries under way into tiles of this core (R252). -/
  arriving : List Arriving
  groups : List Group
  /-- Packets on their way to thimbles, oldest first (R272, R297), and the user routine in progress (R300). -/
  packets : List Packet
  routine : Option Routine
  /-- Dies declared dead (R293). -/
  deadDies : List Nat
  colls  : List CollInst
  /-- Multicast stores of other cores of the die that are under way, as they come from outside (R188; log entry 1). -/
  casts  : List Multicast
  clause : ClauseArray
  /-- Counter increments of this cycle, with their errors, and those of the cycles before it in which the same running cycle
  stood frozen (R265). -/
  arrivals : List (BitVec 6 × Bool)
  earlier  : List (BitVec 6 × Bool)
  inval  : Invalidation
  /-- Cores whose multicast window is being closed (R187). -/
  closing : List Nat
  port   : ContextPort
  fabric : Fabric
  fe     : FrontEnd
  presets : Presets
  boot   : Boot
  time   : TimeKeeping
  /-- Physical ranges that are being wiped: start and size (R201). -/
  wipes  : List (Nat × Nat)
  /-- Next line of each patrol scrubber, 64 channels and 4 vaults (R200). -/
  scrub  : Vector Nat 68
  /-- What has left, oldest first. -/
  outs   : List Output
  /-- Counter of the free values (log entry 7). -/
  free  : Nat
deriving DecidableEq, Repr

/-- Why the machine stops: no step of this hardware ends so. -/
inductive Fault where
deriving DecidableEq, Repr

/-- Why a step has no meaning. -/
inductive Refusal where
  /-- Raised by the dispatch for an instruction without a meaning. Safe. -/
  | notModelled (mnemonic : String)
deriving DecidableEq, Repr

abbrev Result := Host.Outcome State Fault Refusal

def Cluster.reset : Cluster :=
  { s := Vector.replicate 32 0, v := Vector.replicate 16 0, m := Vector.replicate 8 0,
    p := Vector.replicate 8 false, fp := 0 }

def Handle.reset : Handle :=
  { valid := false, inst := 0, pbase := 0, ps := 0, rwam := 0, cls := 0, gen := 0, vbase := 0, mask := 0 }

/-- The registers after the wipe of reset (R201); FMT is 1 (R112). -/
def Regs.reset : Regs :=
  { cl := Vector.replicate 4 Cluster.reset, w := Vector.replicate 16 0, a := Vector.replicate 16 0,
    h := Vector.replicate 16 Handle.reset, ac := Vector.replicate 64 ⟨0, false⟩,
    t := Vector.replicate 256 ⟨0, 0, 0, 0, 0⟩, q := Vector.replicate 8 ⟨0, 0, 0, 0⟩,
    g := Vector.replicate 32 ⟨false, 0, 0, 0, 0, 0⟩, delta := Vector.replicate 96 0,
    loops := Vector.replicate 6 ⟨false, 0, 0, 0, 0⟩, fmt := 1, pc := 0, mbc := Vector.replicate 4 0, xarr := 0, xwidth := 0 }

/-- A bundle that has called for nothing yet. -/
def Issue.start : Issue :=
  { hold := none, causes := [], trap := none, trigger := none, flow := .none, tack := none, stop := none, soft := none,
    live := 0, irrev := false, performs := [], stores := [], sums := [], ifence := false, agree := none, notch := none, seam := none }

/-- A freeze record under a cause, with the waits that go on. -/
def Hold.start (cause : Nat) (waits : List TimedWait) : Hold :=
  { cause := cause, len := 0, alerted := false, wdog := 0, waits := waits, resumed := false }

def Bundle.reset : Bundle := { addr := 0, words := Vector.replicate 4 0, header := none }

def Core.reset : Core :=
  { regs := Regs.reset, z := Vector.replicate 64 ⟨0, 0⟩, flights := [], backs := [], slot := 0,
    bundle := Bundle.reset, iss := Issue.start, landed := false, group := [], panel := none, ists := [],
    loose := [], lbuf := [], lfill := true, offEnd := false, copyQ := [], matrixQ := [], shuttleQ := [], outboxQ := [],
    clauseQ := [], spool := [], mcast := [], agree := none, nextId := 0 }

/-- The lining: SHARE and WDEXP are 16 after reset (R60). -/
def Lining.reset : Lining :=
  { pc := 0, s := Vector.replicate 32 0, p := Vector.replicate 8 false, a := Vector.replicate 16 0,
    h := Vector.replicate 16 Handle.reset, flights := [], stores := [], cyc := 0, serving := false, pend := [],
    stopped := false, yielded := false, charge := 0, share := 16, shareNow := 16, wdexp := 16,
    iss := Issue.start, bundle := Bundle.reset, evinfo := 0, entered := 0, since := 0 }

def SysRegs.reset : SysRegs :=
  { trapinfo0 := 0, trapinfo1 := 0, mcinfo0 := 0, mcinfo1 := 0, mcinfo2 := 0, mcinfo3 := 0, agstat := 0,
    seamreq := 0, handleinfo := 0, inject := 0, clErr := 0, shErr := 0, shSat := false, notch := 0,
    lastSeam := 0, cut := .fresh, holds := [], holdSent := false, notes := [], seams := [], engine := none, reports := [] }

/-- An instance after a wipe (R201). -/
def ClauseInst.empty (b : Binding) : ClauseInst :=
  { binding := b, job := 0, cols := [], level := 0, trail := [], res := 0, report := Vector.replicate 4 0 }

def ClauseArray.reset : ClauseArray :=
  { split := 0, inst := Vector.replicate 4 (ClauseInst.empty .free),
    win := Vector.replicate 4 { addr := 0, op := 0, core := 0, busy := false, done := false, err := 0, mine := false, since := 0, cycles := 0 } }

/-- Routing-weight words of a die after reset: the shorter direction, both alike towards the die four hops away, with every
link permitted (R284). -/
def weightsReset (die : Nat) : List Host.Cell :=
  List.flatten ((List.range 8).map fun i =>
    let hops := (i + 8 - die % 8) % 8
    let a := 0x300000 + 4 * i
    if hops = 0 then [] else if hops < 4 then [(a, 0xFF#8), (a + 2, 16#8)] else if hops = 4 then [(a, 0xFF#8), (a + 2, 8#8)]
    else [(a, 0xFF#8)])

/-- The registers of a die after reset: its routing weights (R284), rack selections 2 (R291), and every resource owned by no
partition (R380; log entries 4 and 12). -/
def Region6.resetFor (die : Nat) : Region6 :=
  { sets := [],
    cells := weightsReset die ++ ((List.range 72).map fun i => (0x320000 + i, 2#8)) ++
      ((List.range 69).map fun i => (0x800000 + i, 63#8)) }

def Region6.reset : Region6 := Region6.resetFor 0

def ContextPort.reset : ContextPort :=
  { addr := 0, accmask := 0, restore := false, sect := 0, busy := false, done := false, err := 0, due := 0 }

/-- No link is trained before stage S1 brings the rings up (R378). -/
def LinkState.reset : LinkState := { up := false, expect := 0, fails := 0, got := [], errs := [], next := 0, retry := [] }

/-- Neighbours of a die on the package ring (R282). -/
def neighbours (die : Nat) : List Nat := [die / 8 * 8 + (die + 1) % 8, die / 8 * 8 + (die + 7) % 8]

/-- The station of a die after reset at a package time, from which it counts the silence of its neighbours (R292). -/
def Fabric.resetFor (die now : Nat) : Fabric :=
  { links := Vector.replicate 16 LinkState.reset, bounces := [], early := [], seqs := [], sent := [], waiting := [], used := [], parts := [],
    seen := (neighbours die).map fun d => (d, now), beat := 0, frame := 0, table := [], tables := [], rackTable := [], rackTables := [],
    order := [], resets := [], credit := true }

def Fabric.reset : Fabric := Fabric.resetFor 0 0

def CommandRing.reset : CommandRing :=
  { base := 0, size := 0, rptr := 0, wptr := 0, en := false, bufs := [], wait := none, stopped := false, skip := 0, pre := [] }

/-- Reset clears FESTAT and FECTL (R363). -/
def FrontEnd.reset : FrontEnd :=
  { normal := CommandRing.reset, timed := CommandRing.reset, err := false, ering := false, code := 0, depth := 0, latecnt := 0,
    eword := 0, barriers := [] }

/-- Stage S0 with zero measurement registers (R378, R384). -/
def Boot.reset : Boot :=
  { power := true, stage := 0, failure := none, mr0 := List.replicate 32 0, mr1 := List.replicate 32 0, parts := [], lining := [],
    life := .blank, owner := none, fuses := 0, identity := none, keys := 0, ctr := 0, leaf := 0, record := 0, change := none }

/-- Every memory of the package is being wiped (R201): regions 0 to 2 of its eight dies, and the cells of its thimbles. -/
def packageWipe (package : Nat) : List (Nat × Nat) :=
  ([0, 1, 2, 5] : List Nat).map fun r => (r * 2 ^ 48 + package * 8 * 2 ^ 38, 8 * 2 ^ 38)

/-- The machine right after reset: every memory and register file wiped (R201), no core released (R369). -/
def State.reset : State :=
  { core := Core.reset, save := Core.reset, lsave := Lining.reset, found := Core.reset, ctx := .main, status := .notReleased,
    rewind := none, hold := Hold.start 0 [], sys := SysRegs.reset, lin := Lining.reset,
    imem := ⟨[], false⟩, mem := ⟨[], [], []⟩, drains := [], running := [], xlate := ⟨[], [], [], 0⟩, reg6 := Region6.reset, health := ⟨[], []⟩, id := ⟨0, 0, 63, 0⟩, clock := 0,
    run := 0, ptime := 0, agenda := [], wires := [], arriving := [], groups := [], packets := [], routine := none, deadDies := [], colls := [], casts := [], clause := ClauseArray.reset, arrivals := [], earlier := [],
    inval := { vstart := 0, part := 0, count := 0, busy := false, done := false, refused := false, ranges := [] }, closing := [],
    port := ContextPort.reset, fabric := Fabric.reset, fe := FrontEnd.reset, presets := ⟨[], [], []⟩, boot := Boot.reset,
    time := { master := 0, corr := 0, frac := 0, rate := 0, holdover := false }, wipes := packageWipe 0, scrub := Vector.replicate 68 0,
    outs := [], free := 0 }

end Sys2Proof.Machine
end

