-- ==== Sys2Proof/Machine/Memory.lean ====
section
/-! DEFINITION. Memories as lists of cells in canonical form: addresses rising, no zero byte (an unlisted
byte reads zero, log entry 3). Bytes are little-endian (R178). -/

namespace Sys2Proof.Machine

/-- The byte of a list of cells at an address. -/
def cellsGet : List Host.Cell → Nat → Byte
  | [], _ => 0
  | (x, b) :: r, a => if x = a then b else if a < x then 0 else cellsGet r a

/-- The cells with one byte written; a zero byte is unlisted. -/
def cellsPut : List Host.Cell → Nat → Byte → List Host.Cell
  | [], a, b => if b = 0 then [] else [(a, b)]
  | (x, c) :: r, a, b =>
    if a < x then (if b = 0 then (x, c) :: r else (a, b) :: (x, c) :: r)
    else if a = x then (if b = 0 then r else (a, b) :: r)
    else (x, c) :: cellsPut r a b

/-- Writes cells in order. -/
def cellsPutAll (m : List Host.Cell) (ws : List Host.Cell) : List Host.Cell :=
  ws.foldl (fun m w => cellsPut m w.1 w.2) m

/-- Canonical form: addresses rising and no zero byte. -/
def cellsWf : List Host.Cell → Bool
  | [] => true
  | [(_, b)] => b != 0
  | (x, b) :: (y, c) :: r => b != 0 && decide (x < y) && cellsWf ((y, c) :: r)

/-- The little-endian number of a list of bytes. -/
def leNat : List Byte → Nat
  | [] => 0
  | b :: r => b.toNat + 256 * leNat r

/-- The n low bytes of a number, least significant first. -/
def leBytes : Nat → Nat → List Byte
  | 0, _ => []
  | n + 1, v => BitVec.ofNat 8 v :: leBytes n (v / 256)

/-- Bytes at consecutive addresses, as cells. -/
def cellsAt (a : Nat) : List Byte → List Host.Cell
  | [] => []
  | b :: r => (a, b) :: cellsAt (a + 1) r

/-- n bytes from a. -/
def cellsRead (m : List Host.Cell) (a : Nat) : Nat → List Byte
  | 0 => []
  | n + 1 => cellsGet m a :: cellsRead m (a + 1) n

/-- A rising list of numbers with one put in. -/
def setPut : List Nat → Nat → List Nat
  | [], a => [a]
  | x :: r, a => if a < x then a :: x :: r else if a = x then x :: r else x :: setPut r a

/-- Memory in canonical form. -/
def Memory.wf (m : Memory) : Bool := cellsWf m.cells

def Memory.byte (m : Memory) (a : Nat) : Byte := cellsGet m.cells a

def Memory.bytes (m : Memory) (a n : Nat) : List Byte := cellsRead m.cells a n

/-- The 64-byte line and the 256-byte granule of an address (R157, R198). -/
def lineOf (a : Nat) : Nat := a / 64
def granuleOf (a : Nat) : Nat := a / 256

def dedup (l : List Nat) : List Nat := l.foldl (fun acc x => if acc.contains x then acc else acc ++ [x]) []

/-- CRC-32C of bytes in ascending order, started from 0xFFFF_FFFF and inverted at the end (R198). -/
def crcOf (bs : List Byte) : Word := BitVec.ofNat 32 (crcFold bs.length 0xFFFFFFFF (leNat bs) ^^^ 0xFFFFFFFF)

/-- The check field of a granule (R198): a field that is not listed is the CRC-32C of the granule's bytes. -/
def Memory.field (m : Memory) (g : Nat) : Word :=
  match m.fields.find? (·.1 == g) with
  | some x => x.2
  | none => crcOf (m.bytes (256 * g) 256)

/-- The granules whose check field fails: it is not the CRC-32C of their bytes (R199). -/
def Memory.broken (m : Memory) : List Nat :=
  (m.fields.filter fun x => x.2 != crcOf (m.bytes (256 * x.1) 256)).map (·.1)

/-- A granule takes a check field that its bytes need not fit (R198). -/
def fieldPut : List (Nat × Word) → Nat × Word → List (Nat × Word)
  | [], x => [x]
  | y :: r, x => if x.1 < y.1 then x :: y :: r else if x.1 = y.1 then x :: r else y :: fieldPut r x

/-- A block of a size, by its number, all of whose bytes the cells write. -/
def coversBlock (ws : List Host.Cell) (size blk : Nat) : Bool :=
  (List.range size).all fun i => ws.any fun w => w.1 == blk * size + i

/-- One store of the given cells (R165, R198, R199): a line written whole loses its mark, a granule written
whole takes a new check field, and the part of a store that meets a failing check field by the merge path is
discarded and leaves the granule poisoned. A granule whose bytes are written takes the check field of its new bytes. -/
def Memory.store (m : Memory) (ws : List Host.Cell) : Memory :=
  let bad := m.broken.filter fun g => ws.any (fun w => granuleOf w.1 == g) && !coversBlock ws 256 g
  let ok := ws.filter fun w => !bad.contains (granuleOf w.1)
  let clean := m.poison.filter fun l => !coversBlock ok 64 l
  let marked := bad.foldl (fun p g => setPut (setPut (setPut (setPut p (4 * g)) (4 * g + 1)) (4 * g + 2)) (4 * g + 3)) clean
  { cells := cellsPutAll m.cells ok, poison := marked, fields := m.fields.filter fun x => !ok.any (fun w => granuleOf w.1 == x.1) }

/-- A store of part of a granule whose check field fails: its merge is discarded (R199). -/
def mergeFails (m : Memory) (stores : List (List Host.Cell)) : Bool :=
  stores.any fun w => w.any fun c => m.broken.contains (granuleOf c.1) && !coversBlock w 256 (granuleOf c.1)

/-- Marks lines as poisoned (R165). -/
def Memory.mark (m : Memory) (lines : List Nat) : Memory := { m with poison := lines.foldl setPut m.poison }

/-- Writes zeros to a range, with valid check fields and no poison (R201). -/
def Memory.wipe (m : Memory) (lo size : Nat) : Memory :=
  { cells := m.cells.filter fun c => decide (c.1 < lo ∨ lo + size ≤ c.1),
    poison := m.poison.filter fun l => decide (l * 64 < lo ∨ lo + size ≤ l * 64),
    fields := m.fields.filter fun x => decide (x.1 * 256 < lo ∨ lo + size ≤ x.1 * 256) }

/-- A whole-granule check of the granules that a range covers whole (R199): a failing one is poisoned. -/
def Memory.check (m : Memory) (granules : List Nat) : Memory × Bool :=
  let bad := granules.filter m.broken.contains
  (m.mark (bad.flatMap fun g => [4 * g, 4 * g + 1, 4 * g + 2, 4 * g + 3]), !bad.isEmpty)

/-- The parts of a physical address (R178), and the address of a region, a die and an offset. -/
def regionOf (a : Nat) : Nat := a / 2 ^ 48 % 16
def dieOf (a : Nat) : Nat := a / 2 ^ 38 % 1024
def offsetOf (a : Nat) : Nat := a % 2 ^ 38
def physical (region die off : Nat) : Nat := region * 2 ^ 48 + die * 2 ^ 38 + off

/-- Base of a core's scratchpad and of a quad's vault (R179). -/
def scratchBase (die core : Nat) : Nat := physical 2 die (core * 2 ^ 21)
def vaultBase (die quad : Nat) : Nat := physical 1 die (quad * 2 ^ 28)

/-- An offset valid in its region (R179); hbm says which HBM offsets lie in an interleave set (R185). -/
def offsetValid (hbm : Nat → Bool) (region off : Nat) : Bool :=
  match region with
  | 0 => decide (off ≤ 0x17FFFFFFFF) && hbm off
  | 1 => decide (off ≤ 0x3FFFFFFF)
  | 2 => decide (off ≤ 0x1FFFFFF)
  | 3 => decide (off / 2 ^ 37 = 0) && decide (off / 2 ^ 21 % 2 ^ 16 ≠ 0)
  | 5 => decide (off / 2 ^ 22 = 0) && decide (off / 2 ^ 15 < 68)
  | 6 => true
  | 7 => true
  | _ => false

/-- The key of an instruction address in the active half or the resident area (R80), none outside. -/
def InstrMem.key (m : InstrMem) (a : Nat) : Option Nat :=
  if a < 0x10000 then some (if m.swapped then 0x10000 + a else a)
  else if a < 0x12000 then some (0x10000 + a)
  else none

/-- The key of an address in ist space (R106): the idle half or the resident area. -/
def InstrMem.istKey (m : InstrMem) (a : Nat) : Option Nat :=
  if a < 0x10000 then some (if m.swapped then a else 0x10000 + a)
  else if a < 0x12000 then some (0x10000 + a)
  else none

/-- The instruction word at a key. -/
def InstrMem.word (m : InstrMem) (k : Nat) : Word := BitVec.ofNat 32 (leNat (cellsRead m.cells k 4))

/-- The four words of the bundle at a key (R13). -/
def InstrMem.bundle (m : InstrMem) (k : Nat) : Vector Word 4 :=
  #v[m.word k, m.word (k + 4), m.word (k + 8), m.word (k + 12)]

def InstrMem.put (m : InstrMem) (k : Nat) (bs : List Byte) : InstrMem :=
  { m with cells := cellsPutAll m.cells (cellsAt k bs) }

/-- A bundle address that can be fetched (R80). -/
def fetchable (a : Nat) : Bool := decide (a < 0x12000) && a % 16 == 0

end Sys2Proof.Machine
end

