-- ==== Sys2Proof/Machine/Landing.lean ====
section
/-! DEFINITION. Registers, the bytes a load reads, and the landing of results (R42 to R44, R53, R155). -/

namespace Sys2Proof.Machine

/-! ## Registers -/

/-- A field of k bits as an index. -/
def vget {α : Type} {k : Nat} (v : Vector α (2 ^ k)) (i : BitVec k) : α := v[i.toNat]'i.isLt

def vput {α : Type} {k : Nat} (v : Vector α (2 ^ k)) (i : BitVec k) (x : α) : Vector α (2 ^ k) :=
  v.set i.toNat x i.isLt

def Regs.cluster (r : Regs) (k : Cl) : Cluster := r.cl[k.val]'k.isLt

def Regs.setCluster (r : Regs) (k : Cl) (c : Cluster) : Regs := { r with cl := r.cl.set k.val c k.isLt }

/-- s0 reads zero and discards writes (R40). -/
def Cluster.rs (c : Cluster) (i : BitVec 5) : Dword := if i = 0 then 0 else vget (k := 5) c.s i
def Cluster.ws (c : Cluster) (i : BitVec 5) (x : Dword) : Cluster :=
  if i = 0 then c else { c with s := vput (k := 5) c.s i x }

/-- p0 reads true and discards writes (R40). -/
def Cluster.rp (c : Cluster) (i : BitVec 3) : Bool := if i = 0 then true else vget (k := 3) c.p i
def Cluster.wp (c : Cluster) (i : BitVec 3) (x : Bool) : Cluster :=
  if i = 0 then c else { c with p := vput (k := 3) c.p i x }

/-- m0 reads all ones and discards writes (R40). -/
def Cluster.rm (c : Cluster) (i : BitVec 3) : Mask := if i = 0 then BitVec.allOnes 2048 else vget (k := 3) c.m i
def Cluster.wm (c : Cluster) (i : BitVec 3) (x : Mask) : Cluster :=
  if i = 0 then c else { c with m := vput (k := 3) c.m i x }

/-- The common register of a vector field, if it names one (R29). -/
def wIndex (d : BitVec 5) : Option (BitVec 4) := if d.getLsbD 4 then some (d.extractLsb' 0 4) else none

/-- A vector field: v0 to v15 of the cluster, then w0 to w15. -/
def Regs.rv (r : Regs) (k : Cl) (d : BitVec 5) : Vec :=
  if d.getLsbD 4 then vget (k := 4) r.w (d.extractLsb' 0 4) else vget (k := 4) (r.cluster k).v (d.extractLsb' 0 4)

def Regs.wv (r : Regs) (k : Cl) (d : BitVec 5) (x : Vec) : Regs :=
  if d.getLsbD 4 then { r with w := vput (k := 4) r.w (d.extractLsb' 0 4) x }
  else
    let c := r.cluster k
    r.setCluster k { c with v := vput (k := 4) c.v (d.extractLsb' 0 4) x }

def Regs.ra (r : Regs) (i : BitVec 4) : Dword := vget (k := 4) r.a i
def Regs.wa (r : Regs) (i : BitVec 4) (x : Dword) : Regs := { r with a := vput (k := 4) r.a i x }
def Regs.rh (r : Regs) (i : BitVec 4) : Handle := vget (k := 4) r.h i
def Regs.wh (r : Regs) (i : BitVec 4) (x : Handle) : Regs := { r with h := vput (k := 4) r.h i x }
def Regs.rac (r : Regs) (i : BitVec 6) : ArrivalCounter := vget (k := 6) r.ac i
def Regs.wac (r : Regs) (i : BitVec 6) (x : ArrivalCounter) : Regs := { r with ac := vput (k := 6) r.ac i x }
def Regs.rt (r : Regs) (i : BitVec 8) : TileEntry := vget (k := 8) r.t i
def Regs.wt (r : Regs) (i : BitVec 8) (x : TileEntry) : Regs := { r with t := vput (k := 8) r.t i x }
def Regs.rq (r : Regs) (i : BitVec 3) : RingEntry := vget (k := 3) r.q i
def Regs.wq (r : Regs) (i : BitVec 3) (x : RingEntry) : Regs := { r with q := vput (k := 3) r.q i x }
def Regs.rg (r : Regs) (i : BitVec 5) : GroupSlot := vget (k := 5) r.g i
def Regs.wg (r : Regs) (i : BitVec 5) (x : GroupSlot) : Regs := { r with g := vput (k := 5) r.g i x }

def RingEntry.len (q : RingEntry) : Nat := q.lenM1.toNat + 1

/-- HEAD moves on modulo LEN (R231). -/
def RingEntry.popped (q : RingEntry) : RingEntry := { q with head := BitVec.ofNat 8 ((q.head.toNat + 1) % q.len) }

/-- delta(i, L); levels 6 and 7 do not exist. -/
def Regs.delta_ (r : Regs) (i : BitVec 4) (l : Nat) : Word := r.delta.toArray.getD (6 * i.toNat + l) 0
def Regs.setDelta (r : Regs) (i : BitVec 4) (l : Nat) (x : Word) : Regs :=
  if l < 6 then { r with delta := r.delta.setIfInBounds (6 * i.toNat + l) x } else r

/-- A loop level; levels 6 and 7 are never open. -/
def Regs.loop (r : Regs) (l : Nat) : LoopLevel := r.loops.toArray.getD l ⟨false, 0, 0, 0, 0⟩
def Regs.setLoop (r : Regs) (l : Nat) (x : LoopLevel) : Regs := { r with loops := r.loops.setIfInBounds l x }

/-- Number of open levels (R51). -/
def Regs.depth (r : Regs) : Nat := (r.loops.toList.filter (·.valid)).length

def Regs.setTileState (r : Regs) (n : Nat) (st : BitVec 2) : Regs :=
  let e := r.rt (BitVec.ofNat 8 n)
  r.wt (BitVec.ofNat 8 n) { e with state := st }

def Regs.setS (r : Regs) (k : Cl) (d : BitVec 5) (x : Dword) : Regs := r.setCluster k ((r.cluster k).ws d x)
def Regs.setP (r : Regs) (k : Cl) (d : BitVec 3) (x : Bool) : Regs := r.setCluster k ((r.cluster k).wp d x)
def Regs.setM (r : Regs) (k : Cl) (d : BitVec 3) (x : Mask) : Regs := r.setCluster k ((r.cluster k).wm d x)

/-- The core that holds an instance, failed or not. -/
def Binding.holder : Binding → Option (BitVec 4)
  | .bound c => some c
  | .failed c => some c
  | _ => none

/-! ## Memory as agents find it -/

/-- Bytes that a wipe under way has not given back yet (R201). -/
def State.inWipe (s : State) (a n : Nat) : Bool := s.wipes.any fun w => decide (a < w.1 + w.2 ∧ w.1 < a + n)

/-- The health window counts an occurrence under a rule (R381). -/
def State.count (s : State) (rule : Nat) : State :=
  let l := s.health.counts
  let n := match l.find? (fun x => x.1 == rule) with | some x => x.2 | none => 0
  { s with health := { s.health with counts := (l.filter fun x => x.1 != rule) ++ [(rule, n + 1)] } }

/-- Addresses of the bytes of accesses, in order. -/
def accAddrs (acc : List Access) : List Nat := acc.flatMap fun x => (List.range x.size).map (x.addr + ·)

/-- The youngest byte at an address among stores whose local point is before running cycle t (R157, R268). -/
def gatedByte (t : Nat) (gates : List Gate) (a : Nat) : Option Byte :=
  gates.foldl (fun acc g =>
    if g.local_ < t then
      match g.cells.reverse.find? (fun c => c.1 == a) with
      | some c => some c.2
      | none => acc
    else acc) none

/-- A load that has read its bytes also sees, of entries that leave the tack buffer before its due cycle, those whose local
point lies before it (R268). -/
def Flight.seeing (gates : List Gate) (f : Flight) : Flight :=
  match f.land, f.raw with
  | .load _ acc, some bs =>
      { f with raw := some (((accAddrs acc).zip bs).map fun x =>
          match gatedByte f.due gates x.1 with | some b => b | none => x.2) }
  | _, _ => f

def State.seeEntries (s : State) (gates : List Gate) : State :=
  { s with core := { s.core with flights := s.core.flights.map (Flight.seeing gates) } }

/-- Bytes at some addresses are written over: they leave the entries of committed stores, which performed before. -/
def State.overwritten (s : State) (addrs : List Nat) : State :=
  let part := fun (keep : Bool) (g : Gate) => { g with cells := g.cells.filter fun c => addrs.contains c.1 == keep }
  { s.seeEntries (s.drains.map (part true)) with drains := s.drains.map (part false) }

/-- Whether a byte that a command under way writes has taken effect: the core-clock cycle from which it has is a free value
of the command and the byte, one for every reader (R194, R246, R267; log entry 64). -/
def tookEffect (clock start key a : Nat) : Bool :=
  decide (start + (Config.freeDword (start * 2 ^ 64 + 2 ^ 63 + key * 2 ^ 52 + a)).toNat ≤ clock)

/-- The bytes of a command that have taken effect since the last look; in a granule whose check field fails, or in memory
that is being wiped, none does before the command's end. -/
def freshBytes (s : State) (start key : Nat) (cells : List Host.Cell) (flowed : List Nat) : List Host.Cell :=
  cells.filter fun c => !flowed.contains c.1 && tookEffect s.clock start key c.1 && !s.mem.broken.contains (granuleOf c.1) && !s.inWipe c.1 1

/-- Cells of bytes that are written once. -/
def writtenOnce (cells : List Host.Cell) : List Host.Cell := cells.filter fun c => (cells.filter fun x => x.1 == c.1).length == 1

/-- A command's stores as its reads stood at its start may take effect before its end; a byte that it writes more than once
takes effect there. -/
def Running.fresh (s : State) (r : Running) : List Host.Cell :=
  freshBytes s r.start (r.cmd.id % 2 ^ 10) (writtenOnce r.eff.stores.flatten) r.flowed

def Arriving.fresh (s : State) (a : Arriving) : List Host.Cell :=
  freshBytes s a.start (2 ^ 10 + a.tile % 2 ^ 8) a.cells a.flowed

/-- The bytes that commands and deliveries under way have written by now are in memory. -/
def State.flow (s : State) : State :=
  if s.running.isEmpty && s.arriving.isEmpty then s
  else
    let cells := s.running.flatMap (Running.fresh s) ++ s.arriving.flatMap (Arriving.fresh s)
    { s.overwritten (cells.map (·.1)) with
      mem := { s.mem with cells := cellsPutAll s.mem.cells cells, fields := s.mem.fields.filter fun x => !cells.any fun c => granuleOf c.1 == x.1 },
      running := s.running.map fun r => { r with flowed := r.flowed ++ (Running.fresh s r).map (·.1) },
      arriving := s.arriving.map fun a => { a with flowed := a.flowed ++ (Arriving.fresh s a).map (·.1) } }

/-- Memory as another agent of the core finds it: every committed store has performed (R157, R269). -/
def State.performed (s : State) : State :=
  { s.flow with mem := s.flow.drains.foldl (fun m g => m.store g.cells) s.flow.mem }

/-- Committed stores reach memory in order; a merge that fails is counted (R199). -/
def State.landGates (s : State) (gs : List Gate) : State :=
  gs.foldl (fun s g => { (if mergeFails s.mem [g.cells] then s.count 199 else s) with mem := s.mem.store g.cells }) s

/-- Stores of an engine reach memory: they come after every older committed store to the same bytes. A merge that fails is
counted (R199). -/
def State.engineStore (s : State) (stores : List (List Host.Cell)) (poison : List Nat) : State :=
  let t := (if mergeFails s.mem stores then s.count 199 else s).flow.overwritten (stores.flatten.map (·.1))
  { t with mem := (stores.foldl (fun m w => m.store w) t.mem).mark poison }

/-- Stores of a command or delivery at its end: a byte that took effect before has been written already, and what stands there
since then stays. -/
def State.notFlowed (s : State) (flowed : List Nat) (stores : List (List Host.Cell)) : List (List Host.Cell) :=
  let m := s.performed.mem
  stores.map fun w => w.map fun c => if flowed.contains c.1 then (c.1, m.byte c.1) else c

def State.lastStores (s : State) (r : Running) (stores : List (List Host.Cell)) : List (List Host.Cell) := s.notFlowed r.flowed stores

/-! ## What a load of the main context reads -/

/-- The byte of its own tack buffer that the core reads in place of memory: local points count running cycles (R42,
R216). -/
def ownByte (s : State) (a : Nat) : Option Byte :=
  gatedByte s.run (s.drains ++ (match s.core.panel with | some p => p.gates | none => [])) a

/-- Reads the bytes of accesses from memory. -/
def sampleBytes (s : State) (acc : List Access) : List Byte := (accAddrs acc).map s.flow.mem.byte

/-- An operation as the asker of a free value: the bundle and slot that issued it. -/
def Flight.reader (f : Flight) : Nat := 4 * f.iss + f.slot.val

/-- The bytes of a load at its due cycle: its own gated bytes, and memory as read then or before. -/
def loadBytes (s : State) (acc : List Access) (raw : Option (List Byte)) : List Byte :=
  let base := match raw with | some b => b | none => sampleBytes s acc
  ((accAddrs acc).zip base).map fun x => match ownByte s x.1 with | some b => b | none => x.2

/-- The lines a load takes from memory. -/
def loadLines (s : State) (acc : List Access) : List Nat :=
  dedup (((accAddrs acc).filter fun a => (ownByte s a).isNone).map lineOf)

/-- Vector bits with element j of w bits set to x. -/
def vecElem (w j x : Nat) : Nat := x % 2 ^ w * 2 ^ (w * j)

/-- The elements of a load, as a vector and its enabled bits: its accesses take their bytes in order. -/
def gatherElems : List Access → List Byte → Nat × Nat
  | [], _ => (0, 0)
  | x :: r, bs =>
    let rest := gatherElems r (bs.drop x.size)
    let w := 8 * x.size
    (rest.1 + vecElem w x.elem (2 ^ w - 1), rest.2 + vecElem w x.elem (leNat (bs.take x.size)))

/-- SignExtend64 of n bits of a number. -/
def sext64 (n x : Nat) : Dword := (BitVec.ofNat n x).signExtend 64

/-- SignExtend64 of a 32-bit result. -/
def sx32 (x : Word) : Dword := x.signExtend 64

/-- Merges: the bits of en take those of x. -/
def mergeBits {w : Nat} (old en x : BitVec w) : BitVec w := (old &&& ~~~en) ||| (x &&& en)

/-- Writes loaded bytes to their destination. -/
def Regs.loaded (r : Regs) (k : Cl) (dst : LoadDest) (acc : List Access) (bs : List Byte) : Regs :=
  match dst with
  | .scalar d sx => r.setS k d (if sx then sext64 (8 * bs.length) (leNat bs) else BitVec.ofNat 64 (leNat bs))
  | .vec d =>
      let g := gatherElems acc bs
      r.wv k d (mergeBits (r.rv k d) (BitVec.ofNat 16384 g.1) (BitVec.ofNat 16384 g.2))
  | .mask d => r.setM k d (BitVec.ofNat 2048 (leNat bs))

/-! ## Local atomics -/

/-- The new value of an atomic of minors 0 to 9 (R225): size in bits, old value, operand, comparand. -/
def atomicNew (minor n old b cmp : Nat) : Nat :=
  let sold := (BitVec.ofNat n old).toInt
  let sb := (BitVec.ofNat n b).toInt
  match minor with
  | 0 => (old + b) % 2 ^ n
  | 1 => old &&& b
  | 2 => old ||| b
  | 3 => old ^^^ b
  | 4 => if sold ≤ sb then old else b
  | 5 => if sb ≤ sold then old else b
  | 6 => if old ≤ b then old else b
  | 7 => if b ≤ old then old else b
  | 8 => b
  | 9 => if old = cmp then b else old
  | _ => old

/-- The cell of a FAC page at a base and an offset (R227). -/
def facAt (m : Memory) (base off : Nat) : FacCell × Int × Nat :=
  let i := (off - leNat (m.bytes (base + 4) 4)) / 16
  let fl := (m.byte (base + 64 + i / 4)).toNat / 4 ^ (i % 4)
  ({ n := facOfNat (leNat (m.bytes (base + off) 16)), sat := fl % 2 == 1, nan := fl / 2 % 2 == 1 },
   (BitVec.ofNat 16 (leNat (m.bytes base 2))).toInt, i)

/-- The cells that put a FAC cell back, with its flags. -/
def facCells (m : Memory) (base off i : Nat) (c : FacCell) : List Host.Cell :=
  let old := (m.byte (base + 64 + i / 4)).toNat
  let sh := 4 ^ (i % 4)
  let fl := old - old / sh % 4 * sh + ((if c.sat then 1 else 0) + (if c.nan then 2 else 0)) * sh
  cellsAt (base + off) (leBytes 16 (facToNat c.n)) ++ [(base + 64 + i / 4, BitVec.ofNat 8 fl)]

/-- An atomic performs (R225 to R227): what its destination receives, and what it stores. -/
def performAtomic (m : Memory) (op : AtomicOp) : Dword × List Host.Cell :=
  let base := op.addr - op.off
  match op.minor.toNat with
  | 10 =>
      let (c, b, i) := facAt m base op.off
      let c' := c.add b (op.opnd.toNat % 2 ^ 32)
      (BitVec.ofNat 64 ((if c'.sat then 1 else 0) + (if c'.nan then 2 else 0)), facCells m base op.off i c')
  | 11 =>
      let (c, b, _) := facAt m base op.off
      (BitVec.ofNat 64 (c.read b), [])
  | k =>
      let n := if op.wide then 64 else 32
      let old := leNat (m.bytes op.addr (n / 8))
      let new := atomicNew k n old (op.opnd.toNat % 2 ^ n) (op.cmp.toNat % 2 ^ n)
      (sext64 n old, cellsAt op.addr (leBytes (n / 8) new))

/-- The lines that an atomic reads (R166): those of its cell and, for the FAC members, of the page's descriptor and of the
cell's flag byte (R227). -/
def atomicLines (m : Memory) (op : AtomicOp) : List Nat :=
  let base := op.addr - op.off
  if op.minor.toNat < 10 then dedup [lineOf op.addr, lineOf (op.addr + (if op.wide then 7 else 3))]
  else dedup [lineOf op.addr, lineOf (op.addr + 15), lineOf base, lineOf (base + 64 + (facAt m base op.off).2.2 / 4)]

/-- An atomic on its way performs now: the flight with what it read, and what it stores. It does not where its load half
returns poison (R120, R166). -/
def atomicResult (m : Memory) (f : Flight) : Flight × List Host.Cell :=
  match f.land, f.raw with
  | .atomic _ op, none =>
      if f.upset == .poison || (atomicLines m op).any m.poison.contains then (f, [])
      else
        let r := performAtomic m op
        ({ f with raw := some (leBytes 8 r.1.toNat) }, r.2)
  | _, _ => (f, [])

/-- An atomic performs after every store that has performed before it (R226, R269, R270). -/
def settleAtomic (s : State) (f : Flight) : State × Flight :=
  let r := atomicResult s.performed.mem f
  (if r.2.isEmpty then s else s.engineStore [r.2] [], r.1)

end Sys2Proof.Machine
end

