-- ==== Sys2Proof/Machine/Walk.lean ====
section
/-! DEFINITION. Virtual addresses below the handles: who owns what, the walk of the page tables (R202 to R204), memory as
other agents find it, and the stores of engines. -/

namespace Sys2Proof.Machine

/-- The core's own scratchpad, quad and die. -/
def State.ownDie (s : State) : Nat := s.id.die.toNat
def State.ownCore (s : State) : Nat := s.id.core.toNat
def State.ownQuad (s : State) : Nat := s.ownCore / 4

/-- The owner of a quad of the die in the ownership table (R380, R381; log entry 12). -/
def State.quadOwner (s : State) (q : Nat) : Nat := (cellsGet s.reg6.cells (0x800000 + q)).toNat

/-- This core has a job that has not halted, been killed or gone: one that runs, waits, is trapped or is held (R84, R171,
R172). -/
def State.jobLives (s : State) : Bool :=
  match s.status with
  | .halted | .dead | .notReleased => false
  | _ => true

/-- The number of a partition: 0 stands for the GPM, and 63 for no owner (R380). -/
def isPartition (part : Nat) : Bool := decide (1 ≤ part ∧ part ≤ 62)

/-- A partition owns a quad of a die: of this one by its ownership table, of another by what the GPM has given it (R380). -/
def State.ownsQuad (s : State) (part die q : Nat) : Bool :=
  isPartition part &&
    if die = s.ownDie then s.quadOwner q == part
    else s.boot.parts.any fun p => p.num.toNat == part && p.quads.any fun x => x.1.toNat == die && x.2.toNat == q

/-- A partition owns a core of this die. -/
def State.ownsCore (s : State) (part core : Nat) : Bool := s.ownsQuad part s.ownDie (core / 4)

/-- A partition owns a quad or an interleave set of a die. -/
def State.ownsOn (s : State) (part die : Nat) : Bool :=
  (List.range 4).any (s.ownsQuad part die) || (isPartition part && s.reg6.sets.any fun x => x.part.toNat == part && x.die.toNat == die)

/-- Size of the span that a handle covers (R208). -/
def spanSize (ps : BitVec 2) : Nat :=
  match ps.toNat with
  | 0 => 2 ^ 16 | 1 => 2 ^ 21 | 2 => 2 ^ 30 | _ => 2 ^ 28

/-- HBM offsets that lie in an interleave set of a die (R185). -/
def State.inSet (s : State) (die off : Nat) : Bool :=
  s.reg6.sets.any fun x => x.die.toNat == die && decide (x.start ≤ off ∧ off < x.start + x.size)

/-- A physical address that R179 admits. -/
def State.addressValid (s : State) (a : Nat) : Bool :=
  decide (dieOf a < 576) && offsetValid (s.inSet (dieOf a)) (regionOf a) (offsetOf a)

/-- Page size of a leaf's PS (R203). -/
def pageSize (ps : BitVec 2) : Nat := spanSize ps

/-- One step of the Rhoxil walk: the table of a level and what its entry says (R203). Level 0 has 16,384
entries, the others 512. -/
def State.walkLevel (s : State) (part : BitVec 6) (va : Nat) : Nat → Nat → Option Leaf
  | 0, table =>
    let e := leNat (s.mem.bytes (table + 8 * (va / 2 ^ 16 % 2 ^ 14)) 8)
    leaf e 0
  | l + 1, table =>
    let e := leNat (s.mem.bytes (table + 8 * (va / 2 ^ (21 + 9 * (l + 1)) % 512)) 8)
    if e / 2 ^ 61 % 4 = 3 then
      let next := e % 2 ^ 52
      if good e && next % (if l = 0 then 2 ^ 17 else 2 ^ 12) == 0 then s.walkLevel part va l next else none
    else leaf e (l + 1)
where
  good (e : Nat) : Bool :=
    e / 2 ^ 63 % 2 == 1 && e / 2 ^ 52 % 8 == 0 && e / 2 ^ 59 % 4 != 3 && s.addressValid (e % 2 ^ 52)
  leaf (e level : Nat) : Option Leaf :=
    let ps := e / 2 ^ 61 % 4
    let size := pageSize (BitVec.ofNat 2 ps)
    let place := if level = 0 then ps == 0 || ps == 1 else level == 1 && ps == 2
    if good e && place && e % 2 ^ 52 % size == 0 then
      some { part := part, vbase := BitVec.ofNat 57 (va / size * size), ps := BitVec.ofNat 2 ps,
             rwam := BitVec.ofNat 4 (e / 2 ^ 55), cls := BitVec.ofNat 2 (e / 2 ^ 59), pbase := BitVec.ofNat 52 e }
    else none

/-- The translation root word of a partition (R202, R381). -/
def State.rootWord (s : State) (part : BitVec 6) : Nat := leNat (cellsRead s.reg6.cells (0x200000 + 16 * part.toNat) 8)

/-- The address field of a host entry, an address of host memory in the partition's window (R204, R179). -/
def hostNext (f : HostFormat) (e : Nat) : Nat := e / 2 ^ f.field.1 % 2 ^ f.field.2.1 * 2 ^ f.field.2.2

/-- The permissions of a host entry: R, W, A and M. -/
def hostRwam (f : HostFormat) (e : Nat) : BitVec 4 :=
  BitVec.ofNat 4 (f.perms.foldl (fun n p => 2 * n + (match p with | some k => e / 2 ^ k % 2 | none => 0)) 0)

/-- The entry that a walk through the levels of a host's tables ends at, read through the host window of a die, and the size
of its page in address bits; none where an entry is not present. -/
def hostWalk (f : HostFormat) (m : Memory) (die va : Nat) : List (Nat × Nat) → Nat → Option (Nat × Nat)
  | [], _ => none
  | (low, bits) :: r, table =>
    let e := leNat (m.bytes (physical 7 die ((table + f.width * (va / 2 ^ low % 2 ^ bits)) % 2 ^ 38)) f.width)
    if e / 2 ^ f.present % 2 = 0 then none else if r.isEmpty then some (e, low) else hostWalk f m die va r (hostNext f e)

/-- The largest page of R202 within a host page of so many address bits; smaller host pages are treated as not present
(R204). -/
def hostPage (bits : Nat) : Option (BitVec 2) :=
  if bits < 16 then none else if bits < 21 then some 0 else if bits < 30 then some 1 else some 2

/-- The format descriptor of a partition's host-shared tables (R204, R381). -/
def State.hostDescriptor (s : State) (part : BitVec 6) : Dword :=
  BitVec.ofNat 64 (leNat (cellsRead s.reg6.cells (0x200008 + 16 * part.toNat) 8))

/-- A leaf under the host-shared format, of CLASS 1, whose page lies in the host window (R204; log entry 11). -/
def State.walkHost (s : State) (part : BitVec 6) (va : Dword) (root : Nat) : Option Leaf :=
  let f := Config.hostFormat (s.hostDescriptor part)
  match hostWalk f s.performed.mem s.ownDie va.toNat f.levels root with
  | none => none
  | some (e, bits) =>
    match hostPage bits with
    | none => none
    | some ps =>
      let size := pageSize ps
      let a := hostNext f e / size * size + va.toNat % 2 ^ bits / size * size
      if a < 2 ^ 38 then
        some { part := part, vbase := BitVec.ofNat 57 (va.toNat / size * size), ps := ps, rwam := hostRwam f e, cls := 1,
               pbase := BitVec.ofNat 52 (physical 7 s.ownDie a) }
      else none

/-- A walk in a partition's address space; none is a page fault (R203). -/
def State.walk (s : State) (part : BitVec 6) (va : Dword) : Option Leaf :=
  let w := s.rootWord part
  if va.toNat / 2 ^ 57 ≠ 0 ∨ w / 2 ^ 63 % 2 = 0 then none
  else if w / 2 ^ 62 % 2 = 1 then s.walkHost part va (w % 2 ^ 52)
  else s.performed.walkLevel part va.toNat 3 (w % 2 ^ 52)

/-- A buffered leaf covers an address of a partition's space. -/
def Leaf.covers (l : Leaf) (part : BitVec 6) (va : Nat) : Bool :=
  l.part == part && decide (l.vbase.toNat ≤ va ∧ va < l.vbase.toNat + pageSize l.ps)

/-- The smallest page of some leaves (R207). -/
def smallest : List Leaf → Option Leaf
  | [] => none
  | x :: r => match smallest r with
    | some y => if pageSize y.ps < pageSize x.ps then some y else some x
    | none => some x

/-! ## Translation buffers (R206, R207) -/

/-- Moves a leaf to the front of a buffer of n entries: the least recently used falls out (R206). -/
def refresh (n : Nat) (l : Leaf) (b : List Leaf) : List Leaf := (l :: b.filter (· != l)).take n

/-- Whether two page sizes cover an address. -/
def conflict (ls : List Leaf) : Bool :=
  match ls with
  | [] => false
  | x :: r => r.any fun y => y.ps != x.ps

/-- Counts double matches in CONFL, saturating (R207, R210). -/
def State.countConflicts (s : State) (n : Nat) : State :=
  let v := s.sys.handleinfo.toNat
  let c := v / 2 ^ 32 % 2 ^ 16
  { s with sys := { s.sys with handleinfo := BitVec.ofNat 64 (v - c * 2 ^ 32 + min (c + n) 0xFFFF * 2 ^ 32) } }

/-- A leaf is used: both buffers hold it as the most recently used (R206). A hit in one buffer alone also puts it into the other
(DESIGN CHOICE; log entry 76). -/
def State.use (s : State) (l : Leaf) : State :=
  { s with xlate := { s.xlate with core := refresh 64 l s.xlate.core, die := refresh 4096 l s.xlate.die } }

/-- Looks an address up in both buffers (R206); a double match is noted, to count once its bundle issues (R207). -/
def State.lookup (s : State) (part : BitVec 6) (va : Dword) : State × Option Leaf :=
  let hits := (s.xlate.core ++ s.xlate.die).filter fun l => l.covers part va.toNat
  match smallest hits with
  | none => (s, none)
  | some l =>
    let n := if conflict hits then 1 else 0
    ({ s.use l with xlate := { (s.use l).xlate with confl := s.xlate.confl + n } }, some l)

/-- A walk that an xlat has asked for has not ended. -/
def State.walkerBusy (s : State) : Bool := s.xlate.walks.any (·.ended.isNone)

/-- Some addresses that the die's buffer does not cover need a walk, and another, asked for earlier, is under way (R205). -/
def State.walksWait (s : State) (vas : List Nat) : Bool :=
  s.walkerBusy && vas.any fun va => decide (va < 2 ^ 57) && !s.xlate.die.any fun l => l.covers s.id.part va

/-- The engine's lookup of a virtual address: in the die's buffer, and by a walk where that misses, whose entry fills both
buffers (R206, R243, R391). A double match counts at once (R207). -/
def State.engineLook (s : State) (va : Nat) : State × Option Leaf :=
  let hits := s.xlate.die.filter fun l => l.covers s.id.part va
  if 2 ^ 57 ≤ va then (s, none)
  else
    match smallest hits with
    | some l =>
      let s := if conflict hits then s.countConflicts 1 else s
      ({ s with xlate := { s.xlate with die := refresh 4096 l s.xlate.die } }, some l)
    | none =>
      match s.walk s.id.part (BitVec.ofNat 64 va) with
      | some l => (s.use l, some l)
      | none => (s, none)

/-- The leaf that the engine finds. -/
def State.engineLeaf (s : State) (va : Nat) : Option Leaf := (s.engineLook va).2

/-- The engine looks up the pages of some virtual addresses, page by page in their order (R243). -/
def State.lookPages (s : State) (vas : List Nat) : State :=
  (vas.foldl (fun (r : State × Option Leaf) va =>
    match r.2 with
    | some l => if l.covers r.1.id.part va then r else r.1.engineLook va
    | none => r.1.engineLook va) (s, none)).1

/-! ## Memories -/

/-- Memories that engines reach (R179). -/
def engineRegion (a : Nat) : Bool := regionOf a ≤ 2 || regionOf a == 7

/-- The granules that a read of n bytes from an address takes whole (R198). -/
def wholeGranules (a n : Nat) : List Nat :=
  let lo := (a + 255) / 256
  (List.range ((a + n) / 256 - lo)).map (lo + ·)

/-- A read checks the granules that it takes whole: one whose field fails is poisoned and counted (R199). -/
def State.checkWhole (s : State) (gs : List Nat) : State :=
  (gs.filter s.mem.broken.contains).foldl (fun s _ => s.count 199) { s with mem := (s.mem.check gs).1 }

end Sys2Proof.Machine
end

