-- ==== Sys2Proof/Machine/Wires.lean ====
section
/-! DEFINITION. What this core sends to other units: arrivals on their way, the legs of an agreement (R306, R391), the
release before a contribution or a post (R274, R275), drains (R229, R273), and notch holds (R168). -/

namespace Sys2Proof.Machine

/-! ## Queues (R50) -/

/-- Depth of an engine's queue. -/
def queueDepth : Engine → Nat
  | .copy => 16 | .matrix => 8 | .shuttle => 8 | .outbox => 32 | .clause => 4

def Core.queue (c : Core) : Engine → List Cmd
  | .copy => c.copyQ | .matrix => c.matrixQ | .shuttle => c.shuttleQ | .outbox => c.outboxQ | .clause => c.clauseQ

def Core.setQueue (c : Core) (e : Engine) (q : List Cmd) : Core :=
  match e with
  | .copy => { c with copyQ := q } | .matrix => { c with matrixQ := q } | .shuttle => { c with shuttleQ := q }
  | .outbox => { c with outboxQ := q } | .clause => { c with clauseQ := q }

def CmdOp.engine : CmdOp → Engine
  | .copyTile _ _ _ => .copy
  | .copyDesc _ _ _ => .copy
  | .mma _ _ _ _ => .matrix
  | .mzero _ => .matrix
  | .mdrain _ _ _ _ _ => .matrix
  | .mload _ _ => .matrix
  | .send _ _ _ => .shuttle
  | .coll _ _ _ _ _ _ _ => .shuttle
  | .thimble _ _ _ _ => .outbox
  | .post _ _ => .outbox
  | .take _ _ _ => .outbox
  | .clause _ _ _ => .clause

def Cmd.engine (c : Cmd) : Engine := c.op.engine

/-- Commands that wait in a queue. -/
def Core.queued (c : Core) : List Cmd := c.copyQ ++ c.matrixQ ++ c.shuttleQ ++ c.outboxQ ++ c.clauseQ

/-- The head of a queue, if its panel has committed. -/
def Core.startable (c : Core) (e : Engine) : Option Cmd :=
  match c.queue e with
  | x :: _ => if x.held then none else some x
  | [] => none

/-! ## Arrivals -/

/-- Puts an arrival on its way: it comes in a cycle from `earliest` on. -/
def State.onWire (s : State) (earliest : Nat) (e : Ev) : State := { s with wires := s.wires ++ [(earliest, e)] }

/-- The group descriptor of a number. -/
def State.group (s : State) (gid : Nat) : Option Group := s.groups.find? fun g => g.gid == gid

def State.putGroup (s : State) (g : Group) : State :=
  { s with groups := s.groups.map fun x => if x.gid == g.gid then g else x }

/-- One leg of an agreement in nanoseconds, by the group's scope (R391). -/
def Group.legNs (g : Group) : Nat :=
  let dies := dedup (g.members.map fun m => m.die.toNat)
  if dies.length ≤ 1 then 20 else if (dedup (dies.map (· / 8))).length ≤ 1 then 175 else 2400

/-- Core-clock cycles that cover a time in nanoseconds: a cycle is 5/9 ns (R1). -/
def cyclesOf (ns : Nat) : Nat := (9 * ns + 4) / 5

/-- The combiner root of a group is on the die that holds rank 0 (R305). -/
def State.rootHere (s : State) (g : Group) : Bool :=
  match g.members with | m :: _ => m.die == s.id.die | [] => false

/-- A group whose combiner root is this die's. -/
def State.rooted (s : State) (gid : Nat) : Option Group := (s.group gid).filter s.rootHere

/-- The die of a group's root, free where this die holds no descriptor of it (log entry 56). -/
def State.rootDie (s : State) (gid : Nat) : Nat :=
  match s.group gid with
  | some g => (match g.members with | m :: _ => m.die.toNat | [] => s.id.die.toNat)
  | none => (Config.freeDword (2 ^ 83 + gid)).toNat % 576

/-- The cycle in which something that leaves now for the root of a group, or for a member, arrives. -/
def State.legEnd (s : State) (gid : Nat) : Nat :=
  s.clock + cyclesOf (match s.group gid with | some g => g.legNs | none => 20)

/-- The cycle in which what this core sends to a group's root arrives there, or at this die's station on its way to another. -/
def State.toRoot (s : State) (gid : Nat) : Nat := if (s.rooted gid).isSome then s.legEnd gid else s.clock + 1

/-! ## Accesses that have not performed (R229, R273, R274) -/

/-- A physical address lies in a scope of this core: 0 quad, 1 die, 2 package, 3 domain. -/
def State.inScope (s : State) (scope a : Nat) : Bool :=
  let die := s.id.die.toNat
  let quad := s.id.core.toNat / 4
  match scope with
  | 0 => dieOf a == die &&
      ((regionOf a == 1 && offsetOf a / 2 ^ 28 == quad) || (regionOf a == 2 && offsetOf a / 2 ^ 23 == quad) ||
        (regionOf a == 5 && offsetOf a / 2 ^ 15 == 64 + quad))
  | 1 => dieOf a == die
  | 2 => dieOf a / 8 == die / 8
  | _ => true

/-- Target of a packet that a command will send; a post goes to the vault of its mailbox's core. -/
def State.targetOf (s : State) : CmdOp → Option Nat
  | .thimble _ h off _ => some (h.pbase.toNat + off.toNat)
  | .post t _ => some (vaultBase (t.toNat / 2 ^ 6 % 2 ^ 10) (t.toNat / 2 ^ 4 % 4))
  | .take _ _ true => some (vaultBase s.id.die.toNat (s.id.core.toNat / 4))
  | _ => none

/-- Packets of this core that have not performed: still in the outbox after their commit, or on their way. -/
def State.unperformed (s : State) (limit : Nat) : List Nat :=
  let mine := fun (c : Cmd) => if c.held || decide (limit ≤ c.id) then none else s.targetOf c.op
  let sent := s.packets.filter fun p => p.sdie == s.id.die && p.score == s.id.core && decide (p.id < limit)
  s.core.outboxQ.filterMap mine ++
    ((s.running.filter fun r => r.cmd.engine == .outbox && r.left == 1).filterMap fun r => mine r.cmd) ++
    sent.map fun p => p.addr.toNat

/-- Every access of the core that a drain of this scope covers has performed: committed stores, whose bytes are in memory
once their core-clock cycle has passed (R46), multicast stores and atomics issued before a running cycle, and packets of
commands below an identifier. -/
def State.quiet (s : State) (scope before limit : Nat) : Bool :=
  (s.drains.all fun g => decide (g.reach < s.clock) || g.cells.all fun c => !s.inScope scope c.1) &&
    (s.core.mcast.all fun m => !s.inScope (max scope 1) (scratchBase m.die 0) ||
      (scope == 0 && m.mask.toNat / 2 ^ (4 * (s.id.core.toNat / 4)) % 16 == 0)) &&
    (s.core.flights.all fun g =>
      match g.land with
      | .atomic _ op => g.raw.isSome || decide (before ≤ g.iss) || !s.inScope scope op.addr
      | _ => true) &&
    (s.unperformed limit).all fun a => !s.inScope scope a

/-- The packet of a store that a core's lining has made to a routine slot (R297). -/
def slotStore (i : Ident) (p : Packet) : Bool := p.op == 12 && p.sdie == i.die && p.score == i.core

/-- Every access of the lining and of the main context in a scope has performed, of the packets of commands those below an
identifier (R273, R275). -/
def State.liningQuiet (s : State) (scope limit : Nat) : Bool :=
  s.quiet scope s.run limit && (s.packets.all fun p => !slotStore s.id p || !s.inScope scope p.addr.toNat) &&
    (s.lin.stores.all fun g => g.cells.all fun c => !s.inScope scope c.1) &&
    s.lin.flights.all fun g => match g.land with
      | .atomic _ op => g.raw.isSome || !s.inScope scope op.addr
      | _ => true

/-- Scope of a set of places, from this core: the smallest that holds every one. -/
def scopeOf (dies : List Nat) (quads : List (Nat × Nat)) : Nat :=
  if (dedup (dies.map (· / 8))).length > 1 then 3
  else if (dedup dies).length > 1 then 2
  else if (quads.foldl (fun acc x => if acc.contains x then acc else acc ++ [x]) ([] : List (Nat × Nat))).length > 1 then 1
  else 0

/-- Scope of a group (R274). -/
def Group.scope (g : Group) : Nat :=
  scopeOf (g.members.map fun m => m.die.toNat) (g.members.map fun m => (m.die.toNat, m.core.toNat / 4))

/-- The scope of a group, free where this die holds no descriptor of it (log entry 56). -/
def State.scopeOfGroup (s : State) (gid : Nat) : Nat :=
  match s.group gid with | some g => g.scope | none => (Config.freeDword (2 ^ 82 + gid)).toNat % 4

/-! ## Contributions (R306, R313) -/

/-- The contribution of the open agreement leaves the core: at once in the .nr form, otherwise when the accesses before
its bundle have performed (R274). -/
def State.sendPart (s : State) : State :=
  match s.core.agree with
  | none => s
  | some a =>
    match a.part with
    | none => s
    | some c =>
      let scope := s.scopeOfGroup a.gid
      if a.nr || s.quiet scope a.iss a.limit then
        { s with core := { s.core with agree := some { a with part := none } } }.onWire (s.toRoot a.gid)
          (.agreementContribution c)
      else s

/-! ## Progress that a rollback does not undo (R155) -/

/-- An engine's change of a counter or of a tile's state applies to the live value, to the logged one, and to the
registers that a wrong prediction goes back to. -/
def Core.mapRegs (c : Core) (f : Regs → Regs) : Core :=
  { c with
    regs := f c.regs,
    panel := c.panel.map fun p => { p with entry := f p.entry },
    agree := c.agree.map fun a => { a with after := f a.after } }

def State.mapRegs (s : State) (f : Regs → Regs) : State := { s with core := s.core.mapRegs f }

/-! ## The stop cut (R171) -/

/-- The group slot that a register field names. -/
def State.groupSlot (s : State) (n : Nat) : GroupSlot := s.core.regs.rg (BitVec.ofNat 5 n)

/-- PGRP and SGRP of SEAMREQ (R170). -/
def State.pgrp (s : State) : Nat := s.sys.seamreq.toNat / 2 ^ 51 % 32
def State.sgrp (s : State) : Nat := s.sys.seamreq.toNat / 2 ^ 56 % 32

/-- ASEQ of a group slot steps, in the registers and in a write of it that is in flight. -/
def Core.stepAseq (c : Core) (n : BitVec 5) : Core :=
  let c := c.mapRegs fun r => r.wg n { r.rg n with aseq := (r.rg n).aseq + 1 }
  { c with flights := c.flights.map fun f => match f.land with
      | .aseq g v => if g = n then { f with land := .aseq g (v + 1) } else f
      | _ => f }

/-- This core's part in the cut, with its seam number (R171). -/
def State.cutPart (s : State) (seq : BitVec 16) (number : Word) : Contribution :=
  let g := s.groupSlot s.sgrp
  { gid := g.gid.toNat, rank := g.rank.toNat, die := s.id.die, core := s.id.core, seq := seq, tag := 1023,
    agv := true, op := 4, cc := 0, value := number, ref := 0 }

/-- This core's number goes to the stop group as agv.max.nr sends it, under tag 1,023; a rollback does not take it back
(DEDUCED; log entry 16). -/
def State.sendCut (s : State) (number : Word) (held : Bool) : State :=
  let n := BitVec.ofNat 5 s.sgrp
  let g := s.groupSlot s.sgrp
  if !g.v then s
  else
    { s with sys := { s.sys with cut := .sent held }, core := s.core.stepAseq n, save := s.save.stepAseq n }.onWire
      (s.toRoot g.gid.toNat) (.agreementContribution (s.cutPart g.aseq number))

end Sys2Proof.Machine
end

