-- ==== Sys2Proof/Machine/Ring.lean ====
section
/-! DEFINITION. How a ring slot leaves this die's station: its header and check fields (R198, R283), the ring and the link that
it takes (R284, R290, R291), and its position in a frame (R285, R286). -/

namespace Sys2Proof.Machine

/-! ## Registers of region 6 as bytes -/

def State.putReg (s : State) (off : Nat) (bs : List Byte) : State :=
  { s with reg6 := { s.reg6 with cells := cellsPutAll s.reg6.cells (cellsAt off bs) } }

def State.getReg (s : State) (off n : Nat) : Nat := leNat (cellsRead s.reg6.cells off n)

/-- A step follows at once. -/
def State.after (s : State) (e : Ev) : State := { s with agenda := s.agenda ++ [e] }

def State.emitOut (s : State) (o : Output) : State := { s with outs := s.outs ++ [o] }

/-! ## What a slot carries (R283) -/

/-- The payload bytes of a slot. -/
def slotPayload : SlotBody → List Byte
  | .request p => p.data.flatMap fun x => leBytes 8 x.toNat
  | .reply r => r.data.flatMap fun x => leBytes 8 x.2.toNat
  | .coll c => c.data.flatMap fun x => leBytes 4 x.toNat
  | .move bs _ => bs
  | .reduce p => (p.words.flatMap fun x => leBytes 4 x.toNat) ++ p.cells.flatMap fun c => leBytes 16 (facToNat c.1)
  | .host _ bs => bs
  | _ => []

/-- TYPE of a slot by what it carries. -/
def slotType : SlotBody → BitVec 4
  | .idle => 0
  | .request _ => 1
  | .reply _ => 2
  | .coll _ | .move _ _ | .reduce _ => 3
  | .contribute _ | .outcome _ | .join _ | .joined _ | .hold _ _ => 4
  | .system _ => 5
  | .host _ _ => 6

/-- The check field of every 256-byte granule of a payload. -/
def granuleCrcs (bs : List Byte) : List Word :=
  (List.range ((bs.length + 255) / 256)).map fun i => crcOf ((bs.drop (256 * i)).take 256)

/-- The 64-byte lines of a slot's payload whose granule does not fit its check field (R199, R252). -/
def failedLines (p : RingSlot) : List Nat :=
  let now := granuleCrcs (slotPayload p.body)
  ((List.range now.length).filter fun i => now[i]? != p.gcrc[i]?).flatMap fun i => [4 * i, 4 * i + 1, 4 * i + 2, 4 * i + 3]

/-- The elements of those lines: sixteen 32-bit words, or four FAC cells. -/
def failedElems (p : RingSlot) : List Nat :=
  let n := match p.body with | .reduce x => if x.cells.isEmpty then 16 else 4 | _ => 16
  (failedLines p).flatMap fun l => (List.range n).map (n * l + ·)

/-! ## Packets of several slots (R283) -/

/-- Slots of a payload of n bytes: each carries one granule at most. -/
def slotCount (n : Nat) : Nat := max 1 ((n + 255) / 256)

/-- Part i of a list cut into parts of n. -/
def cutAt {α : Type} (n i : Nat) (l : List α) : List α := (l.drop (n * i)).take n

/-- What slot i of a packet carries: granule i of its payload. -/
def granuleBody (b : SlotBody) (i : Nat) : SlotBody :=
  match b with
  | .reply r => .reply { r with data := cutAt 32 i r.data }
  | .coll c => .coll { c with data := cutAt 64 i c.data }
  | .move bs bad => .move (cutAt 256 i bs) bad
  | .reduce p => .reduce { p with words := cutAt 64 i p.words, cells := cutAt 16 i p.cells }
  | .host a bs => .host (a + BitVec.ofNat 52 (256 * i)) (cutAt 256 i bs)
  | b => b

/-- What two slots that follow each other carry together. -/
def joinBodies (a b : SlotBody) : SlotBody :=
  match a, b with
  | .reply x, .reply y => .reply { x with data := x.data ++ y.data }
  | .coll x, .coll y => .coll { x with data := x.data ++ y.data }
  | .move x bad, .move y _ => .move (x ++ y) bad
  | .reduce x, .reduce y => .reduce { x with words := x.words ++ y.words, cells := x.cells ++ y.cells }
  | .host h x, .host _ y => .host h (x ++ y)
  | a, _ => a

/-- The slots of a packet, numbered from its own number on, each with the check field of its granule. -/
def slotsOf (p : RingSlot) : List RingSlot :=
  if p.cnt ≤ 1 then [p]
  else
    (List.range p.cnt).map fun i =>
      let b := granuleBody p.body i
      { p with seq := p.seq + BitVec.ofNat 16 i, len := (slotPayload b).length, gcrc := cutAt 1 i p.gcrc, idx := i, body := b }

/-- The packet whose slots these are, in order. -/
def wholePacket (first : RingSlot) (rest : List RingSlot) : RingSlot :=
  rest.foldl (fun p q => { p with len := p.len + q.len, gcrc := p.gcrc ++ q.gcrc, body := joinBodies p.body q.body }) first

/-- Two slots are parts of one packet. -/
def samePacket (p q : RingSlot) : Bool :=
  q.sdie == p.sdie && q.score == p.score && q.dunit == p.dunit && q.cnt == p.cnt &&
    q.seq - BitVec.ofNat 16 q.idx == p.seq - BitVec.ofNat 16 p.idx

/-- Bits 255:156 of a slot's header, for one granule of payload; OPS follows. -/
def slotHeader (p : RingSlot) : BitVec 100 :=
  p.typ ++ p.sdie ++ p.score ++ p.ddie ++ p.dunit ++ p.part ++ p.seq ++ BitVec.ofBool p.lap ++ BitVec.ofBool p.bnc ++
    BitVec.ofNat 9 p.len ++ p.gcrc.headD 0

/-- A slot as it stands on a link (R283): the header of 32 bytes, the payload, and zeros up to 320 bytes, least significant byte
first (DESIGN CHOICE; log entry 84). -/
def slotImage (p : RingSlot) : List Byte :=
  let bs := leBytes 32 (slotHeader p ++ Config.slotOps p).toNat ++ (slotPayload p.body).take 256
  bs ++ List.replicate (320 - bs.length) 0

/-- The 64 bytes of the five flits of a slot. -/
def slotFlits (p : RingSlot) : List (BitVec 512) := (List.range 5).map fun i => BitVec.ofNat 512 (leNat (cutAt 64 i (slotImage p)))

/-- The slot that five flits form, as it comes on a link of this station: a clockwise ring comes by the west port. -/
def slotFrom (l : LinkId) (fs : List (BitVec 512)) : RingSlot :=
  let bs := fs.flatMap fun f => leBytes 64 f.toNat
  let h := BitVec.ofNat 256 (leNat (bs.take 32))
  let len := (h.extractLsb' 188 9).toNat
  { Config.slotOf h ((bs.drop 32).take len) with
    typ := h.extractLsb' 252 4, sdie := h.extractLsb' 242 10, score := h.extractLsb' 238 4, ddie := h.extractLsb' 228 10,
    dunit := h.extractLsb' 221 7, part := h.extractLsb' 215 6, seq := h.extractLsb' 199 16, lap := h.getLsbD 198, bnc := h.getLsbD 197,
    len := len, gcrc := [h.extractLsb' 156 32], rack := l.rack, cw := !l.east }

/-- A flit of 64 bytes with its check (R288). -/
def flitOf (seq : Nat) (d : BitVec 512) : Flit := { kind := .flit, seq := seq, data := d, crc := crcOf (leBytes 64 d.toNat) }

/-- Where a slot is bound: its destination, or its source once it bounced (R287). -/
def slotGoal (p : RingSlot) : Nat := if p.bnc then p.sdie.toNat else p.ddie.toNat

/-! ## Links and routing weights (R282, R284, R290) -/

/-- Number of a link: of the package ring, east 0 to 3 and west 4 to 7; of the bridge's rack ports, 8 more. -/
def linkNum (l : LinkId) : Nat := (if l.rack then 8 else 0) + (if l.east then 0 else 4) + l.idx.toNat

def State.link (s : State) (n : Nat) : LinkState := s.fabric.links.toArray.getD n LinkState.reset

def State.putLink (s : State) (n : Nat) (l : LinkState) : State :=
  { s with fabric := { s.fabric with links := s.fabric.links.setIfInBounds n l } }

/-- First link of a port: a clockwise ring leaves by the east port. -/
def portBase (rack cw : Bool) : Nat := (if rack then 8 else 0) + (if cw then 0 else 4)

/-- The routing-weight word towards a die of the package. -/
def weightReg (die : Nat) : Nat := 0x300000 + 4 * (die % 8)

/-- CWS of a word, and the links of a leg that it permits: CWL for the east port, CCWL for the west port. -/
def weightCws (w : Nat) : Nat := w / 2 ^ 16 % 32
def legMask (w : Nat) (cw : Bool) : Nat := if cw then w / 16 % 16 else w % 16

/-- The trained links of a port that a slot may take towards a die of the package, along the rack ring, or round the ring for a lap,
in rising order. -/
def State.permitted (s : State) (rack : Bool) (via : Nat) (cw : Bool) : List Nat :=
  let m := if rack || via == s.ownDie then 15 else legMask (s.getReg (weightReg via) 4) cw
  ((List.range 4).filter fun i => m / 2 ^ i % 2 == 1 && (s.link (portBase rack cw + i)).up).map (portBase rack cw + ·)

/-- A leg of a slot's way: its ring and direction, the die where it leaves that ring, and the links that it may take. -/
structure Leg where
  rack  : Bool
  cw    : Bool
  via   : Nat
  links : List Nat
deriving DecidableEq, Repr

/-- The leg in a direction, or in the other where no link of that one is permitted (R284, R289). -/
def State.eitherWay (s : State) (rack cw : Bool) (via : Nat) : Option Leg :=
  match s.permitted rack via cw, s.permitted rack via (!cw) with
  | [], [] => none
  | [], l => some ⟨rack, !cw, via, l⟩
  | l, _ => some ⟨rack, cw, via, l⟩

/-- The leg to a die of the package: clockwise for the numbers that CWS gives, unless the route's DIR names the direction
(R250, R284). -/
def State.packageLeg (s : State) (p : RingSlot) (via : Nat) : Option Leg :=
  let w := s.getReg (weightReg via) 4
  s.eitherWay false (p.dir.getD (decide (p.seq.toNat % 16 < weightCws w))) via

/-- The die holds a bridge station: D0 on rack ring A, D4 on B (R290). -/
def State.ownBridge (s : State) : Bool := s.ownDie % 4 == 0

/-- The bridge of this package that its rack selection gives a slot for another package (R291). -/
def State.bridgeDie (s : State) (p : RingSlot) : Nat :=
  let sel := s.getReg (0x320000 + slotGoal p / 8) 1
  s.ownDie / 8 * 8 + (if sel = 0 then 0 else if sel = 1 then 4 else if p.sdie.toNat % 8 < 4 then 0 else 4)

/-- The shorter way round the rack ring, and by SEQ parity when the two are equal: even numbers go clockwise (R291; log
entry 66). -/
def State.rackCw (s : State) (p : RingSlot) : Bool :=
  let o := s.fabric.order
  let hops := (o.idxOf (slotGoal p / 8) + o.length - o.idxOf (s.ownDie / 8)) % o.length
  if 2 * hops = o.length then p.seq.toNat % 2 == 0 else decide (2 * hops < o.length)

/-- The next leg of a slot from this station (R291): in its package, to a bridge, or from the bridge where it left the package
ring round the rack, and to the other bridge when that rack ring has failed. -/
def State.nextLeg (s : State) (p : RingSlot) : Option Leg :=
  let g := slotGoal p
  if g / 8 = s.ownDie / 8 then s.packageLeg p g
  else
    let b := if s.ownBridge && p.via.toNat == s.ownDie then s.ownDie else s.bridgeDie p
    if b ≠ s.ownDie then s.packageLeg p b
    else (s.eitherWay true (s.rackCw p) (g / 8 * 8 + s.ownDie % 8)).or (s.packageLeg p (s.ownDie / 8 * 8 + (s.ownDie + 4) % 8))

/-! ## Positions (R285, R286) -/

/-- First byte of the reservation table of a ring: the package rings', then the rack ring's (log entry 66). -/
def tableBase (rack : Bool) : Nat := if rack then 0x310040 else 0x310000

/-- The positions of 1 to 63 that the table in force reserves to a partition. -/
def State.positionsOf (s : State) (rack : Bool) (part : Nat) : List Nat :=
  let t := if rack then s.fabric.rackTable else s.fabric.table
  if part = 0 then [] else ((List.range 64).drop 1).filter fun i => (cellsGet t (tableBase rack + i)).toNat == part

/-- A free choice of a slot: which of its links and positions arrive empty at the station (R284, R286). -/
def State.slotKey (s : State) (p : RingSlot) : Nat :=
  s.free * 2 ^ 64 + 2 ^ 62 + 2 ^ 21 + 8 * (p.seq.toNat + 2 ^ 16 * p.dunit.toNat + 2 ^ 23 * p.ddie.toNat)

/-- A position of the slot's partition that arrives empty, if one does. -/
def State.freePos (s : State) (rack : Bool) (p : RingSlot) : Option Nat :=
  let ps := s.positionsOf rack p.part.toNat
  ps[(Config.freeDword (s.slotKey p)).toNat % (ps.length + 1)]?

/-- The lowest permitted link with a free slot time in a position, if one has: a slot uses a position of a link up for this frame
(R284, R286). -/
def State.freeLink (s : State) (l : Leg) (p : RingSlot) (i : Nat) : Option Nat :=
  l.links.find? fun n => !s.fabric.used.contains (n, i) && Config.freeBit (s.slotKey p + n % 4)

/-! ## Leaving -/

/-- Flits go onto a link, numbered from its next number on, and stay in the retry buffer of 512 flits (R288). -/
def LinkState.send (l : LinkState) (fs : List (BitVec 512)) : LinkState :=
  let r := l.retry ++ ((List.range fs.length).zip fs).map fun x => (l.next + x.1, x.1, x.2)
  { l with next := l.next + fs.length, retry := r.drop (r.length - 512) }

/-- The five flits of a slot go out on a link. -/
def State.sendFlits (s : State) (n : Nat) (fs : List (BitVec 512)) : State :=
  let l := s.link n
  ((List.range fs.length).zip fs).foldl (fun s x => s.emitOut (.flit n (flitOf (l.next + x.1) x.2))) (s.putLink n (l.send fs))

/-- A slot leaves by a link, in its position of this frame. -/
def State.sendOn (s : State) (n : Nat) (p : RingSlot) : State :=
  let t := (s.emitOut (.slot p)).sendFlits n (slotFlits p)
  { t with fabric := { t.fabric with used := t.fabric.used ++ [(n, p.pos.toNat)] } }

/-- Marks a post that a front end sends, beside the target in CTL. -/
def frontEndMark : Nat := 2 ^ 16

def frontEndPost (p : Packet) : Bool := p.op == 10 && decide (p.ctl.toNat / frontEndMark % 2 = 1)

/-- A packet of this core that cannot reach its target ends at its source (R283, R293): code 3 of R325. -/
def State.unreachable (s : State) (b : SlotBody) : State :=
  match b with
  | .request p =>
    if p.sdie = s.id.die ∧ p.score = s.id.core ∧ !frontEndPost p then s.onWire (s.clock + 1) (.thimbleReply { id := p.id, code := 3, data := [] })
    else s
  | _ => s

/-- A slot that this station puts onto a ring: none while no position of its partition, or no link in one, arrives empty. -/
def State.enter (s : State) (p : RingSlot) : Option State :=
  match s.nextLeg p with
  | none => some (s.unreachable p.body)
  | some l =>
    match s.freePos l.rack p with
    | some i => (s.freeLink l p i).map fun n =>
      s.sendOn n { p with rack := l.rack, cw := l.cw, via := BitVec.ofNat 10 l.via, pos := BitVec.ofNat 6 i }
    | none => none

/-- A slot leaves now, or waits here for a position (R286). -/
def State.depart (s : State) (p : RingSlot) : State :=
  match s.enter p with
  | some t => t
  | none => { s with fabric := { s.fabric with waiting := s.fabric.waiting ++ [p] } }

/-- The slots that wait here try again, in order. -/
def State.departAll (s : State) : State :=
  s.fabric.waiting.foldl State.depart { s with fabric := { s.fabric with waiting := [] } }

/-- A passing slot goes on along its ring, by the lowest permitted link of its direction or of the other (R282, R289). -/
def State.pass (s : State) (p : RingSlot) : State :=
  match s.eitherWay p.rack p.cw p.via.toNat with
  | some l => s.sendOn (((l.links.find? fun n => !s.fabric.used.contains (n, p.pos.toNat)).or l.links.head?).getD 0) { p with cw := l.cw }
  | none => s.unreachable p.body

/-! ## Slots of this die's units -/

/-- The number that the next slot of a source core here to a unit bears (R283). -/
def State.seqTo (s : State) (score : BitVec 4) (ddie : BitVec 10) (dunit : BitVec 7) : BitVec 16 :=
  match s.fabric.sent.find? (fun x => x.1 == score && x.2.1 == ddie && x.2.2.1 == dunit) with
  | some x => x.2.2.2
  | none => 0

def State.stepSeq (s : State) (score : BitVec 4) (ddie : BitVec 10) (dunit : BitVec 7) (cnt : Nat) : State :=
  let n := s.seqTo score ddie dunit + BitVec.ofNat 16 (cnt - 1)
  let rest := s.fabric.sent.filter fun x => !(x.1 == score && x.2.1 == ddie && x.2.2.1 == dunit)
  { s with fabric := { s.fabric with sent := rest ++ [(score, ddie, dunit, n + 1)] } }

/-- A packet of a unit of this die for a unit of another. SCORE of a slot that no core sends names the core that it serves (log
entry 66). -/
def State.slotFor (s : State) (score : BitVec 4) (part ddie dunit : Nat) (body : SlotBody) : RingSlot :=
  let d := BitVec.ofNat 10 ddie
  let u := BitVec.ofNat 7 dunit
  { typ := slotType body, sdie := s.id.die, score := score, ddie := d, dunit := u, part := BitVec.ofNat 6 part,
    seq := s.seqTo score d u, lap := false, bnc := false, len := (slotPayload body).length, gcrc := granuleCrcs (slotPayload body),
    idx := 0, cnt := slotCount (slotPayload body).length, rack := false, cw := true, via := d, pos := 0, dir := none, hops := [], body := body }

/-- A numbered packet leaves, slot by slot, or waits for positions; one for another unit of this die takes no ring. -/
def State.launchSlot (s : State) (p : RingSlot) : State :=
  let t := s.stepSeq p.score p.ddie p.dunit p.cnt
  (slotsOf p).foldl (fun t q => if p.ddie = s.id.die then t.emitOut (.slot q) else t.depart q) t

/-- A slot of this core, or of a unit that serves a core, leaves for a unit of another die. -/
def State.post (s : State) (score : BitVec 4) (part ddie dunit : Nat) (body : SlotBody) : State :=
  s.launchSlot (s.slotFor score part ddie dunit body)

/-! ## Messages of agreement (R168, R283, R306) -/

/-- The partition of a group whose root is here: that of rank 0's core. -/
def State.partOfGroup (s : State) (g : Group) : Nat :=
  match g.members with | m :: _ => s.quadOwner (m.core.toNat / 4) | [] => 0

/-- An agreement slot of the combiner for a core on another die, or another core of this one. -/
def State.postMember (s : State) (part : Nat) (die : BitVec 10) (core : BitVec 4) (b : SlotBody) : State :=
  s.post core part die.toNat (80 + core.toNat) b

/-- A message of this core for a group's combiner root on another die. -/
def State.postRoot (s : State) (gid : Nat) (b : SlotBody) : State :=
  s.post s.id.core s.id.part.toNat (s.rootDie gid) 96 b

/-- The combiner passes a notch hold to the other members of its group (R168). -/
def State.relayHold (s : State) (g : Group) (h : HoldMsg) : State :=
  ((List.range g.members.length).zip g.members).foldl (fun s x =>
    if x.1 = h.rank ∨ !x.2.current then s
    else if x.2.die = s.id.die ∧ x.2.core = s.id.core then s.onWire (s.legEnd g.gid) (.notchHoldArrival h)
    else s.postMember (s.partOfGroup g) x.2.die x.2.core (.hold g.gid h)) s

/-- A hold of this core's partners, or the release of one, goes out through the group's combiner. -/
def State.sendNote (s : State) (set : Bool) (notch : BitVec 16) : State :=
  let g := s.groupSlot s.pgrp
  let h : HoldMsg := { rank := g.rank.toNat, set := set, notch := notch }
  if !g.v then s
  else
    let t := { s with sys := { s.sys with notes := s.sys.notes ++ [h] } }
    match s.rooted g.gid.toNat with
    | some d => t.relayHold d h
    | none => t.postRoot g.gid.toNat (.hold g.gid.toNat h)

end Sys2Proof.Machine
end

