-- ==== Sys2Proof/Machine/Region6.lean ====
section
/-! DEFINITION. The die's control registers as a reader finds them (R381): region 6, doubleword by doubleword, and who may
read and write each window. -/

namespace Sys2Proof.Machine

/-! ## Words of the windows -/

/-- The 64 bits of a group slot (R304). -/
def GroupSlot.word (g : GroupSlot) : Dword :=
  (BitVec.ofBool g.v) ++ g.ops ++ g.gid ++ g.rank ++ g.aseq ++ g.cseq

def flagAt (b : Bool) (n : Nat) : Nat := if b then 2 ^ n else 0

/-- The invalidation word (R212). -/
def Invalidation.word (i : Invalidation) (k : Nat) : Nat :=
  if k = 0 then i.vstart.toNat % 2 ^ 57
  else flagAt i.busy 62 + flagAt i.done 61 + flagAt i.refused 60 + i.part.toNat * 2 ^ 54 + i.count.toNat

/-- The context port (R174). -/
def ContextPort.word (p : ContextPort) (k : Nat) : Nat :=
  match k with
  | 0 => p.addr.toNat
  | 1 => p.accmask.toNat
  | 2 => flagAt p.busy 62 + flagAt p.done 61 + p.err.toNat * 2 ^ 57 + flagAt p.restore 56 + p.sect.toNat
  | _ => 0

/-- A clause window (R354). -/
def ClauseWindow.word (w : ClauseWindow) (k : Nat) : Nat :=
  match k with
  | 0 => w.addr.toNat
  | 1 => flagAt w.busy 62 + flagAt w.done 61 + w.op.toNat * 2 ^ 59 + w.err.toNat * 2 ^ 55 + w.core.toNat * 2 ^ 51
  | _ => 0

/-- A ring's registers (R362). -/
def CommandRing.word (r : CommandRing) (k : Nat) : Nat :=
  match k with
  | 0 => r.base.toNat
  | 1 => r.size.toNat
  | 2 => r.rptr.toNat + r.wptr.toNat * 2 ^ 32
  | _ => 0

/-- FESTAT and FECTL (R363). -/
def FrontEnd.festat (f : FrontEnd) : Nat :=
  flagAt f.err 63 + flagAt f.ering 62 + f.code.toNat * 2 ^ 56 + f.depth.toNat * 2 ^ 53 + f.latecnt.toNat * 2 ^ 32 + f.eword.toNat

def FrontEnd.fectl (f : FrontEnd) : Nat := flagAt f.timed.en 1 + flagAt f.normal.en 0

def FrontEnd.word (f : FrontEnd) (k : Nat) : Nat :=
  if k < 4 then f.normal.word k
  else if k < 8 then f.timed.word (k - 4)
  else if k = 8 then f.festat
  else if k = 9 then f.fectl
  else 0

/-- Number of a life-cycle state in the order of R389. -/
def LifeCycle.index : LifeCycle → Nat
  | .blank => 0 | .provisioned => 1 | .deployed => 2 | .returned => 3

/-- The identity word: STAGE in bits 1:0 and the life-cycle state in bits 5:4 (log entry 20). -/
def State.identityWord (s : State) (k : Nat) : Nat :=
  let w := (Config.identity k).toNat
  if k = 0 then w - w % 64 + w / 4 % 4 * 4 + s.boot.stage % 4 + (Config.lifeCode s.boot.life.index).toNat * 16 else w

/-- A value that this die's state does not give: the health window has no layout, and windows of other cores belong to
them (log entries 1 and 7). -/
def State.freeWord (s : State) (off : Nat) : Nat := (Config.freeDword (s.free * 2 ^ 64 + 2 ^ 57 + off)).toNat

/-- The doubleword of region 6 at an offset, a multiple of 8. -/
def State.reg6Word (s : State) (off : Nat) : Nat :=
  let raw := leNat (cellsRead s.reg6.cells off 8)
  if off < 0x40 then s.identityWord (off / 8)
  else if 0x10000 ≤ off ∧ off < 0x20000 then s.freeWord off
  else if 0x100000 ≤ off ∧ off < 0x140000 then
    if (off - 0x100000) / 0x1000 = s.id.part.toNat then s.fe.word (off % 0x1000 / 8) else 0
  else if off = 0x210000 ∨ off = 0x210008 then s.inval.word (off % 16 / 8)
  else if 0x400000 ≤ off ∧ off < 0x440000 then
    if off = 0x400000 then s.clause.split.toNat
    else if 0x100 ≤ off % 0x10000 ∧ off % 0x10000 < 0x110 then
      match s.clause.win.toArray[(off - 0x400000) / 0x10000]? with
      | some w => w.word ((off % 0x10000 - 0x100) / 8)
      | none => 0
    else 0
  else if 0x600000 ≤ off ∧ off < 0x602000 then
    if (off - 0x600000) / 0x200 ≠ s.ownCore then s.freeWord off
    else if off % 0x200 < 0x100 then (s.groupSlot (off % 0x200 / 8)).word.toNat
    else 0
  else if 0x900000 ≤ off ∧ off < 0x900400 then
    if (off - 0x900000) / 0x40 ≠ s.ownCore then s.freeWord off else s.port.word (off % 0x40 / 8)
  else raw

/-! ## Who may read and write (R381) -/

def within (off base size : Nat) : Bool := decide (base ≤ off ∧ off < base + size)

/-- A partition owns an instance of the die's clause array. -/
def State.ownsInstance (s : State) (part i : Nat) : Bool :=
  isPartition part && decide (i < 2 ^ (s.clause.split.toNat % 4)) && s.clause.split.toNat / 2 ^ (16 + 6 * i) % 64 == part

/-- The split word apart, the 64 KiB window of each clause instance (R381). -/
def inClauseWindow (off : Nat) : Bool := within off 0x400000 0x40000 && !within off 0x400000 8

/-- What stands for one partition: its front end's registers, and its translation root. -/
def frontEndOf (part off : Nat) : Bool := isPartition part && within off (0x100000 + 0x1000 * part) 0x1000
def rootOf (part off : Nat) : Bool := isPartition part && within off (0x200000 + 16 * part) 16

/-- The windows of the cores and clause instances that a partition owns: for its linings. -/
def State.ownedWindow (s : State) (part off : Nat) : Bool :=
  (inClauseWindow off && s.ownsInstance part ((off - 0x400000) / 0x10000)) ||
    (within off 0x600000 0x2000 && s.ownsCore part ((off - 0x600000) / 0x200)) ||
    (within off 0x700000 0x400 && s.ownsCore part ((off - 0x700000) / 0x40)) ||
    (within off 0x900000 0x400 && s.ownsCore part ((off - 0x900000) / 0x40)) ||
    (within off 0xA00000 16 && s.ownsCore part (off - 0xA00000))

/-- The linings of a partition, or its host, may read an offset. -/
def State.mayReadReg (s : State) (w : Writer) (part off : Nat) : Bool :=
  let lining := w == .lining
  within off 0 0x40 || within off 0x10000 0x10000 || within off 0x800000 0x1000 ||
    frontEndOf part off ||
    (lining &&
      (rootOf part off || within off 0x210000 16 || within off 0x300000 32 || within off 0x310000 0x1000 ||
        within off 0x320000 72 || within off 0x500000 (68 * 8) ||
        (within off 0x400000 8 && (List.range 4).any (s.ownsInstance part)) ||
        s.ownedWindow part off))

/-- A writer may write an offset; a partition stands for its linings and its host. -/
def State.mayWriteReg (s : State) (w : Writer) (part off : Nat) : Bool :=
  match w with
  | .hardware => within off 0x10000 0x10000
  | .gpm =>
    within off 0x200000 0x400 || within off 0x210000 16 || within off 0x310000 0x1000 || within off 0x400000 8 ||
      within off 0x800000 0x1000
  | .host => frontEndOf part off
  | .lining =>
    frontEndOf part off || (rootOf part off && 8 ≤ off % 16) || within off 0x210000 16 ||
      within off 0x300000 32 || within off 0x320000 72 || within off 0x500000 (68 * 8) ||
      s.ownedWindow part off

/-- Byte of region 6 at an offset. -/
def State.regByte (s : State) (off : Nat) : Byte := BitVec.ofNat 8 (s.reg6Word (off / 8 * 8) / 256 ^ (off % 8))

/-- A read of n bytes of region 6: a byte that the reader may not read is zero, and the access is counted (R381). -/
def State.readReg (s : State) (w : Writer) (off n : Nat) : State × List Byte :=
  let may := fun i => s.mayReadReg w s.id.part.toNat (off + i)
  (if (List.range n).all may then s else s.count 381, (List.range n).map fun i => if may i then s.regByte (off + i) else 0)

/-- A load of the lining from region 5 (R296): an address that no thimble has reads as a free value. -/
def State.readCells (s : State) (a n : Nat) : List Byte :=
  let off := offsetOf a
  if off / 2 ^ 22 = 0 ∧ off / 2 ^ 15 < 68 then
    (if off % 2 ^ 15 < 0x3000 then s.performed.mem.bytes a n else List.replicate n 0)
  else leBytes n (s.freeWord (2 ^ 40 + a))

/-- What a load of the lining reads. -/
def State.liningBytes (s : State) (acc : List Access) : State × List Byte :=
  acc.foldl (fun r x =>
    match regionOf x.addr with
    | 6 => let q := r.1.readReg .lining (offsetOf x.addr) x.size; (q.1, r.2 ++ q.2)
    | 5 => (r.1, r.2 ++ r.1.readCells x.addr x.size)
    | _ => (r.1, r.2 ++ sampleBytes r.1.performed [x])) (s, [])

/-! ## A write arrives -/

/-- The doubleword of region 6 with n bytes at an offset replaced: a narrower write leaves the rest of its register as it
reads (log entry 21). -/
def State.mergedWord (s : State) (off n v : Nat) : Nat :=
  let old := leBytes 8 (s.reg6Word (off / 8 * 8))
  leNat (old.take (off % 8) ++ leBytes n v ++ old.drop (off % 8 + n))

/-- The steps that a write of n bytes to region 6 makes: those of its register, where it has steps of its own, after the
filter of R381; otherwise the plain write of a register. Of the control bytes that a write may not change, one counts it. -/
def State.regEvents (s : State) (w : Writer) (off n v : Nat) : List Ev :=
  let part := s.id.part.toNat
  let plain := [Ev.registerWrite w (BitVec.ofNat 24 off) n (BitVec.ofNat 64 v)]
  let merged := s.mergedWord off n v
  let word := BitVec.ofNat 64 merged
  let o := off % 0x1000
  if within off 0xA00000 16 then
    let may := fun i => s.mayWriteReg w part (off + i)
    ((List.range n).filter may ++ ((List.range n).filter fun i => !may i).take 1).map fun i =>
      Ev.multicastControlWrite w (BitVec.ofNat 4 (off + i)) (BitVec.ofNat 8 (v / 2 ^ (8 * i)))
  else if !s.mayWriteReg w part off then plain
  else if within off 0x500000 (68 * 8) then [Ev.scrubberControlWrite w (BitVec.ofNat 7 ((off - 0x500000) / 8)) word]
  else if off / 8 * 8 = 0x210008 ∧ merged / 2 ^ 63 = 1 then [Ev.invalidate w word]
  else if off / 8 * 8 = 0x400000 then [Ev.splitWordWrite w word]
  else if within off (0x100000 + 0x1000 * part) 0x1000 then
    if o / 8 = 2 ∨ o / 8 = 6 then
      (if o % 8 < 4 then [Ev.registerWrite w (BitVec.ofNat 24 (off / 8 * 8)) 4 word] else []) ++
        (if 4 ≤ o % 8 ∨ n = 8 then [Ev.nwptrWrite (o / 8 == 6) (BitVec.ofNat 32 (merged / 2 ^ 32))] else [])
    else if o / 8 = 8 then [Ev.festatWrite]
    else if o / 8 = 9 then
      if merged / 8 ≠ 0 then []
      else (if merged / 4 = 1 then [Ev.fectlClr] else []) ++ [Ev.fectlEnable (merged % 2 == 1) (merged / 2 % 2 == 1)]
    else plain
  else plain

end Sys2Proof.Machine
end

