-- ==== Sys2Proof/Machine/FrontRead.lean ====
section
/-! DEFINITION. What a command front end reads: bytes of the partition's address space (R366), words of its rings and
indirect buffers (R362, R367, R368), and its next command (R364, R365, R373). -/

namespace Sys2Proof.Machine

/-! ## Memory of the partition (R366) -/

/-- A range cut at its 64 KiB units: no page ends inside one. -/
def chunks : Nat → Nat → Nat → List (Nat × Nat)
  | 0, _, _ => []
  | fuel + 1, va, n =>
    let room := 2 ^ 16 - va % 2 ^ 16
    if n = 0 then [] else if n ≤ room then [(va, n)] else (va, room) :: chunks fuel (va + room) (n - room)

def chunksOf (va n : Nat) : List (Nat × Nat) := chunks (n / 2 ^ 16 + 2) va n

/-- A physical place for n bytes of one 64 KiB unit, with a permission: R or W. -/
def State.fePlace (s : State) (va : Nat) (write : Bool) : Option Nat :=
  if va / 2 ^ 57 ≠ 0 then none
  else
    match s.engineLeaf va with
    | none => none
    | some l =>
      let a := l.pbase.toNat + (va - l.vbase.toNat)
      if (if write then l.rwam.getLsbD 2 else l.rwam.getLsbD 3) && (regionOf a ≤ 2 || regionOf a == 7) then some a else none

/-- Whether a range's lines or whole granules show an error to a reader (R199), or it is being wiped (R201). -/
def State.readFails (s : State) (a n : Nat) : Bool :=
  s.inWipe a n || (s.mem.poison.any fun l => decide (a < 64 * l + 64 ∧ 64 * l < a + n)) ||
    s.mem.broken.any fun g => decide (a ≤ 256 * g ∧ 256 * g + 256 ≤ a + n)

/-- What reading or writing a range leaves behind: its pages stand in the translation buffers, with a double match counted for
no core (log entry 30). -/
def State.feLook (s : State) (va n : Nat) : State :=
  { s.lookPages ((chunksOf va n).map (·.1)) with sys := s.sys }

/-- Reading a range also checks the granules that it takes whole (R199). -/
def State.feTouch (s : State) (va n : Nat) : State :=
  (s.feLook va n).checkWhole ((chunksOf va n).flatMap fun c =>
    match s.fePlace c.1 false with | some a => if s.inWipe a c.2 then [] else wholeGranules a c.2 | none => [])

/-- Bytes that the front end reads, none on a fault (error 6). -/
def State.feRead (s : State) (va n : Nat) : Option (List Byte) :=
  (chunksOf va n).foldl (fun r c =>
    match r, s.fePlace c.1 false with
    | some bs, some a => if s.readFails a c.2 then none else some (bs ++ s.performed.mem.bytes a c.2)
    | _, _ => none) (some [])

/-! ## Words of commands -/

def FrontEnd.ring (f : FrontEnd) (timed : Bool) : CommandRing := if timed then f.timed else f.normal

def FrontEnd.setRing (f : FrontEnd) (timed : Bool) (r : CommandRing) : FrontEnd :=
  if timed then { f with timed := r } else { f with normal := r }

/-- The word i after the next header as memory holds it: in the ring, or in the innermost indirect buffer. -/
def State.ringWord (s : State) (r : CommandRing) (i : Nat) : Option Word :=
  let va := match r.bufs with
    | [] => r.base.toNat + 4 * ((r.rptr.toNat + i) % 2 ^ 32 % r.size.toNat)
    | b :: _ => b.va.toNat + 4 * (b.pos + i)
  (s.feRead va 4).map fun bs => BitVec.ofNat 32 (leNat bs)

/-- The word i after the next header: as it was prefetched, or else as memory holds it (R368). -/
def State.commandWord (s : State) (r : CommandRing) (i : Nat) : Option Word :=
  match r.pre[i]? with
  | some w => some w
  | none => s.ringWord r i

/-- Words that stand ready from the next header on. -/
def CommandRing.ready (r : CommandRing) : Nat :=
  match r.bufs with
  | [] => (r.wptr - r.rptr).toNat
  | b :: _ => b.len - b.pos

def State.commandWords (s : State) (r : CommandRing) : Nat → Option (List Word)
  | 0 => some []
  | n + 1 =>
    match s.commandWords r n, s.commandWord r (n + 1) with
    | some ws, some w => some (ws ++ [w])
    | _, _ => none

/-! ## Prefetching (R368) -/

/-- A command of n words ends in its innermost buffer; a buffer at its end returns behind its CALL_IB, of four words. What is
left of the buffers, the words that the ring itself passes, and the interrupts that are sent. -/
def unwind : List IndirectBuffer → Nat → List IndirectBuffer × Nat × Nat
  | [], n => ([], n, 0)
  | b :: r, n =>
    if b.pos + n < b.len then ({ b with pos := b.pos + n } :: r, 0, 0)
    else
      let x := unwind r 4
      (x.1, x.2.1, x.2.2 + (if b.flags.getLsbD 0 then 1 else 0))

/-- Words that follow the header that a word is (R364). -/
def wordsAfter (w : Word) : Nat := w.toNat / 2 ^ 8 % 2 ^ 16

/-- A ring at the end of the command that some words are, header first; none where no command follows it on the path. -/
def CommandRing.past (r : CommandRing) (ws : List Word) : Option CommandRing :=
  let head := ws.headD 0
  let leave := fun (bufs : List IndirectBuffer) (n : Nat) =>
    let x := unwind bufs n
    some { r with bufs := x.1, rptr := r.rptr + BitVec.ofNat 32 x.2.1, pre := r.pre.drop ws.length }
  match head.toNat / 2 ^ 24, ws with
  | 5, [_, lo, hi, len] =>
    if 4 ≤ r.bufs.length then none
    else
      let b : IndirectBuffer := { va := hi ++ lo, len := len.toNat, pos := 0, flags := head.setWidth 8 }
      some { r with bufs := b :: r.bufs, pre := r.pre.drop 4 }
  | 6, _ =>
    match r.bufs with
    | [] => none
    | b :: rest => leave ({ b with pos := b.len } :: rest) 1
  | t, _ => if t = 5 ∨ 0x0B < t then none else leave r.bufs ws.length

/-- The words from the word i after the next header on, at most n, up to one that cannot be read. -/
def State.wordsFrom (s : State) (r : CommandRing) : Nat → Nat → List Word
  | 0, _ => []
  | n + 1, i =>
    match s.commandWord r i with
    | some w => w :: s.wordsFrom r n (i + 1)
    | none => []

/-- The words on the path of a ring from its next header on, of so many commands and so many words at most. -/
def State.path (s : State) : Nat → Nat → CommandRing → List Word
  | 0, _, _ => []
  | commands + 1, room, r =>
    match s.wordsFrom r (min r.ready (min room 1)) 0 with
    | [] => []
    | w :: _ =>
      let ws := s.wordsFrom r (min r.ready (min room (wordsAfter w + 1))) 0
      match if ws.length = wordsAfter w + 1 then r.past ws else none with
      | some q => ws ++ s.path commands (room - ws.length) q
      | none => ws

/-- A ring prefetches on, at most 256 words ahead of the command that it executes (R368); how far, is a free choice (log entry
69). While the walker has another's walk to end it prefetches nothing, since it might need one too (R205). -/
def State.prefetched (s : State) (timed : Bool) : CommandRing :=
  let r := s.fe.ring timed
  if s.boot.stage ≠ 2 || !r.en || r.stopped || s.walkerBusy then r
  else
    let room := 256 + (match r.wait with | some w => w.words + 1 | none => 0)
    let more := (Config.freeDword (s.free * 2 ^ 64 + 2 ^ 62 + 2 ^ 60 + if timed then 1 else 0)).toNat % 257
    { r with pre := (s.path 257 room r).take (r.pre.length + more) }

/-- A whole command of a ring is prefetched, or as much of it as may be. -/
def CommandRing.hasWhole (r : CommandRing) : Bool :=
  match r.pre with
  | [] => false
  | w :: _ => decide (min (wordsAfter w + 1) 256 ≤ r.pre.length)

/-! ## The next command -/

/-- The step of a command of a type. -/
def commandEvent (h : FeHead) (ws : List Word) : Ev :=
  match h.typ.toNat with
  | 0x01 => .loadImem h ws
  | 0x02 => .presetAc h ws
  | 0x03 => .presetHandle h ws
  | 0x04 => .feRelease h ws
  | 0x05 => .callIb h ws
  | 0x06 => .feReturn h ws
  | 0x07 => .feWait h ws
  | 0x08 => .feWrite h ws
  | 0x09 => .fePost h ws
  | 0x0A => .timedRelease h ws
  | 0x0B => .feBarrier h ws
  | _ => .feNop h ws

/-- The next command of a ring: none while it has no whole command. One that cannot be read carries its error (R375);
its words are then as many zeros, so that its length is known. -/
def State.nextCommand (s : State) (timed : Bool) : Option Ev :=
  let r := s.fe.ring timed
  if !r.en || r.stopped || r.wait.isSome || r.ready = 0 then none
  else
    match s.commandWord r 0 with
    | none => some (commandEvent { timed := timed, typ := 0, flags := 0, bad := 6 } [])
    | some w =>
      let n := wordsAfter w
      let h : FeHead := { timed := timed, typ := BitVec.ofNat 8 (w.toNat / 2 ^ 24), flags := BitVec.ofNat 8 w.toNat, bad := 0 }
      let blank := List.replicate n (0 : Word)
      if r.ready < n + 1 then (if r.bufs.isEmpty then none else some (commandEvent { h with bad := 3 } blank))
      else if 0x0B < h.typ.toNat then some (commandEvent { h with bad := 1 } blank)
      else
        match s.commandWords r n with
        | none => some (commandEvent { h with bad := 6 } blank)
        | some ws => some (commandEvent h ws)

/-- A ring tries a POST again and again; no other command starts meanwhile (R373). -/
def CommandRing.posting (r : CommandRing) : Bool :=
  match r.wait with
  | some w => match w.what with | .post _ _ => true | _ => false
  | none => false

/-- The command that the front end executes next: that of the time-triggered ring goes first where it is prefetched whole
(R373). Before S2 it reads none. -/
def State.feNext (s : State) : Option Ev :=
  if s.boot.stage ≠ 2 || s.fe.normal.posting || s.fe.timed.posting then none
  else
    match s.nextCommand true, s.nextCommand false with
    | some e, some f => if s.fe.timed.hasWhole then some e else some f
    | some e, none => some e
    | none, f => f

/-- The virtual addresses that a command's execution looks up, and its ring. -/
def feAddresses : Ev → Bool × List Nat
  | .loadImem h ws => (h.timed, (chunksOf (addressAt ws 2) (ws.getD 4 0).toNat).map (·.1))
  | .presetHandle h ws => (h.timed, [addressAt ws 2])
  | .feWrite h ws => (h.timed, (chunksOf (addressAt ws 1) (4 * (ws.length - 3))).map (·.1))
  | .feWait h ws => (h.timed, [addressAt ws 2])
  | .feNop h _ => (h.timed, []) | .presetAc h _ => (h.timed, []) | .feRelease h _ => (h.timed, []) | .callIb h _ => (h.timed, [])
  | .feReturn h _ => (h.timed, []) | .fePost h _ => (h.timed, []) | .timedRelease h _ => (h.timed, []) | .feBarrier h _ => (h.timed, [])
  | _ => (false, [])
where
  addressAt (ws : List Word) (i : Nat) : Nat := (ws.getD i 0).toNat + 2 ^ 32 * (ws.getD (i + 1) 0).toNat

/-- A command needs a walk, for its own words or what they name, while another's is under way: it executes later (R205). -/
def State.feBlocked (s : State) (e : Ev) : Bool :=
  s.walkerBusy && (!(s.fe.ring (feAddresses e).1).hasWhole || s.walksWait (feAddresses e).2)

end Sys2Proof.Machine
end

