-- ==== Sys2Proof/Machine/Agenda.lean ====
section
/-! DEFINITION. The events of units that are due when a core-clock cycle begins, in the order in which they take
place (log entry 6). -/

namespace Sys2Proof.Machine

/-- Positions in a list whose members meet a test. -/
def positions {α : Type} (l : List α) (f : α → Bool) : List Nat :=
  ((List.range l.length).zip l).filterMap fun x => if f x.2 then some x.1 else none

/-- The accesses a drain covers have performed (R229, R273). -/
def drainDone (s : State) (f : Flight) : Bool :=
  match f.land with
  | .drain sc => s.quiet sc.toNat f.iss s.core.nextId
  | _ => true

/-- A drain of the lining covers its own stores, atomics and packets as well. -/
def liningDrained (s : State) (f : Flight) : Bool :=
  match f.land with
  | .drain sc => s.liningQuiet sc.toNat (s.core.nextId + 1)
  | _ => true

def isDrain (f : Flight) : Bool :=
  match f.land with
  | .drain _ => true
  | _ => false

def isXtr (f : Flight) : Bool :=
  match f.land with
  | .xtr _ _ _ => true
  | _ => false

/-! ## What is due -/

/-- One event when a condition holds. -/
def due (c : Bool) (e : Ev) : List Ev := if c then [e] else []

/-- The time-out of a timed wait. -/
def waitEvent (k : Nat) : Ev :=
  match k with | 0 => Ev.acwaitTimeout | 1 => Ev.mbTakeTimeout | _ => Ev.notchHoldTimeout

/-- A timed wait has run out at the end of the cycle before (R264). -/
def waitOver (s : State) (w : TimedWait) : Bool :=
  decide (w.since + w.limit ≤ (s.ptime - 5) / 9) && !w.expired

/-- Arrivals that come in this cycle, and those that do not yet: a free choice for each whose time has come. -/
def ripe (s : State) : List Ev × List (Nat × Ev) :=
  let numbered := (List.range s.wires.length).zip s.wires
  let comes := fun (x : Nat × Nat × Ev) =>
    decide (x.2.1 ≤ s.clock) && Config.freeBit (s.free * 2 ^ 64 + 2 ^ 60 + x.1)
  ((numbered.filter comes).map fun x => x.2.2, (numbered.filter fun x => !comes x).map fun x => x.2)

/-- Commands of an engine that may end in this cycle: a free choice for each (R246, R252). -/
def mayEnd (s : State) (e : Engine) (f : Running → Bool) : List Nat :=
  (s.running.filter fun r => r.cmd.engine == e && f r &&
    Config.freeBit (s.free * 2 ^ 64 + 2 ^ 59 + r.cmd.id)).map fun r => r.cmd.id

/-- Nothing of an engine runs on after this cycle's ends. -/
def freesUp (s : State) (e : Engine) : Bool :=
  s.running.all fun r => r.cmd.engine != e || match r.due with | some d => decide (d ≤ s.clock) | none => false

/-- An engine takes a command in this cycle. The matrix engine and the clause array take one as soon as they are free, in the
cycle in which the command before it ends (R235, R352); when the others do is a free choice (R391). -/
def mayStart (s : State) (e : Engine) : Bool :=
  (s.core.startable e).isSome &&
    match e with
    | .matrix => freesUp s .matrix
    | .clause => freesUp s .clause
    | .copy => Config.freeBit (s.free * 2 ^ 64 + 2 ^ 58)
    | .shuttle => Config.freeBit (s.free * 2 ^ 64 + 2 ^ 58 + 1)
    | .outbox => Config.freeBit (s.free * 2 ^ 64 + 2 ^ 58 + 2)

/-- Commands whose cycles have run out. -/
def ended (s : State) (e : Engine) : List Nat :=
  (s.running.filter fun r => r.cmd.engine == e &&
    (match r.due with | some d => decide (d ≤ s.clock) | none => false)).map fun r => r.cmd.id

/-- Events of the engines. -/
def engineEvents (s : State) : List Ev :=
  List.flatten [
    (mayEnd s .copy fun _ => true).map Ev.copyCommandComplete,
    (ended s .matrix).map fun n => Ev.matrixCommandComplete n ⟨false, []⟩,
    (mayEnd s .shuttle fun r => !r.srcRead).map Ev.shuttleSourceRead,
    (ended s .clause).map fun n => Ev.clauseCommandComplete n .none,
    due (mayStart s .copy) (Ev.engineCommandStart .copy),
    due (mayStart s .matrix) (Ev.engineCommandStart .matrix),
    due (mayStart s .shuttle) (Ev.engineCommandStart .shuttle),
    due (mayStart s .clause) (Ev.engineCommandStart .clause),
    due (mayStart s .outbox) (Ev.engineCommandStart .outbox),
    due ((s.running.any fun r => r.cmd.engine == .outbox && r.left == 1) && Config.freeBit (s.free * 2 ^ 64 + 2 ^ 58 + 3))
      Ev.packetSend,
    due (!s.packets.isEmpty && Config.freeBit (s.free * 2 ^ 64 + 2 ^ 58 + 4)) Ev.thimblePacket]

/-- Stores of the core that perform as the cycle begins (R188, R216, R241): before any engine starts (R271). -/
def storeEvents (s : State) : List Ev :=
  due (s.drains.any fun g => decide (g.local_ < s.run)) Ev.tackBufferDrain ++
    due ((s.core.mcast.any fun g => decide (g.due < s.clock)) || s.casts.any fun g => decide (g.due < s.clock))
      Ev.multicastLanding ++
    due (s.core.flights.any fun f => isXtr f && decide (f.due < s.run)) Ev.xtrOutLanding

/-- Events of the core itself. -/
def coreEvents (s : State) : List Ev :=
  List.flatten [
    due ((s.clock - s.lin.since) % 256 == 0) Ev.shareWindow,
    due (decide (2 ^ s.lin.wdexp.toNat ≤ s.hold.wdog)) Ev.replyWatchdogExpiry,
    due (decide (2 ^ (s.lin.wdexp.toNat + 8) ≤ s.hold.len) && !s.hold.alerted) Ev.freezeAlert,
    due (s.core.ists.any fun w => decide (w.due ≤ s.run)) Ev.istWritePerform,
    (positions s.core.flights fun f => f.late && isDrain f && drainDone s f).map fun n => Ev.drainAck (2 * n),
    (positions s.lin.flights fun f => f.late && liningDrained s f).map fun n => Ev.drainAck (2 * n + 1),
    (positions s.core.flights fun f => f.late && !isDrain f && f.upset != Upset.drop &&
      Config.freeBit (s.free * 2 ^ 64 + f.reader)).map Ev.replyArrival,
    due ((s.xlate.walks.any (·.ended.isNone)) && Config.freeBit (s.free * 2 ^ 64 + 2 ^ 58 + 5))
      Ev.walkComplete,
    due (match s.rewind with | some r => decide (r.until_ ≤ s.clock) | none => false) Ev.rewindEnd,
    (s.hold.waits.filter (waitOver s)).map fun w => waitEvent w.kind]

/-- The lining enters its next event (R149). -/
def liningEntry (s : State) : List Ev :=
  due (!(s.lin.serving || s.lin.stopped || s.lin.pend.isEmpty)) Ev.liningEventEntry

/-- Late limits that have run out (R306). -/
def lateEvents (s : State) : List Ev :=
  (s.groups.filter fun g => g.pending.any fun i => decide (i.since + g.late ≤ s.ptime / 9)).map fun g => Ev.lateLimitExpiry g.gid

/-- The address in the multicast window of a die of a scratchpad byte of the cores of a mask (R179). -/
def windowAddr (die : Nat) (mask : BitVec 16) (o : Nat) : Nat := physical 3 die (mask.toNat * 2 ^ 21 + o % 2 ^ 21)

/-- Accesses of the core on some physical ranges, or through a multicast handle that names a core, are in flight (R211,
step 3): register accesses, stores that have not reached memory, and transfers that have started. -/
def State.inFlight (s : State) (ranges : List (Nat × Nat)) : Bool :=
  let hit := fun (a : Nat) => ranges.any fun r => decide (r.1 ≤ a ∧ a < r.1 + r.2)
  let flying := fun (f : Flight) => match f.land with
    | .load _ acc => acc.any fun x => hit x.addr
    | .atomic _ op => hit op.addr
    | _ => false
  let gate := fun (g : Gate) => g.cells.any fun c => hit c.1
  let cmd := fun (c : Cmd) => match c.op with
    | .copyTile h o _ => hit (h.pbase.toNat + o.toNat)
    | .copyDesc _ _ _ => true
    | .thimble _ h o _ => hit (h.pbase.toNat + o.toNat)
    | .clause _ o h => h.valid && hit (h.pbase.toNat + o.toNat)
    | _ => false
  s.core.flights.any flying || s.lin.flights.any flying || s.drains.any gate || s.lin.stores.any gate ||
    (match s.core.panel with | some p => p.gates.any gate | none => false) ||
    (s.core.mcast.any fun m => m.cells.any fun c => hit (windowAddr m.die m.mask c.1)) ||
    (s.casts.any fun m => m.cells.any fun c => hit (windowAddr s.ownDie m.mask c.1)) || s.running.any fun r => cmd r.cmd

/-- Multicast stores that name a core of this die are under way. -/
def State.castsTo (s : State) (k : Nat) : Bool :=
  (s.core.mcast.any fun m => m.die == s.ownDie && m.mask.getLsbD k) || s.casts.any fun m => m.mask.getLsbD k

/-- A clause command of this core runs on an instance: that which is bound to it, failed or not, or that which it binds. -/
def State.clauseRuns (s : State) (i : Nat) : Bool :=
  let held := (s.clause.inst.toArray.getD i (ClauseInst.empty .free)).binding.holder == some s.id.core
  s.running.any fun r => match r.cmd.op with
    | .clause 0 v _ => held || (v.toNat / 4 % 2 == 0 && v.toNat % 4 == i)
    | .clause _ _ _ => held
    | _ => false

/-- The operation of clause window i is over: it waits for the instance's command, then takes its cycles; one that fails ends
at a free time (R354; log entry 34). -/
def State.windowOver (s : State) (i : Nat) (free : Bool) : Bool :=
  match s.clause.win.toArray[i]? with
  | some w => w.busy && !s.clauseRuns i && decide (w.since + w.cycles ≤ s.clock) && (w.cycles != 0 || free)
  | none => false

/-- Units of the die that have something to do: invalidations, the context port, wipes, scrubbers (R200, R201, R211). -/
def dieEvents (s : State) : List Ev :=
  let free := fun (n : Nat) => Config.freeBit (s.free * 2 ^ 64 + 2 ^ 58 + n)
  List.flatten [
    due (((s.inval.busy && !s.inFlight s.inval.ranges) || s.closing.any fun k => !s.castsTo k) && free 6) Ev.invalidationComplete,
    due (s.port.busy && decide (s.port.due ≤ s.clock) && !(s.port.restore && s.walkerBusy) && free 7) Ev.contextPortDone,
    due (!s.wipes.isEmpty && free 8) Ev.wipeComplete,
    ((List.range 4).filter fun i => s.windowOver i (free (16 + i))).map fun i => Ev.clauseWindowDone (BitVec.ofNat 2 i),
    ((List.range 68).filter fun c => decide (leNat (cellsRead s.reg6.cells (0x500000 + 8 * c) 8) / 2 ^ 63 = 1) && free (32 + c)).map
      fun c => Ev.scrubLine (BitVec.ofNat 7 c) 0]

/-- The station's events: frames, beacons, bounced slots (R285, R287, R292). Whether the other neighbour of a silent die has
heard its beacon is a free choice. -/
def fabricEvents (s : State) : List Ev :=
  List.flatten [
    due (s.ptime / 360 != s.fabric.frame) Ev.frameStart,
    due (s.ptime / 9000 != s.fabric.beat) (Ev.healthBeacon s.id.die),
    (s.fabric.seen.filter fun x => decide (x.2 + 4000 ≤ s.ptime / 9) && !s.deadDies.contains x.1 &&
      Config.freeBit (s.free * 2 ^ 64 + 2 ^ 61 + 2 ^ 60 + x.1)).map fun x =>
      Ev.beaconTimeout (BitVec.ofNat 10 x.1),
    (positions s.fabric.bounces fun b => match b.due with | some d => decide (d ≤ s.clock) | none => false).map Ev.bounceResend]

/-- What a ring that waits has to do. -/
def waitingEvents (s : State) (timed : Bool) : List Ev :=
  match (s.fe.ring timed).wait with
  | none => []
  | some w =>
    let tick := s.ptime / 9000 != w.polled
    List.flatten [
      match w.what with
      | .cores _ => [Ev.waitPoll timed]
      | .word va _ _ => due (tick && !s.walksWait [va.toNat]) (Ev.waitPoll timed)
      | .post _ _ => due tick (Ev.postRetry timed)
      | .release l => due (decide (l.time ≤ s.ptime / 9)) Ev.timedReleaseFire
      | .barrier _ _ _ => [],
      due (w.limit != 0 && decide (w.since + 1000 * w.limit ≤ s.ptime / 9)) (Ev.feTimeout timed)]

/-- The front end's events (R372 to R374): when it takes its next command is a free choice. -/
def frontEvents (s : State) : List Ev :=
  waitingEvents s true ++ waitingEvents s false ++
    (if Config.freeBit (s.free * 2 ^ 64 + 2 ^ 58 + 9) then (match s.feNext with | some e => due (!s.feBlocked e) e | none => []) else [])

/-- Everything due as a cycle begins. -/
def dueEvents (s : State) : List Ev :=
  storeEvents s ++ engineEvents s ++ coreEvents s ++ lateEvents s ++ dieEvents s ++ fabricEvents s ++ frontEvents s ++ liningEntry s

end Sys2Proof.Machine
end

