-- ==== Sys2Proof/Machine/Ops.lean ====
section
/-! DEFINITION. The operations that meanings share: reading registers, sending results on their way, freezing,
trapping, rolling back, committing, and returning from a trap. -/

namespace Sys2Proof.Machine

/-! ## The context that issues -/

/-- What the bundle in progress of the issuing context has called for. -/
def State.iss (s : State) : Issue :=
  match s.ctx with | .main => s.core.iss | .lining => s.lin.iss

def State.setIss (s : State) (i : Issue) : State :=
  match s.ctx with
  | .main => { s with core := { s.core with iss := i } }
  | .lining => { s with lin := { s.lin with iss := i } }

def State.bundle (s : State) : Bundle :=
  match s.ctx with | .main => s.core.bundle | .lining => s.lin.bundle

/-- The slot and cluster that executes: in the lining always slot 0 (R56). -/
def State.slot (s : State) : Cl :=
  match s.ctx with | .main => s.core.slot | .lining => 0

/-- The word of the slot that executes. -/
def State.opword (s : State) : Word := s.bundle.words[s.slot.val]'s.slot.isLt

def State.isMain (s : State) : Bool := s.ctx == .main

/-! ## Reading registers -/

def State.rs (s : State) (i : BitVec 5) : Dword :=
  match s.ctx with
  | .main => (s.core.regs.cluster s.core.slot).rs i
  | .lining => if i = 0 then 0 else vget (k := 5) s.lin.s i

def State.rp (s : State) (i : BitVec 3) : Bool :=
  match s.ctx with
  | .main => (s.core.regs.cluster s.core.slot).rp i
  | .lining => if i = 0 then true else vget (k := 3) s.lin.p i

def State.rm (s : State) (i : BitVec 3) : Mask := (s.core.regs.cluster s.core.slot).rm i

def State.rv (s : State) (d : BitVec 5) : Vec := s.core.regs.rv s.core.slot d

def State.ra (s : State) (i : BitVec 4) : Dword :=
  match s.ctx with | .main => s.core.regs.ra i | .lining => vget (k := 4) s.lin.a i

def State.rh (s : State) (i : BitVec 4) : Handle :=
  match s.ctx with | .main => s.core.regs.rh i | .lining => vget (k := 4) s.lin.h i

/-! ## Widened fields (R21) -/

/-- The extension of the slot that executes and its width: 8 bits under a header of kind 0, 6 under kind 1,
none without a header, in slot 0, or under an agreement header. -/
def extensionOf (header : Option Word) (agreement : Bool) (k : Nat) : Nat × Nat :=
  match header with
  | none => (0, 0)
  | some h =>
    if k = 0 || agreement then (0, 0)
    else if h.getLsbD 24 then (h.toNat / 2 ^ (6 * (k - 1)) % 64, 6)
    else (h.toNat / 2 ^ (8 * (k - 1)) % 256, 8)

/-- Majors and minors of an agreed branch in slot 0: agr and agv (R20, R311). -/
def isAgreed (w : Word) : Bool := w.toNat / 2 ^ 25 % 64 == 0x12 && (w.toNat / 2 ^ 24 % 2 == 0 || w.toNat / 2 ^ 22 % 4 == 0)

def State.extension (s : State) : Nat × Nat :=
  extensionOf s.bundle.header (isAgreed (s.bundle.words[0])) s.slot.val

/-- A widenable field of n bits read as signed, sign-extended to 64 bits. -/
def State.signedField (s : State) {n : Nat} (f : BitVec n) : Dword :=
  let e := s.extension
  sext64 (n + e.2) (e.1 * 2 ^ n + f.toNat)

/-- A widenable field read as unsigned, and the widened field's width. -/
def State.plainField (s : State) {n : Nat} (f : BitVec n) : Nat × Nat :=
  let e := s.extension
  (e.1 * 2 ^ n + f.toNat, n + e.2)

/-! ## What a slot operation calls for -/

/-- The result of the operation lands in `lat` running cycles (R42). -/
def State.emit (s : State) (lat : Nat) (land : Landing) (chk : Checked := .no) (late : Bool := false) : State :=
  match s.ctx with
  | .main =>
      { s with core := { s.core with flights := s.core.flights ++
          [{ due := s.run + lat, iss := s.run, baddr := s.core.bundle.addr, slot := s.core.slot, word := s.opword,
             land := land, chk := chk, upset := .none, raw := none, late := late }] } }
  | .lining =>
      { s with lin := { s.lin with flights := s.lin.flights ++
          [{ due := s.lin.cyc + lat, iss := s.lin.cyc, baddr := s.lin.bundle.addr, slot := 0, word := s.opword,
             land := land, chk := chk, upset := .none, raw := none, late := late }] } }

/-- A bundle held under one more freeze cause (R45): the lowest names the freeze. -/
def Issue.held (i : Issue) (c : Nat) : Issue :=
  { i with hold := some (match i.hold with | some d => min c d | none => c), causes := i.causes ++ [c] }

/-- The bundle is held at issue under a freeze cause. -/
def State.holdOn (s : State) (c : Nat) : State := s.setIss (s.iss.held c)

/-- Adds a trap to those of the bundle: the lowest cause is kept, and its slots are gathered (R151). Of several slots
that raise it, DETAIL and CODE are those of the lowest (DESIGN CHOICE; log entry 58). -/
def mergeTrap (old : Option TrapRec) (t : TrapRec) : TrapRec :=
  match old with
  | none => t
  | some o =>
    if o.cause < t.cause then o
    else if t.cause < o.cause then t
    else { o with smask := o.smask ||| t.smask }

def slotBit (k : Cl) : BitVec 4 := BitVec.ofNat 4 (2 ^ k.val)

/-- The operation raises a trap with a code (R148); the lining has lining faults instead (R152). -/
def State.trapCoded (s : State) (cause : Nat) (code : BitVec 10) (detail : Dword) : State :=
  let i := s.iss
  s.setIss { i with trap := some (mergeTrap i.trap
    { cause := cause, smask := slotBit s.slot, reason := 0, code := code, detail := detail }) }

def State.trapOn (s : State) (cause : Nat) (detail : Dword) : State := s.trapCoded cause 0 detail

/-- The illegal-operand trap (cause 4) with a DETAIL. -/
def State.illegalOperand (s : State) (detail : Dword) : State := s.trapOn 4 detail

/-- The instruction-address trap (cause 3) with the address (R80). -/
def State.illegalTarget (s : State) (a : Dword) : State := s.trapOn 3 a

/-- Adds a rollback trigger: the earlier-issued operation is recorded; of one bundle, the lowest slot whose result failed,
with every such slot in SMASK (R162). -/
def mergeTrigger (old : Option Trigger) (t : Trigger) : Trigger :=
  match old with
  | none => t
  | some o =>
    let first := if t.iss < o.iss ∨ (t.iss = o.iss ∧ t.slot < o.slot) then t else o
    { first with smask := if t.iss = o.iss then o.smask ||| t.smask else first.smask,
                 lost := o.lost ++ t.lost, lines := o.lines ++ t.lines }

def State.triggerOn (s : State) (t : Trigger) : State :=
  let i := s.iss
  s.setIss { i with trigger := some (mergeTrigger i.trigger t) }

/-- A rollback trigger of the operation that executes (R159), such as a handle fault. -/
def State.triggerHere (s : State) (cause : Nat) (addr detail info : Dword) : State :=
  s.triggerOn { cause := cause, smask := slotBit s.slot, slot := s.slot, lane := 0, exp := 0, obs := 0,
                word := s.opword, baddr := s.bundle.addr, addr := addr, detail := detail, info := info,
                iss := s.run, lost := [], lines := [] }

/-- The operation issued with a true predicate (R120). -/
def State.markLive (s : State) : State :=
  let i := s.iss
  s.setIss { i with live := i.live ||| slotBit s.slot }

/-- A sum of handle base and offset, checked in the issue cycle (R164). -/
def State.noteSum (s : State) (lane : Option Nat) (sum : Nat) : State :=
  let i := s.iss
  s.setIss { i with sums := i.sums ++ [(s.slot, lane, sum)] }

/-- Runs an operation under its predicate (R28). -/
def State.guarded (s : State) (p : BitVec 3) (f : State → State) : State :=
  if s.rp p then f s.markLive else s

/-- Sets the flow of the bundle. -/
def State.flowTo (s : State) (f : Flow) : State :=
  let i := s.iss
  s.setIss { i with flow := f }

/-! ## Health and lining events -/

/-- An event for the lining, entered at an address of its store (R149). A second one of a kind replaces the
first and is counted; the list stays in order of entry addresses. -/
def insertEvent (l : List LinEvent) (e : LinEvent) : List LinEvent :=
  (l.filter fun x => decide (x.entry < e.entry)) ++ [e] ++ (l.filter fun x => decide (e.entry < x.entry))

def State.tellLining (s : State) (e : LinEvent) : State :=
  let s := if s.lin.pend.any (fun x => x.entry == e.entry) then s.count 149 else s
  { s with lin := { s.lin with pend := insertEvent s.lin.pend e } }

/-- An event of the table of R149. -/
def State.liningEvent (s : State) (kind : Nat) (detail : Nat) : State :=
  s.tellLining { entry := 0x400 + 0x40 * kind, detail := BitVec.ofNat 52 detail }

/-! ## Time -/

/-- Package time in whole nanoseconds (R294). -/
def State.ptimeNs (s : State) : Nat := s.ptime / 9

/-- The vault that an access still has to read (R179), by its number in the domain; its read point may lie before its due
cycle (R268). -/
def vaultKey (f : Flight) : Option Nat :=
  let key := fun (a : Nat) => if f.raw.isNone && regionOf a == 1 then some (a / 2 ^ 28) else none
  match f.land with
  | .load _ (x :: _) => key x.addr
  | .atomic _ op => key op.addr
  | _ => none

def isAtomic (f : Flight) : Bool := match f.land with | .atomic _ _ => true | _ => false

/-- A load reads its bytes of memory now. -/
def readNow (s : State) (f : Flight) : Flight :=
  match f.land, f.raw with
  | .load _ acc, none => { f with raw := some (sampleBytes s acc) }
  | _, _ => f

/-- The vault accesses of a cycle in issue order: the state, the state before the atomics of the bundle in hand, that
bundle, the accesses done with, and vaults where no access of another bundle may follow in this cycle, or none at all. -/
structure Sampling where
  s    : State
  base : State
  iss  : Nat
  out  : List Flight
  shut : List (Nat × Option Nat)

/-- One access on its way reads its vault in this cycle, or does not yet: a free choice (R268). Those of one core to one
vault read in issue order (R183), and of one bundle every read comes before every perform (R268). -/
def sampleStep (x : Sampling) (f : Flight) : Sampling :=
  let x := if f.iss = x.iss then x else { x with base := x.s, iss := f.iss }
  match vaultKey f with
  | none => { x with out := x.out ++ [f] }
  | some v =>
    let shut := x.shut.any fun y => y.1 == v && y.2 != some f.iss
    if shut || !Config.freeBit (x.s.free * 2 ^ 64 + 2 ^ 57 + 2 ^ 56 + x.out.length) then
      { x with out := x.out ++ [f], shut := (v, none) :: x.shut }
    else if isAtomic f then
      let r := settleAtomic x.s f
      { x with s := r.1, out := x.out ++ [r.2], shut := (v, some f.iss) :: x.shut }
    else { x with out := x.out ++ [readNow x.base f] }

/-- The vault accesses under way whose read point is this cycle read (R268). -/
def State.sampleVaults (s : State) : State :=
  let r := s.core.flights.foldl sampleStep { s := s, base := s, iss := 0, out := [], shut := [] }
  { r.s with core := { r.s.core with flights := r.out } }

/-! ## The lining's stores (R268, R270) -/

/-- A store of the lining that performs: to region 6 it is the steps of its register; in region 5 a routine slot takes it as a
packet (R297), and a reserved offset discards it (R296); elsewhere its bytes reach memory. -/
def State.performLining (s : State) (g : Gate) : State :=
  match g.cells with
  | [] => s
  | c :: _ =>
    let v := leNat (g.cells.map (·.2))
    match regionOf c.1 with
    | 6 =>
      if offsetOf c.1 < 2 ^ 24 then { s with agenda := s.agenda ++ s.regEvents .lining (offsetOf c.1) g.cells.length v } else s.count 381
    | 5 =>
      let a := BitVec.ofNat 52 c.1
      let o := offsetOf c.1 % 2 ^ 15
      if 2 ^ 22 ≤ offsetOf c.1 ∨ 68 ≤ offsetOf c.1 / 2 ^ 15 ∨ 0x3000 ≤ o then s
      else if o < 0x1000 then s.engineStore [g.cells] []
      else
        { s with packets := s.packets ++
            [{ id := s.core.nextId, sdie := s.id.die, score := s.id.core, part := s.id.part, op := 12, addr := a, base := a, size := g.cells.length, cls := 0,
               ctl := 0, data := [BitVec.ofNat 64 v] }] }
    | _ => s.engineStore [g.cells] []

/-- A store through h12 or h13 (R182). -/
def isRegisterStore (g : Gate) : Bool := match g.cells with | c :: _ => 5 ≤ regionOf c.1 | [] => false

/-- A load of the lining through h12 or h13. -/
def isRegisterLoad (f : Flight) : Bool :=
  match f.land with | .load _ (x :: _) => f.raw.isNone && 5 ≤ regionOf x.addr | _ => false

/-- Loads of the lining that issued before a store, one of the two being through h12 or h13, read before it performs
(R182). -/
def State.readBefore (s : State) (g : Gate) : State :=
  s.lin.flights.foldl (fun s f =>
    if f.iss < g.iss && f.raw.isNone && (isRegisterStore g || isRegisterLoad f) then
      match f.land with
      | .load _ acc =>
        let r := s.liningBytes acc
        { r.1 with lin := { r.1.lin with flights := r.1.lin.flights.map fun x =>
            if x.iss = f.iss then { x with raw := some r.2 } else x } }
      | _ => s
    else s) s

/-- A store of this core's lining to a routine slot has not been served. -/
def State.storesRoutine (s : State) : Bool := s.packets.any (slotStore s.id)

/-- The lining's stores whose cycle this is perform. One through h12 or h13 keeps its place among the others (R182). -/
def liningStep (acc : State × List Gate) (g : Gate) : State × List Gate :=
  let waits := if isRegisterStore g then !acc.2.isEmpty else acc.2.any isRegisterStore
  if acc.1.clock < g.local_ || waits || acc.1.storesRoutine then (acc.1, acc.2 ++ [g])
  else ((acc.1.readBefore g).performLining g, acc.2)

def State.performLiningStores (s : State) : State :=
  let r := s.lin.stores.foldl liningStep (s, [])
  { r.1 with lin := { r.1.lin with stores := r.2 } }

/-- A load or atomic that has not read. -/
def readsMemory (f : Flight) : Bool :=
  match f.land with | .load _ _ => f.raw.isNone | .atomic _ _ => f.raw.isNone | _ => false

/-- A load or atomic of the lining that an earlier store keeps back, one of the two being through h12 or h13 (R182). -/
def State.liningBlocked (s : State) (f : Flight) : Bool :=
  readsMemory f && (s.storesRoutine ||
    s.lin.stores.any fun g => decide (g.iss < f.iss) && (isRegisterStore g || isRegisterLoad f))

/-! ## Package time (R295) -/

/-- Package time after a core-clock cycle of 5/9 ns (R1): a correction slews it by 100 ppm at most, which is 500
millionths of a ninth of a nanosecond in a cycle; in holdover the last rate goes on. -/
def State.tick (s : State) : State :=
  let t := s.time
  let rate := if t.holdover then t.rate else if t.corr < -500 then -500 else if 500 < t.corr then 500 else t.corr
  let frac := t.frac + rate
  let whole := frac / 1000000
  { s with
    clock := s.clock + 1, ptime := (s.ptime + 5 + whole).toNat,
    time := { t with corr := if t.holdover then t.corr else t.corr - rate, frac := frac - whole * 1000000, rate := rate } }

/-- The main context's running cycle goes on in the next core-clock cycle: it is frozen, or the lining took this one (R45,
R57). -/
def State.stalls (s : State) : Bool :=
  s.hold.cause != 0 && s.rewind.isNone && match s.status with | .running => true | .halting _ => true | _ => false

/-- A core-clock cycle ends: time advances, and what is due is put on the agenda. -/
def State.endCycle (s : State) : State :=
  let s := s.sampleVaults.sendPart.performLiningStores.tick
  let s := { s with
    fe := { s.fe with normal := s.prefetched false, timed := s.prefetched true },
    ctx := .main, free := s.free + 1, arrivals := [], earlier := if s.stalls then s.earlier ++ s.arrivals else [] }
  { s with agenda := s.agenda ++ dueEvents s ++ (ripe s).1, wires := (ripe s).2 }

/-- The die is held in reset: its wipe is not over, or a recovery frame has reset it and the GPM has not readmitted it (R378,
R388). -/
def State.heldInReset (s : State) : Bool :=
  let pads := physical 2 s.ownDie 0
  s.fabric.resets.contains s.ownDie || s.wipes.any fun w => decide (w.1 ≤ pads ∧ pads + 2 ^ 25 ≤ w.1 + w.2)

/-- The lining has a bundle to issue (R57, R149), its die out of reset; a drain of its own that is not acknowledged holds it (R229), and so does an
access that must wait for an earlier store (R182). -/
def State.liningReady (s : State) : Bool :=
  !s.heldInReset && s.lin.serving && !s.lin.stopped && !s.lin.flights.any fun f => (f.late || s.liningBlocked f) && decide (f.due ≤ s.lin.cyc)

/-- The lining may take a charged cycle in this window (R58, R118), but not before the bundle that follows an eret (R117).
It takes one wherever it may (DESIGN CHOICE; log entry 63). -/
def State.mayCharge (s : State) : Bool :=
  !s.lin.yielded && decide (s.lin.charge < s.lin.shareNow.toNat) && !s.hold.resumed

/-- The main context leaves idle: its next bundle issues before any charged lining cycle (R85). -/
def State.wake (s : State) : State := { s with status := .running, hold := { s.hold with resumed := true } }

/-- Waits of the lining, whose operation is known as slot 4: what the main context does leaves them. -/
def State.liningWaits (s : State) : List TimedWait := s.hold.waits.filter fun w => w.slot == 4
def State.mainWaits (s : State) : List TimedWait := s.hold.waits.filter fun w => w.slot != 4

/-! ## Taking a trap -/

def trapinfoWord (t : TrapRec) (baddr : BitVec 17) : Dword :=
  BitVec.ofNat 64 (t.cause * 2 ^ 56 + t.smask.toNat * 2 ^ 52 + t.reason * 2 ^ 49 + t.code.toNat * 2 ^ 39 + baddr.toNat)

/-- Taking a trap of the main context (R148 to R151, R49): TRAPINFO is written, the context stops in place, its
group ends (R16), and the lining is entered at 0x40 × CAUSE. SMASK is 0 for a cause that names no slot (DESIGN CHOICE;
log entry 58). -/
def State.takeTrap (s : State) (t : TrapRec) (baddr : BitVec 17) : State :=
  let y := s.sys
  let s := { s with
    core := { s.core with group := [], iss := Issue.start, slot := 0, landed := false },
    status := .trapped,
    hold := Hold.start 9 s.liningWaits,
    sys := { y with
      trapinfo0 := trapinfoWord t baddr, trapinfo1 := t.detail,
      engine := if t.cause = 14 then none else y.engine,
      holds := if t.cause = 12 then y.holds.filter (fun h => decide (t.detail.toNat ≤ h.passed.toNat)) else y.holds } }
  s.tellLining { entry := 0x40 * t.cause, detail := 0 }

/-! ## Panels -/

/-- Distinct lines that stores touch (R157). -/
def gateLines (gs : List Gate) : List Nat := dedup ((gs.flatMap (·.cells)).map fun c => lineOf c.1)

def Cmd.release (limit : Nat) (c : Cmd) : Cmd := if c.id < limit then { c with held := false } else c

/-- Commits the open panel: gated stores perform in order and commands with an identifier below the limit are
released (R153, R156, R157). -/
def State.commitPanel (s : State) (limit : Nat) : State :=
  let gates := match s.core.panel with | some p => p.gates | none => []
  let c := s.core
  { s.flow with
    core := { s.flow.core with
      panel := none,
      copyQ := c.copyQ.map (Cmd.release limit), matrixQ := c.matrixQ.map (Cmd.release limit),
      shuttleQ := c.shuttleQ.map (Cmd.release limit), outboxQ := c.outboxQ.map (Cmd.release limit),
      clauseQ := c.clauseQ.map (Cmd.release limit),
      spool := c.spool.map fun x => if x.id < limit then { x with held := false } else x },
    drains := s.flow.drains ++ gates.map fun g => { g with commit := s.run } }

/-- A panel opens with an entry address and entry registers (R153). -/
def newPanel (pc : BitVec 17) (r : Regs) : Panel :=
  { entryPc := pc, entry := r, irrev := false, retry := 0, eaten := [], gates := [], replay := false }

/-- The panel that a mark opens. When a replay begins with the mark that opened its panel, the panel is the same
one: RETRY and the lines consumed stay (DEDUCED; log entry 13). -/
def reopened (old : Option Panel) (pc : BitVec 17) (r : Regs) : Panel :=
  match old with
  | some p => if p.replay && p.entryPc == pc then { newPanel pc r with retry := p.retry, eaten := p.eaten } else newPanel pc r
  | none => newPanel pc r

/-- Stores under way that nothing undoes: ist writes perform during a rewind (R106). An ist of the bswap's own bundle is
no write that the bswap finds uncovered, and like every ist it goes to the half that is idle when it performs (DESIGN
CHOICE; log entry 61). -/
def State.performIst (s : State) (w : IstWrite) : State :=
  match s.imem.istKey w.addr with
  | some k => { s with imem := s.imem.put k (leBytes 4 w.word.toNat) }
  | none => s

/-- Empties the pipelines (R159): results are dropped, atomics already sent still perform (R158), ist writes
perform, held commands and reservations are freed. -/
def State.emptyPipelines (s : State) : State :=
  let s := s.core.flights.foldl (fun s f => (settleAtomic s f).1) s
  let s := s.core.ists.foldl State.performIst s
  let c := s.core
  let keep := fun (q : List Cmd) => q.filter fun x => !x.held
  let dropped := (c.shuttleQ.filter (·.held)).map (·.id)
  let undo := fun (x : SpoolSlot) => match x.claimed with
    | some k => if dropped.contains k then { x with claimed := none } else x
    | none => x
  { s with core := { c with
      flights := [], backs := [], ists := [],
      copyQ := keep c.copyQ, matrixQ := keep c.matrixQ, shuttleQ := keep c.shuttleQ, outboxQ := keep c.outboxQ,
      clauseQ := keep c.clauseQ, spool := (c.spool.filter fun x => !x.held).map undo } }

/-- Whether two register states have the same loop open innermost. -/
def sameLoop (r q : Regs) : Bool :=
  r.depth == q.depth &&
    (r.depth == 0 ||
      ((r.loop (r.depth - 1)).start == (q.loop (q.depth - 1)).start && (r.loop (r.depth - 1)).stop == (q.loop (q.depth - 1)).stop))

/-- Restores the panel-entry state (R155, R159). A bswap of the panel is not undone: the log holds registers, and the entry
bundle is fetched under the mapping that now holds (DESIGN CHOICE; log entry 61). -/
def State.restoreEntry (s : State) : State :=
  match s.core.panel with
  | none => s
  | some p =>
    let c := s.core
    { s with core := { c with
        regs := { p.entry with pc := p.entryPc }, panel := some { p with gates := [], irrev := false, replay := true },
        group := [], agree := none, offEnd := false, iss := Issue.start, slot := 0, landed := false,
        lbuf := if sameLoop c.regs p.entry then c.lbuf else [] } }

/-- Rewinds to the panel entry; freeze cause 9 holds until a core-clock cycle (R159). -/
def State.rewindTo (s : State) (until_ : Nat) (after : RewindAfter) : State :=
  let s := s.emptyPipelines.restoreEntry
  let cut := match s.sys.cut with | .sent _ => CutState.sent false | c => c
  { s with rewind := some { until_ := until_, after := after }, status := .running, sys := { s.sys with cut := cut },
           hold := Hold.start 9 s.liningWaits }

/-- MCINFO for a trigger (R162). -/
def State.writeMcinfo (s : State) (t : Trigger) : State :=
  let retry := match s.core.panel with | some p => p.retry | none => 0
  let entry := match s.core.panel with | some p => p.entryPc.toNat | none => 0
  let w := t.cause * 2 ^ 60 + t.smask.toNat * 2 ^ 56 + t.slot.val * 2 ^ 54 + t.slot.val * 2 ^ 52 + t.lane.toNat * 2 ^ 43
    + t.exp.toNat * 2 ^ 39 + t.obs.toNat * 2 ^ 35 + retry % 4 * 2 ^ 33 + t.word.toNat
  { s with sys := { s.sys with
      mcinfo0 := BitVec.ofNat 64 w, mcinfo1 := BitVec.ofNat 64 (entry * 2 ^ 32 + t.baddr.toNat),
      mcinfo2 := t.addr, mcinfo3 := BitVec.ofNat 64 s.ptimeNs,
      handleinfo := if t.cause = 5 then
          BitVec.ofNat 64 (t.info.toNat + s.sys.handleinfo.toNat / 2 ^ 32 % 2 ^ 16 * 2 ^ 32)
        else s.sys.handleinfo } }

/-- A trap that follows a rewind (R160, R161, R167). -/
def trapRec (cause : Nat) (detail : Dword) : TrapRec :=
  { cause := cause, smask := 0, reason := 0, code := 0, detail := detail }

/-- The core sends its partners' group a hold with its notch (R168). -/
def State.sendHold (s : State) : State :=
  let s := s.sendNote true s.sys.notch
  { s with sys := { s.sys with holdSent := true } }

/-- The open panel of the core, changed. -/
def State.mapPanel (s : State) (f : Panel → Panel) : State :=
  { s with core := { s.core with panel := s.core.panel.map f } }

/-- The trap of R158: every result of the failing operations is discarded, and the rest stays in flight. -/
def State.unreplayable (s : State) (t : Trigger) : State :=
  let kept := s.core.flights.filter fun f => !t.lost.contains (f.iss, f.slot)
  { s with core := { s.core with flights := kept } }.takeTrap (trapRec 11 0) s.core.regs.pc

/-- A rollback (R159 to R162, R167), or, in an irrevocable panel, the trap of R158. The core stands as the
trigger cycle's bundle found it. With no panel open, which is so after a halt has committed it, the core cannot rewind
either and takes that trap, from which an eret may resume it (DESIGN CHOICE; log entry 60). RETRY counts the replays that
hardware makes, and no other rewind (DEDUCED; log entry 13); a line consumed a second time while RETRY is 2 is cause 10 (DESIGN
CHOICE; log entry 72). -/
def State.rollback (s : State) (t : Trigger) : State :=
  let s := (s.writeMcinfo t).sendHold
  let ate := fun (p : Panel) => { p with eaten := t.lines.foldl setPut p.eaten }
  match s.core.panel with
  | none => s.unreplayable t
  | some p =>
    if p.irrev then (s.mapPanel ate).unreplayable t
    else
      let (after, retry) : RewindAfter × Nat :=
        if t.cause = 5 ∨ t.cause = 6 then (.trap (trapRec 8 t.detail), p.retry)
        else
          match t.lines.find? p.eaten.contains with
          | some l => (.trap (trapRec 10 (BitVec.ofNat 64 (l * 64))), p.retry)
          | none => if 2 ≤ p.retry then (.trap (trapRec 9 0), p.retry) else (.replay, p.retry + 1)
      let s := s.rewindTo (s.clock + 8) after
      s.mapPanel fun q => { ate q with retry := retry }

/-! ## Returning from a trap -/

/-- The holds that a rollback sent are released when the lining erets after its escalation, causes 8 to 11 (R169). -/
def State.releaseHolds (s : State) (cause : Nat) : State :=
  if s.sys.holdSent && decide (8 ≤ cause ∧ cause ≤ 11) then
    { s.sendNote false 0xFFFF with sys := { (s.sendNote false 0xFFFF).sys with holdSent := false } }
  else s

/-- The bundle after an address, and whether the region ends there (R81). -/
def nextBundle (a : Nat) : Nat × Bool := (a + 16, a == 0xFFF0 || a == 0x11FF0)

/-- Where eret with code 0 or 1 resumes (R110, R117), and whether that is past the end of a region, which sequential issue
does not leave (R81). -/
def State.resumeAt (s : State) (code : Nat) : Nat × Bool :=
  let cause := s.sys.trapinfo0.toNat / 2 ^ 56
  let baddr := s.sys.trapinfo0.toNat % 2 ^ 17
  let pc := s.core.regs.pc.toNat
  if s.status == .idle then (pc, s.core.offEnd)
  else if code = 0 then (baddr, false)
  else if cause = 6 then (s.sys.trapinfo1.toNat, s.core.offEnd && s.sys.trapinfo1.toNat == pc)
  else nextBundle baddr

/-- eret (R117): codes 0 and 1 resume the main context, whose next bundle issues in the cycle after; code 2 rolls it back,
and sends a hold as each rollback does (R168). The first cycle after the eret is the first of the eight of a rewind. After
cause 9, codes 0 and 2 clear RETRY (R160). The group ends (R16). Answers none where the resume address is no bundle
address (R80). -/
def State.resume (s : State) (code : Nat) : Option State :=
  let cause := s.sys.trapinfo0.toNat / 2 ^ 56
  let again := fun (s : State) =>
    if s.status != .idle && cause == 9 then s.mapPanel fun p => { p with retry := 0 } else s
  if code = 2 then some ((again (s.releaseHolds cause)).sendHold.rewindTo (s.clock + 9) .replay)
  else
    let at_ := s.resumeAt code
    if fetchable at_.1 then
      let t := s.releaseHolds cause
      let t := if code = 0 then again t else t
      some { t with
        status := .running, hold := { t.hold with cause := 0, resumed := true },
        core := { t.core with group := [], offEnd := at_.2, regs := { t.core.regs with pc := BitVec.ofNat 17 at_.1 } } }
    else none

/-! ## The sequencer -/

/-- The sequencer after a bundle at an address: registers with pc and loop stack, the levels that loop back,
whether the region ended, whether the group ends, whether a loop level changed. Levels are tested from the
innermost outward (R52, R101). -/
structure Seq where
  regs  : Regs
  back  : Option Nat
  off   : Bool
  brk   : Bool
  moved : Bool

def loopEnd (r : Regs) (addr : Nat) : Nat → Bool → Seq
  | 0, moved =>
    let n := nextBundle addr
    { regs := { r with pc := BitVec.ofNat 17 n.1 }, back := none, off := n.2, brk := false, moved := moved }
  | d + 1, moved =>
    let l := r.loop d
    if l.valid && l.stop.toNat == addr / 16 then
      if l.count = 0 then loopEnd (r.setLoop d { l with valid := false }) addr d true
      else
        { regs := { r.setLoop d { l with count := l.count - 1, index := l.index + 1 } with
                      pc := BitVec.ofNat 17 (l.start.toNat * 16) },
          back := some d, off := false, brk := true, moved := moved }
    else
      let n := nextBundle addr
      { regs := { r with pc := BitVec.ofNat 17 n.1 }, back := none, off := n.2, brk := false, moved := moved }

/-- Where the sequencer goes after a bundle that commits (R52, R95 to R102). -/
def sequence (r : Regs) (addr : Nat) (f : Flow) : Seq :=
  let goto := fun (r : Regs) (t : Nat) (brk moved : Bool) =>
    ({ regs := { r with pc := BitVec.ofNat 17 t }, back := none, off := false, brk := brk, moved := moved } : Seq)
  match f with
  | .none => loopEnd r addr r.depth false
  | .jump t => goto r t true false
  | .bswap t => goto r t true false
  | .arm t => goto r t true false
  | .lbrk =>
    let d := r.depth - 1
    let l := r.loop d
    let n := nextBundle (l.stop.toNat * 16)
    { regs := { r.setLoop d { l with valid := false } with pc := BitVec.ofNat 17 n.1 }, back := none, off := n.2,
      brk := true, moved := true }
  | .openLoop stop count =>
    goto (r.setLoop r.depth { valid := true, start := BitVec.ofNat 16 (addr / 16 + 1), stop := stop,
                              count := count, index := 0 }) (addr + 16) false true
  | .skip e =>
    let n := nextBundle e
    { regs := { r with pc := BitVec.ofNat 17 n.1 }, back := none, off := n.2, brk := false, moved := false }

/-- The loop buffer after a bundle issued: it captures the body of the innermost open level during its first iteration,
where that body is 64 bundles or fewer (R54). -/
def capture (lbuf : List (BitVec 17 × Vector Word 4)) (r : Regs) (b : Bundle) : List (BitVec 17 × Vector Word 4) :=
  if r.depth = 0 then lbuf
  else
    let l := r.loop (r.depth - 1)
    let n := b.addr.toNat / 16
    if l.index = 0 ∧ l.start.toNat ≤ n ∧ n ≤ l.stop.toNat ∧ l.stop.toNat - l.start.toNat < 64 ∧ !(lbuf.any fun x => x.1 == b.addr)
    then lbuf ++ [(b.addr, b.words)] else lbuf

/-! ## Injection -/

/-- Result of matching INJECT against a bundle's operations (R120): the register afterwards, and what fires. -/
def injectSlots (words : Vector Word 4) (live : BitVec 4) (inj : Nat) : Nat → Nat × Option (Cl × Nat)
  | 0 => (inj, none)
  | n + 1 =>
    let r := injectSlots words live inj n
    let inj := r.1
    let w := (words.toArray.getD n 0).toNat
    let matches_ := inj / 2 ^ 63 % 2 == 1 && live.getLsbD n && inj / 2 ^ 54 % 4 == n && inj / 2 ^ 39 % 64 == w / 2 ^ 25 % 64 &&
      (inj / 2 ^ 38 % 2 == 0 || inj / 2 ^ 34 % 16 == w % 16) && !(w / 2 ^ 25 % 64 == 1 && w % 16 == 1)
    if matches_ then
      let c := inj % 2 ^ 32
      if c ≤ 1 then (inj - c - 2 ^ 63, some (BitVec.toFin (BitVec.ofNat 2 n), inj))
      else (inj - 1, r.2)
    else r

/-- Whether a slot has a shd beside it (R83). -/
def shadowed (words : Vector Word 4) (k : Cl) : Bool :=
  let w := (words.toArray.getD (k.val + 1) 0).toNat
  decide (k.val < 3) && w / 2 ^ 25 % 64 == 1 && w % 16 == 1

/-- Elements of `bits` bits that a 32-bit lane holds and the enabled bits include; the lowest of them. -/
def lowestInLane (bits lane : Nat) (en : Vec) : Option Nat :=
  let per := 32 / bits
  ((List.range per).map fun i => lane * per + i).find? fun e => en.getLsbD (bits * e)

/-- The upset that INJECT puts on one of the firing operation's results, none where it has no effect. -/
def upsetFor (words : Vector Word 4) (k : Cl) (inj : Nat) (f : Flight) : Upset :=
  let lane : BitVec 9 := BitVec.ofNat 9 (inj / 2 ^ 45)
  match inj / 2 ^ 60 % 8 with
  | 0 =>
    match f.chk with
    | .no => .none
    | .scalar => .residue (BitVec.ofNat 4 (inj / 2 ^ 56)) lane
    | .elems b | .pair b _ =>
      match f.land with
      | .vec _ en _ =>
        if (lowestInLane b lane.toNat en).isSome then .residue (BitVec.ofNat 4 (inj / 2 ^ 56)) lane else .none
      | _ => .residue (BitVec.ofNat 4 (inj / 2 ^ 56)) lane
  | 1 => if shadowed words k then .shadow lane else .none
  | 2 => match f.land with | .load _ _ => .poison | .atomic _ _ => .poison | _ => .none
  | _ => match f.land with | .load _ _ => .drop | .atomic _ _ => .drop | _ => .none

/-- Residue (R6). -/
def residue (x : Nat) : Nat := x % 15

/-- A KIND 0 injection that hits an access's address sum (R164): the trigger in the issue cycle. -/
def sumTrigger (s : State) (fired : Option (Cl × Nat)) : Option Trigger :=
  match fired with
  | none => none
  | some (k, inj) =>
    if inj / 2 ^ 60 % 8 ≠ 0 then none
    else
      let lane := inj / 2 ^ 45 % 512
      match s.core.iss.sums.find? (fun x => x.1 == k && (match x.2.1 with | some l => l == lane | none => true)) with
      | none => none
      | some x =>
        let e := residue x.2.2
        some { cause := 1, smask := slotBit k, slot := k,
               lane := (match x.2.1 with | some l => BitVec.ofNat 9 l | none => 0),
               exp := BitVec.ofNat 4 e, obs := BitVec.ofNat 4 ((e + inj / 2 ^ 56 % 16) % 15),
               word := s.core.bundle.words[k.val]'k.isLt, baddr := s.core.bundle.addr, addr := 0, detail := 0,
               info := 0, iss := s.run, lost := [], lines := [] }

/-! ## A bundle of the main context ends -/

/-- A context's bundle issues: the double matches of its lookups count, and its walks are over (R206, R207). -/
def State.endLookups (s : State) : State :=
  let t := if s.xlate.confl = 0 then s else s.countConflicts s.xlate.confl
  { t with xlate := { t.xlate with confl := 0, walks := t.xlate.walks.filter fun w => w.ended.isNone || w.lining == s.isMain } }

/-- A bundle that is held will look up again. -/
def State.dropLookups (s : State) : State := { s with xlate := { s.xlate with confl := 0 } }

/-- An atomic whose reply an injection discards performs in its due cycle all the same (R120, R226). -/
def dropStep (acc : State × List Flight) (f : Flight) : State × List Flight :=
  if f.upset == .drop && decide (f.due ≤ acc.1.run) then
    let r := settleAtomic acc.1 f
    (r.1, acc.2 ++ [r.2])
  else (acc.1, acc.2 ++ [f])

def State.settleDropped (s : State) : State :=
  if s.core.flights.any fun f => f.upset == .drop then
    let r := s.core.flights.foldl dropStep (s, [])
    { r.1 with core := { r.1.core with flights := r.2 } }
  else s

/-- The main context is frozen in this cycle, under a lowest cause and all those of its bundle; the lining may use it
(R45, R57). The watchdog counts while cause 4 or 5 holds (R47), and a freeze under 1, 2, 3 or 6 is timed (R48). -/
def State.frozen (s : State) (c : Nat) : State :=
  let all := c :: s.core.iss.causes
  let alert := all.any [1, 2, 3, 6].contains
  let len := if alert then s.hold.len + 1 else 0
  let wdog := if all.any [4, 5].contains then s.hold.wdog + 1 else 0
  let s := { s.dropLookups with
    core := s.save, hold := { s.hold with cause := c, len := len, alerted := alert && s.hold.alerted, wdog := wdog } }
  let s := s.settleDropped
  if s.liningReady then { s with ctx := .lining } else s.endCycle

/-- The lining takes a charged cycle before the bundle (R57, R58). -/
def State.chargedCycle (s : State) : State :=
  { s.dropLookups with
    core := s.save, ctx := .lining, lin := { s.lin with charge := s.lin.charge + 1 }, hold := { s.hold with cause := 8 } }

/-- A notch that commits updates NOTCH, ends the partners' holds that this core has met, and releases those that it
sent (R168). -/
def State.passNotch (s : State) (n : BitVec 16) : State :=
  let met := fun (h : NotchHold) => decide (h.carried.toNat < n.toNat ∧ n.toNat ≤ h.passed.toNat)
  let s := { s with sys := { s.sys with notch := n, holds := s.sys.holds.filter fun h => !met h } }
  if s.sys.holdSent then s.sendNote false n else s

/-- A join request leaves with its bundle (R316). -/
def State.askToJoin (s : State) (a : Option AgreeWait) : State :=
  match a with
  | some w =>
    match w.kind with
    | .agj =>
      let g := s.core.regs.rg w.slot
      s.onWire (s.toRoot w.gid) (.joinRequest { gid := w.gid, aseq := g.aseq, rank := g.rank.toNat, die := s.id.die, core := s.id.core })
    | _ => s
  | none => s

/-- A running cycle ends in which atomics of the scratchpad were due: their store halves perform, after every read of the
cycle (R226, R268). -/
def State.performLanded (s : State) : State :=
  let ws := s.core.iss.performs
  if ws.isEmpty then s
  else
    let t := s.engineStore ws []
    { t with core := { t.core with iss := { t.core.iss with performs := [] } } }
/-- The bundle commits: its control effects, panel, stores, and then the cycle ends. The loop buffer empties at each
opening and closing of a level, an outer level being captured again only in its first iteration (DESIGN CHOICE; log
entry 59). A software trap beside a halt, an idle or a seam that stops the core is taken, so that its status holds
(DESIGN CHOICE; log entry 60). -/
def State.commitBundle (s : State) (inj : Nat) (fired : Option (Cl × Nat)) : State :=
  let s := s.performLanded
  let c := s.core
  let i := c.iss
  let limit := s.save.nextId
  -- results that an injection upsets
  let flights := match fired with
    | some (k, w) => c.flights.map fun f =>
        if f.iss = s.run ∧ f.slot = k then { f with upset := upsetFor c.bundle.words k w f } else f
    | none => c.flights
  let s := { s with core := { c with flights := flights },
                    sys := { s.sys with inject := BitVec.ofNat 64 inj } }
  -- a tack commits and opens; its other slots belong to the new panel (R105)
  let s := match i.tack with
    | some r =>
      let s := s.commitPanel limit
      { s with core := { s.core with panel := some (reopened c.panel c.bundle.addr r) } }
    | none => s
  let panel := s.core.panel.map fun p =>
    { p with gates := p.gates ++ i.stores.map (·.2), irrev := p.irrev || i.irrev, replay := false }
  let s := { s with core := { s.core with panel := panel } }
  let here := { s.core.regs with pc := c.bundle.addr }
  let waits := match i.agree with | some a => a.ahead.isNone | none => false
  let stays := waits || (match i.stop with | some (.seam _) => true | _ => false)
  let q := if stays then { regs := here, back := none, off := false, brk := false, moved := false }
           else sequence s.core.regs c.bundle.addr.toNat i.flow
  let swap := match i.flow with | .bswap _ => true | _ => false
  let imem := if swap then { s.imem with swapped := !s.imem.swapped } else s.imem
  let lbuf := if q.moved || swap || i.ifence then []
    else if s.core.lfill then capture s.core.lbuf s.core.regs c.bundle else s.core.lbuf
  let loose := if i.ifence then s.core.loose.filter fun x => decide (s.run < x + 6) else s.core.loose
  let stopS := c.bundle.words[3].getLsbD 31
  let s := { s with
    imem := imem, run := s.run + 1,
    hold := Hold.start 0 s.liningWaits,
    core := { s.core with
      regs := q.regs, backs := (match q.back with | some l => [l] | none => []), offEnd := q.off,
      lbuf := lbuf, lfill := q.moved || (s.core.lfill && !swap && !i.ifence), loose := loose, slot := 0, iss := Issue.start, landed := false,
      agree := (match i.agree with | some a => some { a with after := here } | none => s.core.agree),
      group := if q.brk || stopS then [] else s.core.group } }
  let s := match i.notch with
    | some n => s.passNotch n
    | none => s
  let s := match i.seam with
    | some n => { s with sys := { s.sys with lastSeam := n } }
    | none => s
  let s := s.askToJoin i.agree
  let s := match i.stop with
    | some .halt => { s.commitPanel s.core.nextId with status := .halting none }
    | some .idle => { s with status := .idle }
    | some (.seam d) => { s.commitPanel s.core.nextId with status := .halting (some d) }
    | none => s
  let s := match i.soft with
    | some (m, code) => s.takeTrap { cause := 6, smask := m, reason := 0, code := code,
                                     detail := s.core.regs.pc.setWidth 64 } c.bundle.addr
    | none => s
  s.endCycle

/-- Entries that committed stores hold until they leave for memory: one per line for each panel (R157). -/
def heldEntries (gs : List Gate) : Nat :=
  (dedup (gs.flatMap fun g => g.cells.map fun c => g.commit * 2 ^ 46 + lineOf c.1)).length

/-- The trap of a tack buffer without room for the bundle's stores (R157). The entries of the panel that the bundle's own mark
commits are free for its stores (DEDUCED; log entry 24). -/
def overflowTrap (s : State) : Option TrapRec :=
  let i := s.core.iss
  let open_ := match i.tack, s.core.panel with | none, some p => gateLines p.gates | _, _ => []
  let needed := (gateLines (i.stores.map (·.2))).filter fun l => !open_.contains l
  if 1024 < needed.length + open_.length + heldEntries s.drains then
    some { cause := 7, smask := i.stores.foldl (fun m x => m ||| slotBit x.1) 0, reason := 0, code := 0,
           detail := BitVec.ofNat 64 needed.length }
  else none

/-- The main context runs ahead on a prediction (R313). -/
def State.runsAhead (s : State) : Bool :=
  match s.core.agree with
  | some a => a.ahead.isSome
  | none => false

/-- A trigger that ends in a trap at once: a handle or page fault (R161), or one in an irrevocable panel (R158). -/
def trapsOnRollback (s : State) (t : Option Trigger) : Bool :=
  match t with
  | none => false
  | some g => g.cause == 5 || g.cause == 6 || (match s.core.panel with | some p => p.irrev | none => true)

/-- The last slot of a main bundle has executed: the bundle is held, or rolls back, or traps, or commits
(R45, R148, R159). A prediction waits for its outcome before a trap of its arm, the software trap too (R314). -/
def State.finishBundle (s : State) : State :=
  let i := s.core.iss
  let trap := match overflowTrap s with | some t => some (mergeTrap i.trap t) | none => i.trap
  let trap := match s.sys.engine with | some (c, d) => some (mergeTrap trap (trapRec c d)) | none => trap
  match i.hold with
  | some c => s.frozen c
  | none =>
    let m := if trap.isSome then (s.sys.inject.toNat, none)
             else injectSlots s.core.bundle.words i.live s.sys.inject.toNat 4
    let trigger := match sumTrigger s m.2 with
      | some t => some (mergeTrigger i.trigger t)
      | none => i.trigger
    if s.runsAhead && (trap.isSome || i.soft.isSome || trapsOnRollback s trigger) then s.frozen 7
    else if s.liningReady && s.mayCharge then s.chargedCycle
    else
      let s := s.endLookups
      match trigger with
      | some t =>
        let u := { s with core := s.found, sys := { s.sys with inject := BitVec.ofNat 64 m.1 } }.performLanded
        (u.rollback t).endCycle
      | none =>
        match trap with
        | some t =>
          let b := s.core.bundle.addr
          ({ s with core := s.found }.performLanded.takeTrap t b).endCycle
        | none => s.commitBundle m.1 m.2

/-! ## A bundle of the lining ends -/

/-- A lining fault (R152): the lining stops, its bundle writes nothing, and a record goes to the health
window. -/
def State.liningFault (s : State) (t : TrapRec) : State :=
  let b := s.lin.bundle.addr
  { s with lin := { s.lsave with stopped := true, serving := false, flights := [], pend := s.lin.pend },
           core := s.save,
           health := { s.health with records := s.health.records ++ [(trapinfoWord t b, t.detail)] } }

/-- The service of a freeze alert ends. While the main context is still frozen as alerted, the lining may take it into a
trap (R48, R151); no instruction says so, so whether it does is a free choice (log entry 19). -/
def State.alertStop (s : State) : State :=
  let c := s.hold.cause
  let frozen := s.status == .running && s.rewind.isNone && (c == 1 || c == 2 || c == 3 || c == 6)
  if s.lin.entered == 0x440 && frozen && Config.freeBit (s.free * 2 ^ 64 + 2 ^ 49) then
    s.takeTrap (trapRec 13 (BitVec.ofNat 64 c)) s.core.regs.pc
  else s

/-- The bundle of the lining has executed: it takes effect, waits, or is a lining fault; its cycle ends. The fault record's CAUSE
is 8 for a handle or page fault and 9 for any other trigger, a poisoned load among them (DESIGN CHOICE; log entry 9). A handle
fault of the lining leaves HANDLEINFO as it stands (DESIGN CHOICE; log entry 78). -/
def State.finishLining (s : State) : State :=
  let i := s.lin.iss
  let s := if i.trap.isNone && i.trigger.isNone && i.hold.isSome then s.dropLookups else s.endLookups
  match i.trap, i.trigger with
  | some t, _ => (s.liningFault t).endCycle
  | none, some g => (s.liningFault (trapRec (if g.cause = 5 ∨ g.cause = 6 then 8 else 9) g.detail)).endCycle
  | none, none =>
    match i.hold with
    | some _ => { s with lin := { s.lsave with charge := s.lin.charge }, core := s.save }.endCycle
    | none =>
      let next := match i.flow with
        | .jump t => t
        | _ => s.lin.bundle.addr.toNat + 16
      let l := { s.lin with cyc := s.lin.cyc + 1, iss := Issue.start }
      let s := { s with hold := { s.hold with waits := s.mainWaits } }
      match i.stop with
      | some _ => { s with lin := { l with serving := false } }.alertStop.endCycle
      | none =>
        if next % 16 = 0 ∧ next < 0x8000 then { s with lin := { l with pc := BitVec.ofNat 16 next } }.endCycle
        else (s.liningFault (trapRec 3 (BitVec.ofNat 64 next))).endCycle

/-- A slot operation has executed: the next slot is up, or the bundle ends. -/
def State.retire (s : State) : State :=
  match s.ctx with
  | .main =>
    if s.core.slot.val < 3 then { s with core := { s.core with slot := s.core.slot + 1 } } else s.finishBundle
  | .lining => s.finishLining

/-- The outcome of a slot operation whose effect is f. -/
def slotOp (s : State) (f : State → State) : Result := .next (f s).retire

/-- The outcome of a slot operation with a pred field (R28). -/
def predOp (p : BitVec 3) (s : State) (f : State → State) : Result := slotOp s fun s => s.guarded p f

/-- The outcome of a slot operation without a pred field. -/
def plainOp (s : State) (f : State → State) : Result := slotOp s fun s => f s.markLive

end Sys2Proof.Machine
end

