-- ==== Sys2Proof/Machine/Result.lean ====
section
/-! DEFINITION. The landing of results (R42 to R44, R53), register by register, and the failures that a landing
shows (R159, R164, R166). -/

namespace Sys2Proof.Machine

/-! ## System registers as a landing writes them (R114) -/

/-- LSHARE (R60): SHARE and WDEXP, WDEXP kept between 10 and 24. -/
def Lining.writeShare (l : Lining) (v : Dword) : Lining :=
  let e := v.toNat / 2 ^ 16 % 32
  { l with share := v.extractLsb' 0 8, wdexp := if e < 10 then 10 else if 24 < e then 24 else BitVec.ofNat 5 e }

/-- SEAMREQ as the lining writes it (R170): PEND, SGRP and PGRP; clearing PEND clears the rest. -/
def seamreqWrite (old v : Dword) : Dword :=
  let groups : Nat := v.toNat / 2 ^ 51 % 2 ^ 10 * 2 ^ 51
  if v.getLsbD 63 then
    BitVec.ofNat 64 (2 ^ 63 + old.toNat / 2 ^ 61 % 4 * 2 ^ 61 + groups + old.toNat % 2 ^ 48)
  else BitVec.ofNat 64 groups

/-- A stop request that PEND sets wakes an idle main context (R85); a halted or idle one contributes its last passed
seam number at once (R171), and HELD stays clear (DESIGN CHOICE; log entry 73). Clearing PEND resumes a held one at its seam's
bundle, with a new panel (R173; DEDUCED, log entry 16). -/
def State.afterSeamreq (s : State) (old : Dword) : State :=
  if s.sys.seamreq.getLsbD 63 then
    if old.getLsbD 63 then s
    else
      match s.status with
      | .idle => (s.sendCut s.sys.lastSeam false).wake
      | .halted => s.sendCut s.sys.lastSeam false
      | _ => s
  else
    let s := { s with sys := { s.sys with cut := .fresh } }
    match s.status with
    | .held =>
      let r := s.core.regs
      { s with status := .running, core := { s.core with group := [], offEnd := false, panel := some (newPanel r.pc r) } }
    | _ => s

def State.writeSys (s : State) (n : Nat) (v : Dword) : State :=
  match n with
  | 0x005 => { s with lin := s.lin.writeShare v }
  | 0x008 => { s with sys := { s.sys with trapinfo0 := v } }
  | 0x009 => { s with sys := { s.sys with trapinfo1 := v } }
  | 0x00A => { s with sys := { s.sys with mcinfo0 := v } }
  | 0x00B => { s with sys := { s.sys with mcinfo1 := v } }
  | 0x00C => { s with sys := { s.sys with mcinfo2 := v } }
  | 0x00D => { s with sys := { s.sys with mcinfo3 := v } }
  | 0x00E => { s with sys := { s.sys with agstat := v } }
  | 0x00F =>
      let old := s.sys.seamreq
      { s with sys := { s.sys with seamreq := seamreqWrite old v } }.afterSeamreq old
  | 0x011 => { s with sys := { s.sys with handleinfo := v } }
  | 0x013 => { s with sys := { s.sys with inject := v &&& 0x7FFFFFFFFFFFFFFF#64 } }
  | _ => s

/-- FPFLAGS of a cluster. -/
def Regs.setFp (r : Regs) (k : Cl) (f : BitVec 5) : Regs :=
  let c := r.cluster k
  r.setCluster k { c with fp := f }

/-- A context form of mtsr (R116): a register of the main context. -/
def Regs.writeContext (r : Regs) (n : Nat) (k : Cl) (v : Dword) : Regs :=
  if n < 0x20 then r.setS k (BitVec.ofNat 5 n) v
  else if n < 0x28 then r.setP k (BitVec.ofNat 3 n) (v.getLsbD 0)
  else if n = 0x28 then r.setFp k (v.extractLsb' 0 5)
  else if n < 0x50 then r.wa (BitVec.ofNat 4 n) v
  else if n = 0x50 then { r with pc := v.extractLsb' 0 17 }
  else if n = 0x51 then { r with fmt := v.extractLsb' 0 32 }
  else if n < 0x64 then
    let l := (n - 0x58) / 2
    let x := r.loop l
    if n % 2 = 0 then r.setLoop l { x with count := v.extractLsb' 0 32, index := v.extractLsb' 32 32 }
    else r.setLoop l { x with valid := v.getLsbD 32, start := v.extractLsb' 16 16, stop := v.extractLsb' 0 16 }
  else if n < 0x100 then r.setDelta (BitVec.ofNat 4 ((n - 0x80) / 8)) (n % 8) (v.extractLsb' 0 32)
  else r.wac (BitVec.ofNat 6 n) { count := v.extractLsb' 0 32, err := v.getLsbD 32 }

/-- A context form of mfsr (R116). -/
def Regs.readContext (r : Regs) (n : Nat) (k : Cl) : Dword :=
  if n < 0x20 then (r.cluster k).rs (BitVec.ofNat 5 n)
  else if n < 0x28 then (if (r.cluster k).rp (BitVec.ofNat 3 n) then 1 else 0)
  else if n = 0x28 then (r.cluster k).fp.setWidth 64
  else if n < 0x50 then r.ra (BitVec.ofNat 4 n)
  else if n = 0x50 then r.pc.setWidth 64
  else if n = 0x51 then r.fmt.setWidth 64
  else if n < 0x64 then
    let x := r.loop ((n - 0x58) / 2)
    if n % 2 = 0 then BitVec.ofNat 64 (x.index.toNat * 2 ^ 32 + x.count.toNat)
    else BitVec.ofNat 64 ((if x.valid then 2 ^ 32 else 0) + x.start.toNat * 2 ^ 16 + x.stop.toNat)
  else if n < 0x100 then sx32 (r.delta_ (BitVec.ofNat 4 ((n - 0x80) / 8)) (n % 8))
  else
    let a := r.rac (BitVec.ofNat 6 n)
    BitVec.ofNat 64 ((if a.err then 2 ^ 32 else 0) + a.count.toNat)

/-! ## Failures at a landing -/

/-- The trigger of a flight that fails. -/
def failed (f : Flight) (cause : Nat) (lane : BitVec 9) (exp obs : Nat) (addr : Dword) : Trigger :=
  { cause := cause, smask := slotBit f.slot, slot := f.slot, lane := lane, exp := BitVec.ofNat 4 exp,
    obs := BitVec.ofNat 4 obs, word := f.word, baddr := f.baddr, addr := addr, detail := 0, info := 0,
    iss := f.iss, lost := [(f.iss, f.slot)], lines := [] }

/-- The trigger of a load that consumes poisoned lines (R166, R167): ADDR names the first. -/
def poisoned (f : Flight) (lines : List Nat) : Trigger :=
  { failed f 3 0 0 0 (BitVec.ofNat 64 (lines.headD 0 * 64)) with lines := lines }

/-- Element e of b bits of a vector. -/
def vecElemOf (b e : Nat) (v : Vec) : Nat := v.toNat / 2 ^ (b * e) % 2 ^ b

/-- The residue that the unit expects of the result that an injection hit (R11, R164). -/
def expectedResidue (f : Flight) (lane : BitVec 9) : Nat :=
  match f.chk, f.land with
  | .elems b, .vec _ en v =>
      match lowestInLane b lane.toNat en with
      | some e => residue (vecElemOf b e v)
      | none => 0
  | .pair b o, .vec _ en v =>
      match lowestInLane b lane.toNat en with
      | some e => residue (residue (vecElemOf b e v) + residue (vecElemOf b e o))
      | none => 0
  | _, .s _ v => residue v.toNat
  | _, .p _ v => if v then 1 else 0
  | _, .a _ v => residue v.toNat
  | _, .lu _ _ v => residue v.toNat
  | _, .vec _ en v => residue (v &&& en).toNat
  | _, _ => 0

/-- Whether the result is a vector or a mask, whose elements stand in lanes (R119, R162). -/
def hasLanes (f : Flight) : Bool :=
  match f.land with | .vec _ _ _ => true | .m _ _ _ => decide (0x13 ≤ f.word.toNat / 2 ^ 25 % 64) | _ => false

/-- A flight's failure in its due cycle, if it has one (R159, R166). A KIND 2 injection that hits a vector load with no enabled
element finds no line to poison and does nothing (DESIGN CHOICE; log entry 62). -/
def flightFailure (s : State) (f : Flight) : Option Trigger :=
  match f.upset with
  | .residue d lane =>
      let e := expectedResidue f lane
      some (failed f 1 (if hasLanes f then lane else 0) e ((e + d.toNat) % 15) 0)
  | .shadow lane => some (failed f 2 (if hasLanes f then lane else 0) 0 0 0)
  | up =>
    match f.land with
    | .load _ acc =>
        let bad := if up == .poison then dedup ((accAddrs acc).map lineOf)
          else (loadLines s acc).filter s.performed.mem.poison.contains
        if bad.isEmpty then none else some (poisoned f bad)
    | .atomic _ op =>
        if up == .poison || f.raw.isNone then
          let m := s.performed.mem
          let bad := (atomicLines m op).filter m.poison.contains
          some (poisoned f (if bad.isEmpty then [lineOf op.addr] else bad))
        else none
    | _ => none

/-! ## One result lands -/

/-- A count written in a cycle takes the increments that engines make in that cycle after it (R265). -/
def countSet (arrivals : List (BitVec 6 × Bool)) (k : BitVec 6) (v : Word) : ArrivalCounter :=
  let new := arrivals.filter fun x => x.1 == k
  { count := v + BitVec.ofNat 32 new.length, err := new.any (·.2) }

/-- What a result writes of the registers of the main context. -/
def State.landed (s : State) (f : Flight) (r : Regs) : Regs :=
  let k := f.slot
  match f.land with
  | .s d v => r.setS k d v
  | .p d v => r.setP k d v
  | .vec d en v => r.wv k d (mergeBits (r.rv k d) en v)
  | .m d en v => r.setM k d (mergeBits ((r.cluster k).rm d) en v)
  | .flags x => r.setFp k ((r.cluster k).fp ||| x)
  | .a d v => r.wa d v
  | .h d v => r.wh d { v with gen := (r.rh d).gen + 1 }
  | .hdrop d => r.wh d { r.rh d with valid := false }
  | .acset d v => r.wac d (countSet (s.earlier ++ s.arrivals) d v)
  | .acadd d v => r.wac d { r.rac d with count := (r.rac d).count + v }
  | .lu i l v => r.setDelta i l.toNat v
  | .fmt v => { r with fmt := v }
  | .sys n v => if 1 ≤ n ∧ n ≤ 4 then r.setFp (BitVec.toFin (BitVec.ofNat 2 (n - 1))) (v.extractLsb' 0 5) else r
  | .ctxReg n k v => r.writeContext n.toNat k.toFin v
  | .tile n e => r.wt n e
  | .tileState n st => r.setTileState n st
  | .ring n e => r.wq n e
  | .pop n => r.wq n (r.rq n).popped
  | .aseq g v => r.wg g { r.rg g with aseq := v }
  | .load dst acc => r.loaded k dst acc (loadBytes s acc f.raw)
  | .atomic d _ => r.setS k d (BitVec.ofNat 64 (leNat (f.raw.getD [])))
  | .drain _ => r
  | .xtr n _ _ => r.setTileState n.toNat 2

/-- A result lands. -/
def State.landOne (s : State) (f : Flight) : State :=
  let t := { s with core := { s.core with regs := s.landed f s.core.regs } }
  match f.land with
  | .sys n v => if 1 ≤ n ∧ n ≤ 4 then t else t.writeSys n v
  | _ => t

/-- A result of the bundle whose agreement the core waits for also enters the state that a wrong prediction goes back
to (R315). -/
def State.landAfter (s : State) (f : Flight) : State :=
  match s.core.agree with
  | some a =>
    if f.iss = a.iss then { s with core := { s.core with agree := some { a with after := s.landed f a.after } } } else s
  | none => s

/-! ## Progress that a rollback does not undo (R155) -/

/-- An arrival counter increases by 1, and its error bit is set when something failed. -/
def State.arrive (s : State) (k : BitVec 6) (err : Bool) : State :=
  { s with arrivals := s.arrivals ++ [(k, err)] }.mapRegs fun r =>
    let a := r.rac k
    r.wac k { count := a.count + 1, err := a.err || err }

/-- A result of the lining lands: its own registers, or what it writes of the core. -/
def State.landLining (s : State) (f : Flight) : State :=
  let l := s.lin
  match f.land with
  | .s d v => if d = 0 then s else { s with lin := { l with s := vput (k := 5) l.s d v } }
  | .p d v => if d = 0 then s else { s with lin := { l with p := vput (k := 3) l.p d v } }
  | .a d v => { s with lin := { l with a := vput (k := 4) l.a d v } }
  | .h d v => { s with lin := { l with h := vput (k := 4) l.h d { v with gen := (vget (k := 4) l.h d).gen + 1 } } }
  | .hdrop d => { s with lin := { l with h := vput (k := 4) l.h d { vget (k := 4) l.h d with valid := false } } }
  | .load (.scalar d sx) acc =>
      let r := match f.raw with | some b => (s, b) | none => s.liningBytes acc
      let s := r.1
      let bs := r.2
      let l := s.lin
      if d = 0 then s
      else { s with lin := { l with s := vput (k := 5) l.s d (if sx then sext64 (8 * bs.length) (leNat bs) else BitVec.ofNat 64 (leNat bs)) } }
  | .atomic d _ =>
      if d = 0 then s else { s with lin := { l with s := vput (k := 5) l.s d (BitVec.ofNat 64 (leNat (f.raw.getD []))) } }
  | .lu _ _ _ => s
  | .acset k v => s.mapRegs fun r => r.wac k (countSet s.arrivals k v)
  | .acadd k v => s.mapRegs fun r => r.wac k { r.rac k with count := (r.rac k).count + v }
  | _ => s.landOne f

/-- Sets the issue record of the main bundle. -/
def State.mainIss (s : State) (f : Issue → Issue) : State := { s with core := { s.core with iss := f s.core.iss } }

/-- One flight of the main context in its due cycle: it waits for its reply, fails, or lands. -/
def State.landStep (s : State) (f : Flight) : State :=
  if f.late || f.upset == .drop then
    { s with core := { s.core with flights := s.core.flights ++ [f] } }.mainIss fun i => i.held 4
  else
    match flightFailure s f with
    | some t => s.mainIss fun i => { i with trigger := some (mergeTrigger i.trigger t) }
    | none => (s.landAfter f).landOne f

/-- Loop-back additions (R53), with the loop-update entries as they stood before this cycle's results: a luset that lands
now issued with the last body bundle, too late to take part. -/
def Regs.applyBacks (r : Regs) (d : Regs) (levels : List Nat) : Regs :=
  levels.foldl (fun r l => (List.range 16).foldl (fun r i =>
    let j := BitVec.ofNat 4 i
    r.wa j (r.ra j + sx32 (d.delta_ j l))) r) r

/-- A load that reads its vault in this running cycle, its reply not being late. -/
def readsDue (due : Nat) (f : Flight) : Bool := (vaultKey f).isSome && !isAtomic f && decide (f.due ≤ due) && !f.late

/-- The loads that are due read their vaults, and with them the older ones to the same vault, which come before them (R183). -/
def loadsDue (s : State) (due : Nat) : List Flight → List Flight
  | [] => []
  | f :: r =>
    let older := (vaultKey f).isSome && !isAtomic f && r.any fun g => readsDue due g && vaultKey g == vaultKey f
    (if readsDue due f || older then readNow s f else f) :: loadsDue s due r

/-- Accesses of the vaults in issue order as a cycle begins: a load that stands before an atomic of its vault that is due
reads now (R183), and the atomic performs. -/
def vaultsDue (due : Nat) : State → List Flight → State × List Flight
  | s, [] => (s, [])
  | s, f :: r =>
    let v := vaultKey f
    let before := r.any fun g => isAtomic g && decide (g.due ≤ due) && vaultKey g == v
    if v.isNone then let y := vaultsDue due s r; (y.1, f :: y.2)
    else if isAtomic f then
      let x := if f.due ≤ due then settleAtomic s f else (s, f)
      let y := vaultsDue due x.1 r
      (y.1, x.2 :: y.2)
    else
      let g := if before then readNow s f else f
      let y := vaultsDue due s r
      (y.1, g :: y.2)

/-- What is due of the vaults is read before an atomic performs there: every read of a cycle comes first (R268). -/
def settleDue (s : State) (due : Nat) : State :=
  let r := vaultsDue due s (loadsDue s due s.core.flights)
  { r.1 with core := { r.1.core with flights := r.2 } }

/-- The scratchpad's atomics that are due compute their results, each after those before it; their store halves perform
as the cycle ends. -/
def State.atomicsDue (s : State) (due : Nat) : State :=
  let r := s.core.flights.foldl (fun (acc : State × List Flight × List (List Host.Cell)) f =>
    if isAtomic f && (vaultKey f).isNone && decide (f.due ≤ due) then
      let x := atomicResult acc.1.performed.mem f
      (if x.2.isEmpty then acc.1 else acc.1.engineStore [x.2] [], acc.2.1 ++ [x.1],
        if x.2.isEmpty then acc.2.2 else acc.2.2 ++ [x.2])
    else (acc.1, acc.2.1 ++ [f], acc.2.2)) (s, [], [])
  { s with core := { s.core with flights := r.2.1, iss := { s.core.iss with performs := r.2.2 } } }

/-- The results of the main context that are due in this running cycle land, in issue order (R42, R44), but for those of an
operation of which one fails (R158); the tile of an xtr.out becomes ready (R241); then a loop-back's additions are made
(R53). -/
def State.landMain (s : State) : State :=
  let s := settleDue s.flow s.run
  let s := { s with save := s.core, lsave := s.lin }
  let old := s.core.regs
  let s := s.atomicsDue s.run
  let now := s.core.flights.filter fun f => decide (f.due ≤ s.run) && !isXtr f
  let rest := s.core.flights.filter fun f => !(decide (f.due ≤ s.run) && !isXtr f)
  let lost := (now.filter fun f => !(f.late || f.upset == .drop) && (flightFailure s f).isSome).map fun f => (f.iss, f.slot)
  let s := { s with core := { s.core with flights := rest, landed := true } }
  let s := now.foldl (fun s f =>
    if lost.contains (f.iss, f.slot) && (flightFailure s f).isNone then s else s.landStep f) s
  let s := (s.core.flights.filter fun f => decide (f.due ≤ s.run) && isXtr f).foldl (fun s f => (s.landAfter f).landOne f) s
  { s with core := { s.core with regs := s.core.regs.applyBacks old s.core.backs, backs := [] } }

/-- A load through h12 or h13 reads now when it is due, or when a younger access is (R182). -/
def State.registerReads (s : State) (f : Flight) : Bool :=
  isRegisterLoad f && (decide (f.due ≤ s.lin.cyc) || s.lin.flights.any fun g => readsMemory g && decide (f.iss < g.iss ∧ g.due ≤ s.lin.cyc))

/-- The lining's loads through h12 and h13 read, and its atomics perform, in issue order (R182): one flight of its list. -/
def liningRead (s : State) (acc : State × List Flight) (f : Flight) : State × List Flight :=
  match f.land with
  | .load _ a =>
    if s.registerReads f then
      let x := acc.1.liningBytes a
      (x.1, acc.2 ++ [{ f with raw := some x.2 }])
    else (acc.1, acc.2 ++ [f])
  | _ =>
    if f.due ≤ s.lin.cyc then
      let x := settleAtomic acc.1 f
      (x.1, acc.2 ++ [x.2])
    else (acc.1, acc.2 ++ [f])

/-- The lining's results due in this lining cycle land. A poisoned load of the lining is a lining fault (R152;
log entry 9). -/
def State.landLiningDue (s : State) : State :=
  let r := s.lin.flights.foldl (liningRead s) (s, [])
  let s := r.1
  let now := r.2.filter fun f => decide (f.due ≤ s.lin.cyc)
  let rest := r.2.filter fun f => !decide (f.due ≤ s.lin.cyc)
  let s := { s with lin := { s.lin with flights := rest } }
  if now.any (fun f => (flightFailure s f).isSome) then s.liningFault (trapRec 9 0)
  else now.foldl State.landLining s

end Sys2Proof.Machine
end

