-- ==== Sys2Proof/Machine/Control.lean ====
section
/-! DEFINITION. Branches, loops, marks, checks, halt and idle: majors 0x01 and 0x0C to 0x10 (R84, R85, R95 to
R110). Seams and notches stand with the agreement instructions they use. -/

namespace Sys2Proof.Machine

/-- Whether a byte address can be the target of a change of flow in the issuing context (R80, R56). -/
def State.validTarget (s : State) (t : Int) : Bool :=
  match s.ctx with
  | .main => decide (0 ≤ t) && fetchable t.toNat
  | .lining => decide (0 ≤ t ∧ t < 0x8000 ∧ t % 16 = 0)

/-- Goes to a target, or raises the instruction-address trap with it (R80). -/
def State.jumpTo (s : State) (t : Int) : State :=
  if s.validTarget t then s.flowTo (.jump t.toNat) else s.illegalTarget (BitVec.ofInt 64 t)

/-- The bundle's own byte address. -/
def State.here (s : State) : Nat := s.bundle.addr.toNat

def execBr (p : BitVec 3) (o : BitVec 21) (s : State) : Result :=
  predOp p s fun s => s.jumpTo (s.here + 16 * o.toInt)

/-- call also writes s31 with the address of the bundle after it (R95). -/
def execCall (p : BitVec 3) (o : BitVec 21) (s : State) : Result :=
  predOp p s fun s =>
    (s.emit 1 (.s 31 (BitVec.ofNat 64 (s.here + 16)))).jumpTo (s.here + 16 * o.toInt)

def execJr (p : BitVec 3) (a : BitVec 5) (s : State) : Result :=
  predOp p s fun s => s.jumpTo (s.rs a).toNat

def execRet (p : BitVec 3) (s : State) : Result :=
  predOp p s fun s => s.jumpTo (s.rs 31).toNat

/-- An open loop level has its body in the active half (R97). -/
def openInHalf (r : Regs) : Bool := r.loops.toList.any fun l => l.valid && decide (l.start.toNat < 0x1000)

/-- bswap (R97). -/
def execBswap (p : BitVec 3) (a : BitVec 5) (s : State) : Result :=
  predOp p s fun s =>
    let t := s.rs a
    let s := if !s.core.loose.isEmpty || openInHalf s.core.regs then s.illegalOperand t else s
    if s.validTarget t.toNat then s.flowTo (.bswap t.toNat) else s.illegalTarget t

/-- The region of a bundle address: the active half or the resident area (R80). -/
def regionOfBundle (a : Nat) : Nat := if a < 0x10000 then 0 else if a < 0x12000 then 1 else 2

/-- Opens a loop of n iterations with its end `e` bundles ahead (R100, R101). -/
def State.openLoop (s : State) (n : Nat) (e : Nat) : State :=
  let r := s.core.regs
  let stop := s.here + 16 * e
  let s1 := if regionOfBundle stop ≠ regionOfBundle s.here then s.illegalTarget (BitVec.ofNat 64 stop) else s
  let s2 := if 0 < r.depth ∧ (r.loop (r.depth - 1)).stop.toNat < stop / 16 then s1.illegalOperand (BitVec.ofNat 64 stop) else s1
  if n = 0 then s2.flowTo (.skip stop)
  else if r.depth = 6 then s2.illegalOperand (BitVec.ofNat 64 n)
  else s2.flowTo (.openLoop (BitVec.ofNat 16 (stop / 16)) (BitVec.ofNat 32 (n - 1)))

def execLoop (a : BitVec 5) (e : BitVec 15) (s : State) : Result :=
  plainOp s fun s => s.openLoop ((s.rs a).toNat % 2 ^ 32) e.toNat

def execLoopi (n e : BitVec 10) (s : State) : Result :=
  plainOp s fun s => s.openLoop n.toNat e.toNat

/-- lbrk closes the innermost level; with none open it traps (R102). -/
def execLbrk (p : BitVec 3) (s : State) : Result :=
  predOp p s fun s => if s.core.regs.depth = 0 then s.illegalOperand 0 else s.flowTo .lbrk

/-- lidx gives 0 for a level that is not open (R103). -/
def execLidx (d : BitVec 5) (k : BitVec 3) (s : State) : Result :=
  plainOp s fun s =>
    let l := s.core.regs.loop k.toNat
    s.emit 1 (.s d (if l.valid then l.index.setWidth 64 else 0))

/-! ## Marks -/

/-- A result of R154: a register, flag, loop-update or address result, or the landing of an xtr.out. -/
def isResult (f : Flight) : Bool := match f.land with | .drain _ => false | _ => true

/-- The results that a tack may not leave behind it: the one due last, the latest issued of several (R154). -/
def State.pendingResult (s : State) : Option Flight :=
  (s.core.flights.filter fun f => isResult f && decide (s.run < f.due)).foldl
    (fun best f => match best with
      | some b => if b.due ≤ f.due then some f else best
      | none => some f) none

/-- Acts as a tack (R105, R154). -/
def State.actAsTack (s : State) : State :=
  match s.pendingResult with
  | some f => s.illegalOperand (f.baddr.setWidth 64)
  | none =>
    let i := s.iss
    s.setIss { i with tack := some s.core.regs }

def execTack (s : State) : Result := plainOp s State.actAsTack

/-- ifence covers every ist issued six cycles before it or earlier (R107). -/
def execIfence (s : State) : Result :=
  plainOp s fun s =>
    let i := s.iss
    s.setIss { i with ifence := true }

/-! ## Checks, software traps, halt and idle -/

/-- The operands of a failed check, as DETAIL gives them (R151). -/
def checkDetail (x y : Dword) : Dword := x.extractLsb' 0 32 ++ y.extractLsb' 0 32

def execChkEq (a b : BitVec 5) (p : BitVec 3) (s : State) : Result :=
  predOp p s fun s => if s.rs a ≠ s.rs b then s.trapOn 5 (checkDetail (s.rs a) (s.rs b)) else s

def execChkNe (a b : BitVec 5) (p : BitVec 3) (s : State) : Result :=
  predOp p s fun s => if s.rs a = s.rs b then s.trapOn 5 (checkDetail (s.rs a) (s.rs b)) else s

/-- The software trap is taken after its bundle commits (R110); in the lining it is a lining fault (R152), whose DETAIL is the
address of the next bundle as well (R151). Of two in one bundle, CODE is that of the lowest slot (DESIGN CHOICE; log entry 58). -/
def execTrapOp (c : BitVec 10) (p : BitVec 3) (s : State) : Result :=
  predOp p s fun s =>
    match s.ctx with
    | .lining => s.trapCoded 6 c (BitVec.ofNat 64 (s.here + 16))
    | .main =>
      let i := s.iss
      s.setIss { i with soft := some (match i.soft with
        | some (m, c0) => (m ||| slotBit s.slot, c0)
        | none => (slotBit s.slot, c)) }

def State.stopWith (s : State) (r : StopReq) : State :=
  let i := s.iss
  s.setIss { i with stop := some r }

/-- halt (R84): in the lining it ends the service of an event. -/
def execHalt (p : BitVec 3) (s : State) : Result := predOp p s fun s => s.stopWith .halt

/-- idle (R85): in the lining it behaves as halt. -/
def execIdle (p : BitVec 3) (s : State) : Result := predOp p s fun s => s.stopWith .idle

end Sys2Proof.Machine
end

