-- ==== Sys2Proof/Syntax.lean ====
section
/-! DEFINITION. The instructions of the CX8: one constructor for each row of the opcode table. -/

namespace Sys2Proof

/-- The instructions: one constructor for each row of the opcode table, in its order. Slot
operations carry the fields of their word but the stop bit (R15), thimble words theirs (R300), and the
steps of units and events carry what the event brings from outside. -/
inductive Instr where
  -- slot operations
  /-- NOP, R27. -/
  | nop
  /-- SHD, R83. -/
  | shd
  /-- HALT, R84. -/
  | halt (p : BitVec 3)
  /-- IDLE, R85. -/
  | idle (p : BitVec 3)
  /-- ADD, R86. -/
  | add (d a b : BitVec 5) (p : BitVec 3) (w : BitVec 1)
  /-- SUB, R86. -/
  | sub (d a b : BitVec 5) (p : BitVec 3) (w : BitVec 1)
  /-- MUL, R86. -/
  | mul (d a b : BitVec 5) (p : BitVec 3) (w : BitVec 1)
  /-- MULH, R86. -/
  | mulh (d a b : BitVec 5) (p : BitVec 3) (w : BitVec 1)
  /-- MULHN, R86. -/
  | mulhn (d a b : BitVec 5) (p : BitVec 3) (w : BitVec 1)
  /-- DIV, R86. -/
  | div (d a b : BitVec 5) (p : BitVec 3) (w : BitVec 1)
  /-- DIVN, R86. -/
  | divn (d a b : BitVec 5) (p : BitVec 3) (w : BitVec 1)
  /-- REM, R86. -/
  | rem (d a b : BitVec 5) (p : BitVec 3) (w : BitVec 1)
  /-- REMN, R86. -/
  | remn (d a b : BitVec 5) (p : BitVec 3) (w : BitVec 1)
  /-- AND, R86. -/
  | andOp (d a b : BitVec 5) (p : BitVec 3) (w : BitVec 1)
  /-- OR, R86. -/
  | orOp (d a b : BitVec 5) (p : BitVec 3) (w : BitVec 1)
  /-- XOR, R86. -/
  | xorOp (d a b : BitVec 5) (p : BitVec 3) (w : BitVec 1)
  /-- SHL, R86. -/
  | shl (d a b : BitVec 5) (p : BitVec 3) (w : BitVec 1)
  /-- SHR, R86. -/
  | shr (d a b : BitVec 5) (p : BitVec 3) (w : BitVec 1)
  /-- SAR, R86. -/
  | sar (d a b : BitVec 5) (p : BitVec 3) (w : BitVec 1)
  /-- MIN, R86. -/
  | minOp (d a b : BitVec 5) (p : BitVec 3) (w : BitVec 1)
  /-- MAX, R86. -/
  | maxOp (d a b : BitVec 5) (p : BitVec 3) (w : BitVec 1)
  /-- MINN, R86. -/
  | minn (d a b : BitVec 5) (p : BitVec 3) (w : BitVec 1)
  /-- MAXN, R86. -/
  | maxn (d a b : BitVec 5) (p : BitVec 3) (w : BitVec 1)
  /-- SEL, R86. -/
  | sel (d a b : BitVec 5) (p : BitVec 3) (w : BitVec 1)
  /-- CRC, R87. -/
  | crc (d a b : BitVec 5) (p : BitVec 3) (w : BitVec 1)
  /-- ADDI, R88. -/
  | addi (d a : BitVec 5) (p : BitVec 3) (i : BitVec 12)
  /-- ANDI, R88. -/
  | andi (d a : BitVec 5) (p : BitVec 3) (i : BitVec 10)
  /-- ORI, R88. -/
  | ori (d a : BitVec 5) (p : BitVec 3) (i : BitVec 10)
  /-- XORI, R88. -/
  | xori (d a : BitVec 5) (p : BitVec 3) (i : BitVec 10)
  /-- SHLI, R88. -/
  | shli (d a : BitVec 5) (p : BitVec 3) (c : BitVec 6)
  /-- SHRI, R88. -/
  | shri (d a : BitVec 5) (p : BitVec 3) (c : BitVec 6)
  /-- SARI, R88. -/
  | sari (d a : BitVec 5) (p : BitVec 3) (c : BitVec 6)
  /-- MOVI, R89. -/
  | movi (d : BitVec 5) (p : BitVec 3) (i : BitVec 12)
  /-- MOVH, R89. -/
  | movh (d : BitVec 5) (p : BitVec 3) (i : BitVec 12)
  /-- CLZ, R90. -/
  | clz (d a : BitVec 5)
  /-- CTZ, R90. -/
  | ctz (d a : BitVec 5)
  /-- POPC, R90. -/
  | popc (d a : BitVec 5)
  /-- SEXT, R90. -/
  | sext (d a : BitVec 5) (n : BitVec 6)
  /-- ZEXT, R90. -/
  | zext (d a : BitVec 5) (n : BitVec 6)
  /-- BFX, R90. -/
  | bfx (d a : BitVec 5) (o n : BitVec 6)
  /-- BFI, R90. -/
  | bfi (d a : BitVec 5) (o n : BitVec 6)
  /-- CMP, R91. -/
  | cmp (d c : BitVec 3) (w : BitVec 1) (p : BitVec 3) (a b : BitVec 5)
  /-- CMPI, R91. -/
  | cmpi (d c : BitVec 3) (w : BitVec 1) (p : BitVec 3) (a : BitVec 5) (i : BitVec 9)
  /-- PAND, R92. -/
  | pand (d a b : BitVec 5) (p : BitVec 3)
  /-- POR, R92. -/
  | por (d a b : BitVec 5) (p : BitVec 3)
  /-- PXOR, R92. -/
  | pxor (d a b : BitVec 5) (p : BitVec 3)
  /-- PNOT, R92. -/
  | pnot (d a : BitVec 5) (p : BitVec 3)
  /-- PMOV, R92. -/
  | pmov (d a : BitVec 5) (p : BitVec 3)
  /-- MAND, R92. -/
  | mand (d a b : BitVec 5) (p : BitVec 3)
  /-- MOR, R92. -/
  | mor (d a b : BitVec 5) (p : BitVec 3)
  /-- MXOR, R92. -/
  | mxor (d a b : BitVec 5) (p : BitVec 3)
  /-- MNOT, R92. -/
  | mnot (d a : BitVec 5) (p : BitVec 3)
  /-- MPOP, R92. -/
  | mpop (d a : BitVec 5) (p : BitVec 3)
  /-- MFIRST, R92. -/
  | mfirst (d a : BitVec 5) (p : BitVec 3)
  /-- MSET, R92. -/
  | mset (d a : BitVec 5) (p : BitVec 3)
  /-- XCP, R93. -/
  | xcp (d a : BitVec 5) (k : BitVec 2) (p : BitVec 3)
  /-- XCPV, R93. -/
  | xcpv (d a : BitVec 5) (k : BitVec 2) (p : BitVec 3)
  /-- XCPM, R93. -/
  | xcpm (d a : BitVec 5) (k : BitVec 2) (p : BitVec 3)
  /-- XCPW, R93. -/
  | xcpw (d a : BitVec 5) (k : BitVec 2) (p : BitVec 3)
  /-- AADD, R94. -/
  | aadd (d a : BitVec 5) (p : BitVec 3) (b : BitVec 5)
  /-- AADD_IMM, R94. -/
  | aaddImm (d a : BitVec 5) (p : BitVec 3) (i : BitVec 9)
  /-- AMOV, R94. -/
  | amov (d a : BitVec 5) (p : BitVec 3)
  /-- AREAD, R94. -/
  | aread (d a : BitVec 5) (p : BitVec 3)
  /-- LUSET, R94. -/
  | luset (d a : BitVec 5) (p l : BitVec 3)
  /-- LURD, R94. -/
  | lurd (d a : BitVec 5) (p l : BitVec 3)
  /-- BR, R95. -/
  | br (p : BitVec 3) (o : BitVec 21)
  /-- CALL, R95. -/
  | call (p : BitVec 3) (o : BitVec 21)
  /-- JR, R96. -/
  | jr (p : BitVec 3) (a : BitVec 5)
  /-- RET, R96. -/
  | ret (p : BitVec 3)
  /-- BSWAP, R97. -/
  | bswap (p : BitVec 3) (a : BitVec 5)
  /-- LOOP, R100. -/
  | loop (a : BitVec 5) (e : BitVec 15)
  /-- LOOPI, R100. -/
  | loopi (n e : BitVec 10)
  /-- LBRK, R102. -/
  | lbrk (p : BitVec 3)
  /-- LIDX, R103. -/
  | lidx (d : BitVec 5) (k : BitVec 3)
  /-- TACK, R105. -/
  | tack
  /-- SEAM, R171. -/
  | seam (i : BitVec 16)
  /-- NOTCH, R168. -/
  | notch (n : BitVec 16)
  /-- IFENCE, R107. -/
  | ifence
  /-- CHK_EQ, R109. -/
  | chkEq (a b : BitVec 5) (p : BitVec 3)
  /-- CHK_NE, R109. -/
  | chkNe (a b : BitVec 5) (p : BitVec 3)
  /-- TRAP, R110. -/
  | trapOp (c : BitVec 10) (p : BitVec 3)
  /-- FMT, R113. -/
  | fmt (v : BitVec 10) (p : BitVec 3)
  /-- FMTR, R113. -/
  | fmtr (d : BitVec 5) (p : BitVec 3)
  /-- MFSR, R115. -/
  | mfsr (d : BitVec 5) (r : BitVec 10) (p : BitVec 3) (c : BitVec 1) (k : BitVec 2)
  /-- MTSR, R115. -/
  | mtsr (a : BitVec 5) (r : BitVec 10) (p : BitVec 3) (c : BitVec 1) (k : BitVec 2)
  /-- ERET, R117. -/
  | eret (c : BitVec 10) (p : BitVec 3)
  /-- LYIELD, R118. -/
  | lyield (p : BitVec 3)
  /-- INJECT, R120. -/
  | inject (a : BitVec 5) (p : BitVec 3)
  /-- AGR, R313. -/
  | agr (g x y : BitVec 5) (o c : BitVec 3) (h : BitVec 2) (n : BitVec 1)
  /-- AGV, R313. -/
  | agv (g d x : BitVec 5) (o : BitVec 3) (n : BitVec 1)
  /-- AGJ, R316. -/
  | agj (g : BitVec 5)
  /-- AGST, R317. -/
  | agst (g d a : BitVec 5)
  /-- VADD_F, R127. -/
  | vaddF (d a b : BitVec 5) (m t : BitVec 3)
  /-- VSUB_F, R127. -/
  | vsubF (d a b : BitVec 5) (m t : BitVec 3)
  /-- VMUL_F, R127. -/
  | vmulF (d a b : BitVec 5) (m t : BitVec 3)
  /-- VMIN, R127. -/
  | vmin (d a b : BitVec 5) (m t : BitVec 3)
  /-- VMAX, R127. -/
  | vmax (d a b : BitVec 5) (m t : BitVec 3)
  /-- VABS, R127. -/
  | vabs (d a : BitVec 5) (m t : BitVec 3)
  /-- VNEG, R127. -/
  | vneg (d a : BitVec 5) (m t : BitVec 3)
  /-- VCOPYSIGN, R127. -/
  | vcopysign (d a b : BitVec 5) (m t : BitVec 3)
  /-- VFMA, R128. -/
  | vfma (d a b : BitVec 5) (m t : BitVec 3)
  /-- VFMS, R128. -/
  | vfms (d a b : BitVec 5) (m t : BitVec 3)
  /-- VFNMA, R128. -/
  | vfnma (d a b : BitVec 5) (m t : BitVec 3)
  /-- VFNMS, R128. -/
  | vfnms (d a b : BitVec 5) (m t : BitVec 3)
  /-- VADD_I, R129. -/
  | vaddI (d a b : BitVec 5) (m t : BitVec 3)
  /-- VSUB_I, R129. -/
  | vsubI (d a b : BitVec 5) (m t : BitVec 3)
  /-- VMUL_I, R129. -/
  | vmulI (d a b : BitVec 5) (m t : BitVec 3)
  /-- VMULH, R129. -/
  | vmulh (d a b : BitVec 5) (m t : BitVec 3)
  /-- VADDS, R129. -/
  | vadds (d a b : BitVec 5) (m t : BitVec 3)
  /-- VSUBS, R129. -/
  | vsubs (d a b : BitVec 5) (m t : BitVec 3)
  /-- VAND, R129. -/
  | vand (d a b : BitVec 5) (m t : BitVec 3)
  /-- VOR, R129. -/
  | vor (d a b : BitVec 5) (m t : BitVec 3)
  /-- VXOR, R129. -/
  | vxor (d a b : BitVec 5) (m t : BitVec 3)
  /-- VNOT, R129. -/
  | vnot (d a : BitVec 5) (m t : BitVec 3)
  /-- VPOPC, R129. -/
  | vpopc (d a : BitVec 5) (m t : BitVec 3)
  /-- VCLZ, R129. -/
  | vclz (d a : BitVec 5) (m t : BitVec 3)
  /-- VSHL, R129. -/
  | vshl (d a b : BitVec 5) (m t : BitVec 3)
  /-- VSHR, R129. -/
  | vshr (d a b : BitVec 5) (m t : BitVec 3)
  /-- VSAR, R129. -/
  | vsar (d a b : BitVec 5) (m t : BitVec 3)
  /-- VMULH_N, R129. -/
  | vmulhN (d a b : BitVec 5) (m t : BitVec 3)
  /-- VADDS_N, R129. -/
  | vaddsN (d a b : BitVec 5) (m t : BitVec 3)
  /-- VSUBS_N, R129. -/
  | vsubsN (d a b : BitVec 5) (m t : BitVec 3)
  /-- VCMP, R131. -/
  | vcmp (d a b : BitVec 5) (m t c : BitVec 3)
  /-- VCMP_N, R131. -/
  | vcmpN (d a b : BitVec 5) (m t : BitVec 3) (c : BitVec 2)
  /-- VRANK_GT, R132. -/
  | vrankGt (d a b : BitVec 5) (m t : BitVec 3)
  /-- VRANK_GE, R132. -/
  | vrankGe (d a b : BitVec 5) (m t : BitVec 3)
  /-- VSEL, R133. -/
  | vsel (d a b : BitVec 5) (m t : BitVec 3)
  /-- VCX, R134. -/
  | vcx (x y : BitVec 5) (d m t : BitVec 3)
  /-- VCLASS, R135. -/
  | vclass (d a : BitVec 5) (m t : BitVec 3)
  /-- VPERM, R136. -/
  | vperm (d a b : BitVec 5) (m t : BitVec 3)
  /-- VROT, R136. -/
  | vrot (d a b : BitVec 5) (m t : BitVec 3)
  /-- VSLIDE, R136. -/
  | vslide (d a b : BitVec 5) (m t : BitVec 3)
  /-- VBCAST, R136. -/
  | vbcast (d a : BitVec 5) (m t : BitVec 3)
  /-- VEXT, R136. -/
  | vext (d a b : BitVec 5) (t : BitVec 3)
  /-- VINS, R136. -/
  | vins (d a b : BitVec 5) (t : BitVec 3)
  /-- VIDX, R136. -/
  | vidx (d : BitVec 5) (m t : BitVec 3)
  /-- VZIP_LO, R136. -/
  | vzipLo (d a b : BitVec 5) (m t : BitVec 3)
  /-- VZIP_HI, R136. -/
  | vzipHi (d a b : BitVec 5) (m t : BitVec 3)
  /-- VEXT_N, R136. -/
  | vextN (d a b : BitVec 5) (t : BitVec 3)
  /-- VREDSUM, R137. -/
  | vredsum (d a : BitVec 5) (m t : BitVec 3)
  /-- VREDMAX, R137. -/
  | vredmax (d a : BitVec 5) (m t : BitVec 3)
  /-- VREDMIN, R137. -/
  | vredmin (d a : BitVec 5) (m t : BitVec 3)
  /-- VREDAND, R137. -/
  | vredand (d a : BitVec 5) (m t : BitVec 3)
  /-- VREDOR, R137. -/
  | vredor (d a : BitVec 5) (m t : BitVec 3)
  /-- VREDMAX_N, R137. -/
  | vredmaxN (d a : BitVec 5) (m t : BitVec 3)
  /-- VREDMIN_N, R137. -/
  | vredminN (d a : BitVec 5) (m t : BitVec 3)
  /-- VREDSUM_N, R137. -/
  | vredsumN (d a : BitVec 5) (m t : BitVec 3)
  /-- VCVT, R140. -/
  | vcvt (d a : BitVec 5) (m st t r u : BitVec 3)
  /-- VLDEXP, R141. -/
  | vldexp (d a b : BitVec 5) (m t : BitVec 3)
  /-- VEXP2, R143. -/
  | vexp2 (d a : BitVec 5) (m t : BitVec 3)
  /-- VLOG2, R144. -/
  | vlog2 (d a : BitVec 5) (m t : BitVec 3)
  /-- VRCP, R145. -/
  | vrcp (d a : BitVec 5) (m t : BitVec 3)
  /-- VRSQRT, R146. -/
  | vrsqrt (d a : BitVec 5) (m t : BitVec 3)
  /-- VDIV, R147. -/
  | vdiv (d a b : BitVec 5) (m t : BitVec 3)
  /-- VSQRT, R147. -/
  | vsqrt (d a : BitVec 5) (m t : BitVec 3)
  /-- LD, R217. -/
  | ld (d : BitVec 5) (h a : BitVec 4) (w : BitVec 3) (i : BitVec 9)
  /-- IST, R106. -/
  | ist (d : BitVec 5) (a : BitVec 4) (p : BitVec 3) (i : BitVec 9)
  /-- ST, R218. -/
  | st (d : BitVec 5) (h a : BitVec 4) (w : BitVec 3) (i : BitVec 9)
  /-- VLD, R219. -/
  | vld (d : BitVec 5) (h a : BitVec 4) (m : BitVec 3) (i : BitVec 9)
  /-- VLDS, R221. -/
  | vlds (d : BitVec 5) (n : BitVec 4) (m : BitVec 3) (x : BitVec 5) (w : BitVec 2)
  /-- VGATH, R222. -/
  | vgath (d : BitVec 5) (n : BitVec 4) (m : BitVec 3) (x : BitVec 5)
  /-- MLD, R223. -/
  | mld (d : BitVec 5) (n : BitVec 4) (x : BitVec 5)
  /-- VST, R219. -/
  | vst (d : BitVec 5) (h a : BitVec 4) (m : BitVec 3) (i : BitVec 9)
  /-- VSTS, R221. -/
  | vsts (d : BitVec 5) (n : BitVec 4) (m : BitVec 3) (x : BitVec 5) (w : BitVec 2)
  /-- VSCAT, R222. -/
  | vscat (d : BitVec 5) (n : BitVec 4) (m : BitVec 3) (x : BitVec 5)
  /-- MST, R223. -/
  | mst (d : BitVec 5) (n : BitVec 4) (x : BitVec 5)
  /-- LAM_OP, R225. -/
  | lamOp (d : BitVec 5) (h a : BitVec 4) (b : BitVec 5) (w : BitVec 1) (o : BitVec 4)
  /-- LAM_CAS, R225. -/
  | lamCas (d : BitVec 5) (h a : BitVec 4) (b : BitVec 5) (w : BitVec 1)
  /-- LAM_FAC, R227. -/
  | lamFac (d : BitVec 5) (h a : BitVec 4) (b : BitVec 5)
  /-- LAM_FAC_RD, R227. -/
  | lamFacRd (d : BitVec 5) (h a : BitVec 4)
  /-- DRAIN, R229. -/
  | drain (sc : BitVec 2)
  /-- XLAT, R206. -/
  | xlat (h : BitVec 4) (a : BitVec 5)
  /-- HSTAT, R230. -/
  | hstat (d : BitVec 5) (h : BitVec 4)
  /-- HDROP, R230. -/
  | hdrop (h : BitVec 4)
  /-- TDEF, R231. -/
  | tdef (n : BitVec 8) (a : BitVec 5)
  /-- TSTAT, R231. -/
  | tstat (n : BitVec 8) (d : BitVec 5)
  /-- TSET, R231. -/
  | tset (n : BitVec 8) (t : BitVec 2)
  /-- QDEF, R231. -/
  | qdef (n : BitVec 3) (a : BitVec 5)
  /-- QPOP, R231. -/
  | qpop (n : BitVec 3)
  /-- QSTAT, R231. -/
  | qstat (n : BitVec 3) (d : BitVec 5)
  /-- MMA, R236. -/
  | mma (z : BitVec 6) (a b : BitVec 8)
  /-- MMAS, R236. -/
  | mmas (z : BitVec 6) (a b : BitVec 8)
  /-- MZERO, R238. -/
  | mzero (z : BitVec 6)
  /-- MDRAIN, R237. -/
  | mdrain (d : BitVec 6) (t : BitVec 8) (p : BitVec 1) (c : BitVec 5) (z : BitVec 1)
  /-- MLOAD, R238. -/
  | mload (d : BitVec 6) (t : BitVec 8)
  /-- MWAIT, R238. -/
  | mwait (d : BitVec 6)
  /-- XTR_IN, R240. -/
  | xtrIn (a : BitVec 5) (t : BitVec 3) (r : BitVec 7)
  /-- XTR_OUT, R241. -/
  | xtrOut (n : BitVec 8)
  /-- CE_COPY_TILE, R242. -/
  | ceCopyTile (t : BitVec 8) (h a : BitVec 4) (k : BitVec 6)
  /-- CE_COPY, R244. -/
  | ceCopy (h a : BitVec 4) (k : BitVec 6)
  /-- CE_GATH, R244. -/
  | ceGath (h a : BitVec 4) (k : BitVec 6)
  /-- CE_SCAT, R244. -/
  | ceScat (h a : BitVec 4) (k : BitVec 6)
  /-- CE_FILL, R244. -/
  | ceFill (h a : BitVec 4) (k : BitVec 6)
  /-- CE_CHK, R244. -/
  | ceChk (h a : BitVec 4) (k : BitVec 6)
  /-- SH_SEND, R259. -/
  | shSend (t : BitVec 8) (p : BitVec 1) (a : BitVec 4) (k : BitVec 6)
  /-- SH_RED_AR, R259. -/
  | shRedAr (g : BitVec 5) (d : BitVec 8) (k : BitVec 6) (c : BitVec 2)
  /-- SH_RED_RS, R259. -/
  | shRedRs (g : BitVec 5) (d : BitVec 8) (k : BitVec 6) (c : BitVec 2)
  /-- SH_RED_AR_FAC, R259. -/
  | shRedArFac (g : BitVec 5) (d : BitVec 8) (k : BitVec 6) (c : BitVec 2)
  /-- SH_RED_RS_FAC, R259. -/
  | shRedRsFac (g : BitVec 5) (d : BitVec 8) (k : BitVec 6) (c : BitVec 2)
  /-- SH_GATH, R259. -/
  | shGath (g : BitVec 5) (d : BitVec 8) (k : BitVec 6)
  /-- SH_BCAST, R259. -/
  | shBcast (g : BitVec 5) (d : BitVec 8) (k : BitVec 6) (r : BitVec 2)
  /-- SH_A2A, R259. -/
  | shA2a (g : BitVec 5) (d : BitVec 8) (k : BitVec 6)
  /-- SH_ROT, R259. -/
  | shRot (g : BitVec 5) (t : BitVec 8) (k : BitVec 6) (r : BitVec 1)
  /-- SH_STAT, R262. -/
  | shStat (d : BitVec 5)
  /-- ACSET, R263. -/
  | acset (k : BitVec 6) (a : BitVec 5) (p : BitVec 3)
  /-- ACADD, R263. -/
  | acadd (k : BitVec 6) (p : BitVec 3) (i : BitVec 9)
  /-- ACWAIT, R264. -/
  | acwait (k : BitVec 6) (t : BitVec 5) (p : BitVec 3) (n : BitVec 9)
  /-- ACRD, R263. -/
  | acrd (k : BitVec 6) (d : BitVec 5) (p : BitVec 3)
  /-- TH_LD, R322. -/
  | thLd (h a b : BitVec 4) (k : BitVec 6)
  /-- TH_ST, R322. -/
  | thSt (h a b : BitVec 4) (k : BitVec 6)
  /-- TH_AMO, R322. -/
  | thAmo (h a b : BitVec 4) (k : BitVec 6)
  /-- TH_CAS, R322. -/
  | thCas (h a b : BitVec 4) (k : BitVec 6)
  /-- TH_ENQ, R323. -/
  | thEnq (h a b : BitVec 4) (k : BitVec 6)
  /-- TH_DEQ, R323. -/
  | thDeq (h a b : BitVec 4) (k : BitVec 6)
  /-- TH_CHASE, R324. -/
  | thChase (h a b : BitVec 4) (k : BitVec 6)
  /-- TH_CLAIM, R299. -/
  | thClaim (h a b : BitVec 4) (k : BitVec 6)
  /-- TH_FAC, R322. -/
  | thFac (h a b : BitVec 4) (k : BitVec 6)
  /-- TH_CALL, R322. -/
  | thCall (h a b : BitVec 4) (k : BitVec 6)
  /-- MB_POST, R328. -/
  | mbPost (t : BitVec 5) (b : BitVec 4) (k : BitVec 6)
  /-- MB_TAKE, R329. -/
  | mbTake (n : BitVec 2) (b : BitVec 4) (t : BitVec 5) (p : BitVec 3) (k : BitVec 6)
  /-- CL_BIND, R343. -/
  | clBind (a : BitVec 5) (k : BitVec 6)
  /-- CL_LD, R344. -/
  | clLd (h a : BitVec 4) (k : BitVec 6)
  /-- CL_CLR, R343. -/
  | clClr (a : BitVec 5) (k : BitVec 6)
  /-- CL_DEC, R343. -/
  | clDec (a : BitVec 5) (k : BitVec 6)
  /-- CL_PROP, R337. -/
  | clProp (a : BitVec 5) (k : BitVec 6)
  /-- CL_BT, R343. -/
  | clBt (a : BitVec 5) (k : BitVec 6)
  /-- CL_ST, R345. -/
  | clSt (h a : BitVec 4) (k : BitVec 6)
  /-- CL_RD, R349. -/
  | clRd (d a : BitVec 5)
  /-- CL_COL, R343. -/
  | clCol (a : BitVec 5) (k : BitVec 6)
  /-- CL_MASK, R350. -/
  | clMask (m : BitVec 3) (sel : BitVec 2)
  /-- CL_LVL, R350. -/
  | clLvl (m : BitVec 3) (a : BitVec 5)
  -- thimble routine words (R300)
  /-- ROUTINE_END, R300. -/
  | routineEnd (d a b : BitVec 3) (i : BitVec 17)
  /-- ROUTINE_LD, R300. -/
  | routineLd (d a b : BitVec 3) (i : BitVec 17)
  /-- ROUTINE_ST, R300. -/
  | routineSt (d a b : BitVec 3) (i : BitVec 17)
  /-- ROUTINE_LDC, R300. -/
  | routineLdc (d a b : BitVec 3) (i : BitVec 17)
  /-- ROUTINE_STC, R300. -/
  | routineStc (d a b : BitVec 3) (i : BitVec 17)
  /-- ROUTINE_ADD, R300. -/
  | routineAdd (d a b : BitVec 3) (i : BitVec 17)
  /-- ROUTINE_SUB, R300. -/
  | routineSub (d a b : BitVec 3) (i : BitVec 17)
  /-- ROUTINE_AND, R300. -/
  | routineAnd (d a b : BitVec 3) (i : BitVec 17)
  /-- ROUTINE_OR, R300. -/
  | routineOr (d a b : BitVec 3) (i : BitVec 17)
  /-- ROUTINE_XOR, R300. -/
  | routineXor (d a b : BitVec 3) (i : BitVec 17)
  /-- ROUTINE_MIN, R300. -/
  | routineMin (d a b : BitVec 3) (i : BitVec 17)
  /-- ROUTINE_MAX, R300. -/
  | routineMax (d a b : BitVec 3) (i : BitVec 17)
  /-- ROUTINE_MINN, R300. -/
  | routineMinn (d a b : BitVec 3) (i : BitVec 17)
  /-- ROUTINE_MAXN, R300. -/
  | routineMaxn (d a b : BitVec 3) (i : BitVec 17)
  /-- ROUTINE_SHL, R300. -/
  | routineShl (d a b : BitVec 3) (i : BitVec 17)
  /-- ROUTINE_SHR, R300. -/
  | routineShr (d a b : BitVec 3) (i : BitVec 17)
  /-- ROUTINE_ADDI, R300. -/
  | routineAddi (d a b : BitVec 3) (i : BitVec 17)
  /-- ROUTINE_MOVI, R300. -/
  | routineMovi (d a b : BitVec 3) (i : BitVec 17)
  /-- ROUTINE_BEQ, R300. -/
  | routineBeq (d a b : BitVec 3) (i : BitVec 17)
  /-- ROUTINE_BNE, R300. -/
  | routineBne (d a b : BitVec 3) (i : BitVec 17)
  /-- ROUTINE_BLT, R300. -/
  | routineBlt (d a b : BitVec 3) (i : BitVec 17)
  /-- ROUTINE_BLTN, R300. -/
  | routineBltn (d a b : BitVec 3) (i : BitVec 17)
  -- units and events
  /-- RESULT_LAND, R42. -/
  | resultLand (c : Ctx)
  /-- REPLY_ARRIVAL, R46. -/
  | replyArrival (n : Nat)
  /-- REPLY_WATCHDOG_EXPIRY, R47. -/
  | replyWatchdogExpiry
  /-- FREEZE_ALERT, R48. -/
  | freezeAlert
  /-- SHARE_WINDOW, R58. -/
  | shareWindow
  /-- LINING_EVENT_ENTRY, R149. -/
  | liningEventEntry
  /-- REWIND_END, R159. -/
  | rewindEnd
  /-- NOTCH_HOLD_TIMEOUT, R169. -/
  | notchHoldTimeout
  /-- TACK_BUFFER_DRAIN, R157. -/
  | tackBufferDrain
  /-- IST_WRITE_PERFORM, R106. -/
  | istWritePerform
  /-- MULTICAST_LANDING, R188. -/
  | multicastLanding
  /-- XTR_OUT_LANDING, R241. -/
  | xtrOutLanding
  /-- DRAIN_ACK, R229. -/
  | drainAck (n : Nat)
  /-- WALK_COMPLETE, R206. -/
  | walkComplete
  /-- ENGINE_COMMAND_START, R50. -/
  | engineCommandStart (e : Engine)
  /-- COPY_COMMAND_COMPLETE, R246. -/
  | copyCommandComplete (n : Nat)
  /-- MATRIX_COMMAND_COMPLETE, R235. -/
  | matrixCommandComplete (n : Nat) (bad : MatrixFault)
  /-- SHUTTLE_SOURCE_READ, R260. -/
  | shuttleSourceRead (n : Nat)
  /-- SHUTTLE_DELIVERY, R252. -/
  | shuttleDelivery (d : Delivery)
  /-- CLAUSE_COMMAND_COMPLETE, R342. -/
  | clauseCommandComplete (n : Nat) (bad : ArrayFault)
  /-- PACKET_SEND, R272. -/
  | packetSend
  /-- THIMBLE_PACKET, R297. -/
  | thimblePacket
  /-- THIMBLE_REPLY, R321. -/
  | thimbleReply (r : Reply)
  /-- MAILBOX_NOTICE, R328. -/
  | mailboxNotice (n : BitVec 2)
  /-- MB_TAKE_TIMEOUT, R329. -/
  | mbTakeTimeout
  /-- ACWAIT_TIMEOUT, R264. -/
  | acwaitTimeout
  /-- AGREEMENT_CONTRIBUTION, R306. -/
  | agreementContribution (c : Contribution)
  /-- LATE_LIMIT_EXPIRY, R308. -/
  | lateLimitExpiry (gid : Nat)
  /-- AGREEMENT_OUTCOME, R315. -/
  | agreementOutcome (o : OutcomeMsg)
  /-- JOIN_REQUEST, R316. -/
  | joinRequest (j : JoinMsg)
  /-- JOIN_REPLY, R316. -/
  | joinReply (j : JoinAnswer)
  /-- RING_SLOT_ARRIVAL, R283. -/
  | ringSlotArrival (p : RingSlot)
  /-- BOUNCE_RESEND, R287. -/
  | bounceResend (n : Nat)
  /-- FLIT_RECEIVE, R288. -/
  | flitReceive (l : LinkId) (f : Flit)
  /-- LINK_FAIL, R289. -/
  | linkFail (l : LinkId)
  /-- FRAME_START, R285. -/
  | frameStart
  /-- HEALTH_BEACON, R292. -/
  | healthBeacon (die : BitVec 10)
  /-- BEACON_TIMEOUT, R292. -/
  | beaconTimeout (die : BitVec 10)
  /-- DEATH_REPORT, R293. -/
  | deathReport (die : BitVec 10)
  /-- PTP_MESSAGE, R295. -/
  | ptpMessage (offset : Int)
  /-- PPS_INPUT, R295. -/
  | ppsInput (offset : Int)
  /-- PTP_SOURCE_LOSS, R295. -/
  | ptpSourceLoss
  /-- PREEMPTION_DEADLINE, R172. -/
  | preemptionDeadline (kill : Bool)
  /-- KILL, R172. -/
  | kill
  /-- CONTEXT_SAVE, R174. -/
  | contextSave
  /-- CONTEXT_RESTORE, R174. -/
  | contextRestore
  /-- CONTEXT_PORT_DONE, R174. -/
  | contextPortDone
  /-- MULTICAST_CONTROL_WRITE, R187. -/
  | multicastControlWrite (w : Writer) (k : BitVec 4) (v : BitVec 8)
  /-- SCRUB_LINE, R200. -/
  | scrubLine (c : BitVec 7) (errs : Nat)
  /-- SCRUBBER_CONTROL_WRITE, R200. -/
  | scrubberControlWrite (w : Writer) (c : BitVec 7) (v : BitVec 64)
  /-- WIPE_COMPLETE, R201. -/
  | wipeComplete
  /-- INVALIDATE, R212. -/
  | invalidate (w : Writer) (v : BitVec 64)
  /-- INVALIDATION_COMPLETE, R211. -/
  | invalidationComplete
  /-- SPLIT_WORD_WRITE, R333. -/
  | splitWordWrite (w : Writer) (v : BitVec 64)
  /-- CLAUSE_WINDOW_SAVE, R354. -/
  | clauseWindowSave (i : BitVec 2)
  /-- CLAUSE_WINDOW_RESTORE, R354. -/
  | clauseWindowRestore (i : BitVec 2)
  /-- CLAUSE_WINDOW_REBIND, R354. -/
  | clauseWindowRebind (i : BitVec 2)
  /-- CLAUSE_WINDOW_RELEASE, R354. -/
  | clauseWindowRelease (i : BitVec 2)
  /-- CLAUSE_WINDOW_DONE, R354. -/
  | clauseWindowDone (i : BitVec 2)
  /-- REGISTER_WRITE, R381. -/
  | registerWrite (w : Writer) (o : BitVec 24) (n : Nat) (v : BitVec 64)
  /-- NWPTR_WRITE, R362. -/
  | nwptrWrite (timed : Bool) (v : BitVec 32)
  /-- FECTL_CLR, R363. -/
  | fectlClr
  /-- FECTL_ENABLE, R363. -/
  | fectlEnable (nen ten : Bool)
  /-- FESTAT_WRITE, R363. -/
  | festatWrite
  /-- FE_NOP, R365. -/
  | feNop (h : FeHead) (ws : List (BitVec 32))
  /-- LOAD_IMEM, R365. -/
  | loadImem (h : FeHead) (ws : List (BitVec 32))
  /-- PRESET_AC, R369. -/
  | presetAc (h : FeHead) (ws : List (BitVec 32))
  /-- PRESET_HANDLE, R369. -/
  | presetHandle (h : FeHead) (ws : List (BitVec 32))
  /-- RELEASE, R371. -/
  | feRelease (h : FeHead) (ws : List (BitVec 32))
  /-- CALL_IB, R367. -/
  | callIb (h : FeHead) (ws : List (BitVec 32))
  /-- RETURN, R367. -/
  | feReturn (h : FeHead) (ws : List (BitVec 32))
  /-- WAIT, R374. -/
  | feWait (h : FeHead) (ws : List (BitVec 32))
  /-- WAIT_POLL, R374. -/
  | waitPoll (timed : Bool)
  /-- WRITE, R365. -/
  | feWrite (h : FeHead) (ws : List (BitVec 32))
  /-- POST, R374. -/
  | fePost (h : FeHead) (ws : List (BitVec 32))
  /-- POST_RETRY, R374. -/
  | postRetry (timed : Bool)
  /-- TIMED_RELEASE, R372. -/
  | timedRelease (h : FeHead) (ws : List (BitVec 32))
  /-- TIMED_RELEASE_FIRE, R372. -/
  | timedReleaseFire
  /-- BARRIER, R374. -/
  | feBarrier (h : FeHead) (ws : List (BitVec 32))
  /-- BARRIER_ARRIVAL, R374. -/
  | barrierArrival (id : BitVec 8) (n : Nat)
  /-- FE_TIMEOUT, R374. -/
  | feTimeout (timed : Bool)
  /-- HOST_POSTED_WRITE, R277. -/
  | hostPostedWrite (a : BitVec 52) (bs : List (BitVec 8))
  /-- HOST_READ, R277. -/
  | hostRead (a : BitVec 52) (n : Nat)
  /-- RECOVERY_JOB, R388. -/
  | recoveryJob (f : Frame)
  /-- RECOVERY_PARTITION, R388. -/
  | recoveryPartition (f : Frame)
  /-- RECOVERY_DIE, R388. -/
  | recoveryDie (f : Frame)
  /-- RECOVERY_PACKAGE, R388. -/
  | recoveryPackage (f : Frame)
  /-- LIFECYCLE_PROVISION, R389. -/
  | lifecycleProvision (f : Frame)
  /-- LIFECYCLE_DEPLOY, R389. -/
  | lifecycleDeploy (f : Frame)
  /-- LIFECYCLE_RETURN, R389. -/
  | lifecycleReturn (f : Frame)
  /-- ATTESTATION_QUOTE, R385. -/
  | attestationQuote (nonce : BitVec 256) (part : BitVec 6)
  /-- POWER_GOOD, R378. -/
  | powerGood
  /-- S1_ENTRY, R378. -/
  | s1Entry (im : Image)
  /-- S2_ENTRY, R378. -/
  | s2Entry (lin walk gpm : Image)
  /-- PARTITION_CREATE, R380. -/
  | partitionCreate (part : BitVec 6) (im : NewPartition)
  /-- PARTITION_TEARDOWN, R380. -/
  | partitionTeardown (part : BitVec 6)
  /-- FUNCTION_LEVEL_RESET, R380. -/
  | functionLevelReset (part : BitVec 6)
  /-- INPUT_UNDERVOLTAGE, R390. -/
  | inputUndervoltage (mv us : Nat)
  /-- INPUT_OVERVOLTAGE, R390. -/
  | inputOvervoltage (mv us : Nat)
  /-- JUNCTION_OVERTEMP, R390. -/
  | junctionOvertemp (mdeg : Nat)
  /-- COOLANT_OVERTEMP, R390. -/
  | coolantOvertemp (mdeg us : Nat)
  /-- NOTCH_HOLD_ARRIVAL, R168. -/
  | notchHoldArrival (h : HoldMsg)
  /-- LINK_RETRAINED, R289. -/
  | linkRetrained (l : LinkId)
  /-- DIE_READMISSION, R292. -/
  | dieReadmission (die : BitVec 10)
  /-- FATAL_MACHINE_ERROR, R292. -/
  | fatalMachineError (die : BitVec 10)
  /-- POSTED_WRITE_CREDIT, R287. -/
  | postedWriteCredit
  /-- STAGE_FAILURE, R378. -/
  | stageFailure (stage : BitVec 2) (code : BitVec 32)
deriving DecidableEq, Repr

end Sys2Proof
end

