-- ==== Sys2Proof/WellFormed.lean ====
section
/-! DEFINITION. The checks on the fields of one slot word that make its bundle illegal with reason 6
(R23), beyond the fixed bits of its row. -/

namespace Sys2Proof

/-- The field names one of the first n registers. -/
def below {k : Nat} (x : BitVec k) (n : Nat) : Bool := decide (x.toNat < n)

/-- System-register numbers of the form with C = 0 (R114). -/
def sysRegNumber (r : BitVec 10) : Bool :=
  decide (r.toNat ≤ 6 ∨ (8 ≤ r.toNat ∧ r.toNat ≤ 20))

/-- Context-register numbers of the form with C = 1, and K zero where it must be (R116). -/
def contextNumber (r : BitVec 10) (k : BitVec 2) : Bool :=
  let n := r.toNat
  decide (n ≤ 0x28) ||
  ((decide (0x40 ≤ n ∧ n ≤ 0x51) || decide (0x58 ≤ n ∧ n ≤ 0x63) ||
    decide (0x80 ≤ n ∧ n < 0x100 ∧ n % 8 ≤ 5) || decide (0x100 ≤ n ∧ n ≤ 0x13F)) && k == 0#2)

/-- The value of fmt is legal under R112. -/
def fmtLegal (v : Nat) : Bool :=
  decide (v < 128) && [0, 1, 3].contains (v / 8 % 8) && [1, 3].contains (v % 8)

/-- Element types of the unsigned narrow forms: codes 5 and 6 (R129, R130, R137). -/
def narrow (t : BitVec 3) : Bool := t == 5#3 || t == 6#3

/-- The conversion that the fields of vcvt name is legal (R139). -/
def vcvtLegal (st t r u : BitVec 3) : Bool :=
  below u 7 && below r 5 &&
  (!u.getLsbD 0 || t == 3#3) && (!u.getLsbD 1 || narrow st) && (!u.getLsbD 2 || narrow t) &&
  !(st == t && u.getLsbD 1 == u.getLsbD 2)

/-- A slot operation whose fields are legal for it (R23, reason 6, and the table of its family). -/
def wellFormed : Instr → Bool
  | .bfx _ _ o n | .bfi _ _ o n => decide (o.toNat + n.toNat + 1 ≤ 64)
  | .cmp _ c _ _ _ _ | .cmpi _ c _ _ _ _ => below c 6
  | .pand d a b _ | .por d a b _ | .pxor d a b _ | .mand d a b _ | .mor d a b _ | .mxor d a b _ =>
      below d 8 && below a 8 && below b 8
  | .pnot d a _ | .pmov d a _ | .mnot d a _ => below d 8 && below a 8
  | .mpop _ a _ | .mfirst _ a _ => below a 8
  | .mset d _ _ => below d 8
  | .xcpv d a _ _ | .xcpw d a _ _ => below d 16 && below a 16
  | .xcpm d a _ _ => below d 8 && below a 8
  | .aadd d a _ _ | .aaddImm d a _ _ => below d 16 && below a 16
  | .amov d _ _ => below d 16
  | .aread _ a _ => below a 16
  | .luset d _ _ l => below d 16 && below l 6
  | .lurd _ a _ l => below a 16 && below l 6
  | .loop _ e => e != 0#15
  | .loopi _ e => e != 0#10
  | .lidx _ k => below k 6
  | .fmt v _ => fmtLegal v.toNat
  | .mfsr _ r _ c k | .mtsr _ r _ c k => if c == 1#1 then contextNumber r k else sysRegNumber r && k == 0#2
  | .eret c _ => below c 3
  | .agr _ _ _ o c h _ => below o 6 && below c 6 && below h 3
  | .agv _ _ _ o _ => below o 6
  | .vaddF _ _ _ _ t | .vsubF _ _ _ _ t | .vmulF _ _ _ _ t | .vmin _ _ _ _ t | .vmax _ _ _ _ t => below t 3
  | .vabs _ _ _ t | .vneg _ _ _ t => below t 4
  | .vcopysign _ _ _ _ t => below t 4
  | .vfma _ _ _ _ t | .vfms _ _ _ _ t | .vfnma _ _ _ _ t | .vfnms _ _ _ _ t => below t 3
  | .vaddI _ _ _ _ t | .vsubI _ _ _ _ t | .vmulI _ _ _ _ t | .vmulh _ _ _ _ t | .vadds _ _ _ _ t
  | .vsubs _ _ _ _ t | .vand _ _ _ _ t | .vor _ _ _ _ t | .vxor _ _ _ _ t
  | .vshl _ _ _ _ t | .vshr _ _ _ _ t | .vsar _ _ _ _ t => !below t 4
  | .vnot _ _ _ t | .vpopc _ _ _ t | .vclz _ _ _ t => !below t 4
  | .vmulhN _ _ _ _ t | .vaddsN _ _ _ _ t | .vsubsN _ _ _ _ t => narrow t
  | .vcmp d _ _ _ t c => below d 8 && below c 7 && (c != 6#3 || below t 4)
  | .vcmpN d _ _ _ t _ => below d 8 && narrow t
  | .vrankGt d _ _ _ _ | .vrankGe d _ _ _ _ => below d 8
  | .vclass _ _ _ t => below t 3
  | .vidx _ _ t => !below t 4
  | .vextN _ _ _ t => narrow t
  | .vredsum _ _ _ t | .vredmax _ _ _ t | .vredmin _ _ _ t => t != 3#3
  | .vredand _ _ _ t | .vredor _ _ _ t => !below t 4
  | .vredmaxN _ _ _ t | .vredminN _ _ _ t | .vredsumN _ _ _ t => narrow t
  | .vcvt _ _ _ st t r u => vcvtLegal st t r u
  | .vldexp _ _ _ _ t => below t 3
  | .vexp2 _ _ _ t | .vlog2 _ _ _ t | .vrcp _ _ _ t | .vrsqrt _ _ _ t | .vsqrt _ _ _ t => below t 3
  | .vdiv _ _ _ _ t => below t 3
  | .ld _ h _ w _ => below h 15 && below w 7
  | .st _ h _ w _ => below h 15 && below w 4
  | .vld _ h _ _ _ | .vst _ h _ _ _ => below h 15
  | .vlds _ n _ _ w | .vsts _ n _ _ w => below n 15 && below w 3
  | .vgath _ n _ _ | .vscat _ n _ _ => below n 15
  | .mld d n _ | .mst d n _ => below d 8 && below n 15
  | .lamOp _ h _ _ _ o => below h 15 && below o 9
  | .lamCas _ h _ _ _ => below h 15
  | .lamFac _ h _ _ => below h 15
  | .lamFacRd _ h _ => below h 15
  | .mdrain _ t p _ _ => p == 0#1 || t == 0#8
  | .shSend t p _ _ => p == 0#1 || t == 0#8
  | .shGath _ d _ | .shBcast _ d _ _ | .shA2a _ d _ => below d 248
  | .shRot _ t _ _ => below t 248
  | _ => true

/-- The predicate form of `wellFormed`. -/
abbrev WellFormed (i : Instr) : Prop := wellFormed i = true

end Sys2Proof
end

