-- ==== Sys2Proof/Decode.lean ====
section
/-! DEFINITION. The decoder, total on any word and rejecting by name, and the encoder. A word is read as a
number, bit 0 its least significant bit (R2, R15). -/

namespace Sys2Proof

/-- Bits lo to lo + n - 1 of w, as a number. -/
def bits (w lo n : Nat) : Nat := w / 2 ^ lo % 2 ^ n

/-- Bits lo to lo + n - 1 of w, as a field of n bits. -/
def fld (w lo n : Nat) : BitVec n := BitVec.ofNat n (w / 2 ^ lo)

/-- Why a slot word is no operation (R5, R23). -/
inductive DecodeError where
  /-- Major 0x00: a header, no operation (R19). -/
  | header
  /-- A reserved major, 0x2A to 0x3F: reason 5. -/
  | reservedMajor
  /-- An unlisted minor code, a non-zero reserved field or an illegal code: reason 6. -/
  | illegalWord
deriving DecidableEq, Repr

/-- The reason number of R23. -/
def DecodeError.reason : DecodeError → Nat
  | .header => 5
  | .reservedMajor => 5
  | .illegalWord => 6


/-- The rows of major 0x01 whose fixed bits the body of w holds. -/
def decodeMajor01 (w : Nat) : Option Instr :=
  if bits w 0 25 = 0 then some (.nop) else
  if bits w 0 25 = 1 then some (.shd) else
  if bits w 0 7 = 2 ∧ bits w 10 15 = 0 then some (.halt (fld w 7 3)) else
  if bits w 0 7 = 3 ∧ bits w 10 15 = 0 then some (.idle (fld w 7 3)) else
  none

/-- The rows of major 0x02 whose fixed bits the body of w holds. -/
def decodeMajor02 (w : Nat) : Option Instr :=
  if bits w 0 6 = 0 then some (.add (fld w 20 5) (fld w 15 5) (fld w 10 5) (fld w 7 3) (fld w 6 1)) else
  if bits w 0 6 = 1 then some (.sub (fld w 20 5) (fld w 15 5) (fld w 10 5) (fld w 7 3) (fld w 6 1)) else
  if bits w 0 6 = 2 then some (.mul (fld w 20 5) (fld w 15 5) (fld w 10 5) (fld w 7 3) (fld w 6 1)) else
  if bits w 0 6 = 3 then some (.mulh (fld w 20 5) (fld w 15 5) (fld w 10 5) (fld w 7 3) (fld w 6 1)) else
  if bits w 0 6 = 4 then some (.mulhn (fld w 20 5) (fld w 15 5) (fld w 10 5) (fld w 7 3) (fld w 6 1)) else
  if bits w 0 6 = 5 then some (.div (fld w 20 5) (fld w 15 5) (fld w 10 5) (fld w 7 3) (fld w 6 1)) else
  if bits w 0 6 = 6 then some (.divn (fld w 20 5) (fld w 15 5) (fld w 10 5) (fld w 7 3) (fld w 6 1)) else
  if bits w 0 6 = 7 then some (.rem (fld w 20 5) (fld w 15 5) (fld w 10 5) (fld w 7 3) (fld w 6 1)) else
  if bits w 0 6 = 8 then some (.remn (fld w 20 5) (fld w 15 5) (fld w 10 5) (fld w 7 3) (fld w 6 1)) else
  if bits w 0 6 = 9 then some (.andOp (fld w 20 5) (fld w 15 5) (fld w 10 5) (fld w 7 3) (fld w 6 1)) else
  if bits w 0 6 = 10 then some (.orOp (fld w 20 5) (fld w 15 5) (fld w 10 5) (fld w 7 3) (fld w 6 1)) else
  if bits w 0 6 = 11 then some (.xorOp (fld w 20 5) (fld w 15 5) (fld w 10 5) (fld w 7 3) (fld w 6 1)) else
  if bits w 0 6 = 12 then some (.shl (fld w 20 5) (fld w 15 5) (fld w 10 5) (fld w 7 3) (fld w 6 1)) else
  if bits w 0 6 = 13 then some (.shr (fld w 20 5) (fld w 15 5) (fld w 10 5) (fld w 7 3) (fld w 6 1)) else
  if bits w 0 6 = 14 then some (.sar (fld w 20 5) (fld w 15 5) (fld w 10 5) (fld w 7 3) (fld w 6 1)) else
  if bits w 0 6 = 15 then some (.minOp (fld w 20 5) (fld w 15 5) (fld w 10 5) (fld w 7 3) (fld w 6 1)) else
  if bits w 0 6 = 16 then some (.maxOp (fld w 20 5) (fld w 15 5) (fld w 10 5) (fld w 7 3) (fld w 6 1)) else
  if bits w 0 6 = 17 then some (.minn (fld w 20 5) (fld w 15 5) (fld w 10 5) (fld w 7 3) (fld w 6 1)) else
  if bits w 0 6 = 18 then some (.maxn (fld w 20 5) (fld w 15 5) (fld w 10 5) (fld w 7 3) (fld w 6 1)) else
  if bits w 0 6 = 19 then some (.sel (fld w 20 5) (fld w 15 5) (fld w 10 5) (fld w 7 3) (fld w 6 1)) else
  if bits w 0 6 = 20 then some (.crc (fld w 20 5) (fld w 15 5) (fld w 10 5) (fld w 7 3) (fld w 6 1)) else
  none

/-- The rows of major 0x03 whose fixed bits the body of w holds. -/
def decodeMajor03 (w : Nat) : Option Instr :=
  some (.addi (fld w 20 5) (fld w 15 5) (fld w 12 3) (fld w 0 12))

/-- The rows of major 0x04 whose fixed bits the body of w holds. -/
def decodeMajor04 (w : Nat) : Option Instr :=
  if bits w 10 2 = 0 then some (.andi (fld w 20 5) (fld w 15 5) (fld w 12 3) (fld w 0 10)) else
  if bits w 10 2 = 1 then some (.ori (fld w 20 5) (fld w 15 5) (fld w 12 3) (fld w 0 10)) else
  if bits w 10 2 = 2 then some (.xori (fld w 20 5) (fld w 15 5) (fld w 12 3) (fld w 0 10)) else
  none

/-- The rows of major 0x05 whose fixed bits the body of w holds. -/
def decodeMajor05 (w : Nat) : Option Instr :=
  if bits w 6 6 = 0 then some (.shli (fld w 20 5) (fld w 15 5) (fld w 12 3) (fld w 0 6)) else
  if bits w 6 6 = 16 then some (.shri (fld w 20 5) (fld w 15 5) (fld w 12 3) (fld w 0 6)) else
  if bits w 6 6 = 32 then some (.sari (fld w 20 5) (fld w 15 5) (fld w 12 3) (fld w 0 6)) else
  none

/-- The rows of major 0x06 whose fixed bits the body of w holds. -/
def decodeMajor06 (w : Nat) : Option Instr :=
  if bits w 15 5 = 0 then some (.movi (fld w 20 5) (fld w 12 3) (fld w 0 12)) else
  if bits w 15 5 = 1 then some (.movh (fld w 20 5) (fld w 12 3) (fld w 0 12)) else
  none

/-- The rows of major 0x07 whose fixed bits the body of w holds. -/
def decodeMajor07 (w : Nat) : Option Instr :=
  if bits w 0 15 = 0 then some (.clz (fld w 20 5) (fld w 15 5)) else
  if bits w 0 15 = 4096 then some (.ctz (fld w 20 5) (fld w 15 5)) else
  if bits w 0 15 = 8192 then some (.popc (fld w 20 5) (fld w 15 5)) else
  if bits w 6 9 = 192 then some (.sext (fld w 20 5) (fld w 15 5) (fld w 0 6)) else
  if bits w 6 9 = 256 then some (.zext (fld w 20 5) (fld w 15 5) (fld w 0 6)) else
  if bits w 12 3 = 5 then some (.bfx (fld w 20 5) (fld w 15 5) (fld w 6 6) (fld w 0 6)) else
  if bits w 12 3 = 6 then some (.bfi (fld w 20 5) (fld w 15 5) (fld w 6 6) (fld w 0 6)) else
  none

/-- The rows of major 0x08 whose fixed bits the body of w holds. -/
def decodeMajor08 (w : Nat) : Option Instr :=
  if bits w 0 4 = 0 ∧ bits w 18 1 = 0 then some (.cmp (fld w 22 3) (fld w 19 3) (fld w 17 1) (fld w 14 3) (fld w 9 5) (fld w 4 5)) else
  if bits w 18 1 = 1 then some (.cmpi (fld w 22 3) (fld w 19 3) (fld w 17 1) (fld w 14 3) (fld w 9 5) (fld w 0 9)) else
  none

/-- The rows of major 0x09 whose fixed bits the body of w holds. -/
def decodeMajor09 (w : Nat) : Option Instr :=
  if bits w 0 7 = 0 then some (.pand (fld w 20 5) (fld w 15 5) (fld w 10 5) (fld w 7 3)) else
  if bits w 0 7 = 1 then some (.por (fld w 20 5) (fld w 15 5) (fld w 10 5) (fld w 7 3)) else
  if bits w 0 7 = 2 then some (.pxor (fld w 20 5) (fld w 15 5) (fld w 10 5) (fld w 7 3)) else
  if bits w 0 7 = 3 ∧ bits w 10 5 = 0 then some (.pnot (fld w 20 5) (fld w 15 5) (fld w 7 3)) else
  if bits w 0 7 = 4 ∧ bits w 10 5 = 0 then some (.pmov (fld w 20 5) (fld w 15 5) (fld w 7 3)) else
  if bits w 0 7 = 5 then some (.mand (fld w 20 5) (fld w 15 5) (fld w 10 5) (fld w 7 3)) else
  if bits w 0 7 = 6 then some (.mor (fld w 20 5) (fld w 15 5) (fld w 10 5) (fld w 7 3)) else
  if bits w 0 7 = 7 then some (.mxor (fld w 20 5) (fld w 15 5) (fld w 10 5) (fld w 7 3)) else
  if bits w 0 7 = 8 ∧ bits w 10 5 = 0 then some (.mnot (fld w 20 5) (fld w 15 5) (fld w 7 3)) else
  if bits w 0 7 = 9 ∧ bits w 10 5 = 0 then some (.mpop (fld w 20 5) (fld w 15 5) (fld w 7 3)) else
  if bits w 0 7 = 10 ∧ bits w 10 5 = 0 then some (.mfirst (fld w 20 5) (fld w 15 5) (fld w 7 3)) else
  if bits w 0 7 = 11 ∧ bits w 10 5 = 0 then some (.mset (fld w 20 5) (fld w 15 5) (fld w 7 3)) else
  none

/-- The rows of major 0x0A whose fixed bits the body of w holds. -/
def decodeMajor0A (w : Nat) : Option Instr :=
  if bits w 0 10 = 0 then some (.xcp (fld w 20 5) (fld w 15 5) (fld w 13 2) (fld w 10 3)) else
  if bits w 0 10 = 1 then some (.xcpv (fld w 20 5) (fld w 15 5) (fld w 13 2) (fld w 10 3)) else
  if bits w 0 10 = 2 then some (.xcpm (fld w 20 5) (fld w 15 5) (fld w 13 2) (fld w 10 3)) else
  if bits w 0 10 = 3 then some (.xcpw (fld w 20 5) (fld w 15 5) (fld w 13 2) (fld w 10 3)) else
  none

/-- The rows of major 0x0B whose fixed bits the body of w holds. -/
def decodeMajor0B (w : Nat) : Option Instr :=
  if bits w 0 4 = 0 ∧ bits w 9 3 = 0 then some (.aadd (fld w 20 5) (fld w 15 5) (fld w 12 3) (fld w 4 5)) else
  if bits w 9 3 = 1 then some (.aaddImm (fld w 20 5) (fld w 15 5) (fld w 12 3) (fld w 0 9)) else
  if bits w 0 12 = 1024 then some (.amov (fld w 20 5) (fld w 15 5) (fld w 12 3)) else
  if bits w 0 12 = 1536 then some (.aread (fld w 20 5) (fld w 15 5) (fld w 12 3)) else
  if bits w 0 6 = 0 ∧ bits w 9 3 = 4 then some (.luset (fld w 20 5) (fld w 15 5) (fld w 12 3) (fld w 6 3)) else
  if bits w 0 6 = 0 ∧ bits w 9 3 = 5 then some (.lurd (fld w 20 5) (fld w 15 5) (fld w 12 3) (fld w 6 3)) else
  none

/-- The rows of major 0x0C whose fixed bits the body of w holds. -/
def decodeMajor0C (w : Nat) : Option Instr :=
  if bits w 24 1 = 0 then some (.br (fld w 21 3) (fld w 0 21)) else
  if bits w 24 1 = 1 then some (.call (fld w 21 3) (fld w 0 21)) else
  none

/-- The rows of major 0x0D whose fixed bits the body of w holds. -/
def decodeMajor0D (w : Nat) : Option Instr :=
  if bits w 0 15 = 0 ∧ bits w 23 2 = 0 then some (.jr (fld w 20 3) (fld w 15 5)) else
  if bits w 0 20 = 0 ∧ bits w 23 2 = 1 then some (.ret (fld w 20 3)) else
  if bits w 0 15 = 0 ∧ bits w 23 2 = 2 then some (.bswap (fld w 20 3) (fld w 15 5)) else
  none

/-- The rows of major 0x0E whose fixed bits the body of w holds. -/
def decodeMajor0E (w : Nat) : Option Instr :=
  if bits w 20 5 = 0 then some (.loop (fld w 15 5) (fld w 0 15)) else
  if bits w 20 5 = 8 then some (.loopi (fld w 10 10) (fld w 0 10)) else
  if bits w 0 20 = 0 ∧ bits w 23 2 = 2 then some (.lbrk (fld w 20 3)) else
  if bits w 0 12 = 0 ∧ bits w 20 5 = 24 then some (.lidx (fld w 15 5) (fld w 12 3)) else
  none

/-- The rows of major 0x0F whose fixed bits the body of w holds. -/
def decodeMajor0F (w : Nat) : Option Instr :=
  if bits w 0 25 = 0 then some (.tack) else
  if bits w 16 9 = 128 then some (.seam (fld w 0 16)) else
  if bits w 16 9 = 256 then some (.notch (fld w 0 16)) else
  if bits w 0 25 = 25165824 then some (.ifence) else
  none

/-- The rows of major 0x10 whose fixed bits the body of w holds. -/
def decodeMajor10 (w : Nat) : Option Instr :=
  if bits w 0 9 = 0 ∧ bits w 22 3 = 0 then some (.chkEq (fld w 17 5) (fld w 12 5) (fld w 9 3)) else
  if bits w 0 9 = 0 ∧ bits w 22 3 = 1 then some (.chkNe (fld w 17 5) (fld w 12 5) (fld w 9 3)) else
  if bits w 0 9 = 0 ∧ bits w 22 3 = 2 then some (.trapOp (fld w 12 10) (fld w 9 3)) else
  none

/-- The rows of major 0x11 whose fixed bits the body of w holds. -/
def decodeMajor11 (w : Nat) : Option Instr :=
  if bits w 0 7 = 0 ∧ bits w 20 5 = 0 then some (.fmt (fld w 10 10) (fld w 7 3)) else
  if bits w 0 7 = 1 ∧ bits w 10 10 = 0 then some (.fmtr (fld w 20 5) (fld w 7 3)) else
  if bits w 0 4 = 2 then some (.mfsr (fld w 20 5) (fld w 10 10) (fld w 7 3) (fld w 6 1) (fld w 4 2)) else
  if bits w 0 4 = 3 then some (.mtsr (fld w 20 5) (fld w 10 10) (fld w 7 3) (fld w 6 1) (fld w 4 2)) else
  if bits w 0 7 = 4 ∧ bits w 20 5 = 0 then some (.eret (fld w 10 10) (fld w 7 3)) else
  if bits w 0 7 = 5 ∧ bits w 10 15 = 0 then some (.lyield (fld w 7 3)) else
  if bits w 0 7 = 6 ∧ bits w 10 10 = 0 then some (.inject (fld w 20 5) (fld w 7 3)) else
  none

/-- The rows of major 0x12 whose fixed bits the body of w holds. -/
def decodeMajor12 (w : Nat) : Option Instr :=
  if bits w 24 1 = 0 then some (.agr (fld w 19 5) (fld w 14 5) (fld w 9 5) (fld w 6 3) (fld w 3 3) (fld w 1 2) (fld w 0 1)) else
  if bits w 0 3 = 0 ∧ bits w 22 3 = 4 then some (.agv (fld w 17 5) (fld w 12 5) (fld w 7 5) (fld w 4 3) (fld w 3 1)) else
  if bits w 0 17 = 0 ∧ bits w 22 3 = 5 then some (.agj (fld w 17 5)) else
  if bits w 0 7 = 0 ∧ bits w 22 3 = 6 then some (.agst (fld w 17 5) (fld w 12 5) (fld w 7 5)) else
  none

/-- The rows of major 0x13 whose fixed bits the body of w holds. -/
def decodeMajor13 (w : Nat) : Option Instr :=
  if bits w 0 4 = 0 then some (.vaddF (fld w 20 5) (fld w 15 5) (fld w 10 5) (fld w 7 3) (fld w 4 3)) else
  if bits w 0 4 = 1 then some (.vsubF (fld w 20 5) (fld w 15 5) (fld w 10 5) (fld w 7 3) (fld w 4 3)) else
  if bits w 0 4 = 2 then some (.vmulF (fld w 20 5) (fld w 15 5) (fld w 10 5) (fld w 7 3) (fld w 4 3)) else
  if bits w 0 4 = 3 then some (.vmin (fld w 20 5) (fld w 15 5) (fld w 10 5) (fld w 7 3) (fld w 4 3)) else
  if bits w 0 4 = 4 then some (.vmax (fld w 20 5) (fld w 15 5) (fld w 10 5) (fld w 7 3) (fld w 4 3)) else
  if bits w 0 4 = 5 ∧ bits w 10 5 = 0 then some (.vabs (fld w 20 5) (fld w 15 5) (fld w 7 3) (fld w 4 3)) else
  if bits w 0 4 = 6 ∧ bits w 10 5 = 0 then some (.vneg (fld w 20 5) (fld w 15 5) (fld w 7 3) (fld w 4 3)) else
  if bits w 0 4 = 7 then some (.vcopysign (fld w 20 5) (fld w 15 5) (fld w 10 5) (fld w 7 3) (fld w 4 3)) else
  none

/-- The rows of major 0x14 whose fixed bits the body of w holds. -/
def decodeMajor14 (w : Nat) : Option Instr :=
  if bits w 0 4 = 0 then some (.vfma (fld w 20 5) (fld w 15 5) (fld w 10 5) (fld w 7 3) (fld w 4 3)) else
  if bits w 0 4 = 1 then some (.vfms (fld w 20 5) (fld w 15 5) (fld w 10 5) (fld w 7 3) (fld w 4 3)) else
  if bits w 0 4 = 2 then some (.vfnma (fld w 20 5) (fld w 15 5) (fld w 10 5) (fld w 7 3) (fld w 4 3)) else
  if bits w 0 4 = 3 then some (.vfnms (fld w 20 5) (fld w 15 5) (fld w 10 5) (fld w 7 3) (fld w 4 3)) else
  none

/-- The rows of major 0x15 whose fixed bits the body of w holds. -/
def decodeMajor15 (w : Nat) : Option Instr :=
  if bits w 0 4 = 0 then some (.vaddI (fld w 20 5) (fld w 15 5) (fld w 10 5) (fld w 7 3) (fld w 4 3)) else
  if bits w 0 4 = 1 then some (.vsubI (fld w 20 5) (fld w 15 5) (fld w 10 5) (fld w 7 3) (fld w 4 3)) else
  if bits w 0 4 = 2 then some (.vmulI (fld w 20 5) (fld w 15 5) (fld w 10 5) (fld w 7 3) (fld w 4 3)) else
  if bits w 0 4 = 3 then some (.vmulh (fld w 20 5) (fld w 15 5) (fld w 10 5) (fld w 7 3) (fld w 4 3)) else
  if bits w 0 4 = 4 then some (.vadds (fld w 20 5) (fld w 15 5) (fld w 10 5) (fld w 7 3) (fld w 4 3)) else
  if bits w 0 4 = 5 then some (.vsubs (fld w 20 5) (fld w 15 5) (fld w 10 5) (fld w 7 3) (fld w 4 3)) else
  if bits w 0 4 = 6 then some (.vand (fld w 20 5) (fld w 15 5) (fld w 10 5) (fld w 7 3) (fld w 4 3)) else
  if bits w 0 4 = 7 then some (.vor (fld w 20 5) (fld w 15 5) (fld w 10 5) (fld w 7 3) (fld w 4 3)) else
  if bits w 0 4 = 8 then some (.vxor (fld w 20 5) (fld w 15 5) (fld w 10 5) (fld w 7 3) (fld w 4 3)) else
  if bits w 0 4 = 9 ∧ bits w 10 5 = 0 then some (.vnot (fld w 20 5) (fld w 15 5) (fld w 7 3) (fld w 4 3)) else
  if bits w 0 4 = 9 ∧ bits w 10 5 = 1 then some (.vpopc (fld w 20 5) (fld w 15 5) (fld w 7 3) (fld w 4 3)) else
  if bits w 0 4 = 9 ∧ bits w 10 5 = 2 then some (.vclz (fld w 20 5) (fld w 15 5) (fld w 7 3) (fld w 4 3)) else
  if bits w 0 4 = 10 then some (.vshl (fld w 20 5) (fld w 15 5) (fld w 10 5) (fld w 7 3) (fld w 4 3)) else
  if bits w 0 4 = 11 then some (.vshr (fld w 20 5) (fld w 15 5) (fld w 10 5) (fld w 7 3) (fld w 4 3)) else
  if bits w 0 4 = 12 then some (.vsar (fld w 20 5) (fld w 15 5) (fld w 10 5) (fld w 7 3) (fld w 4 3)) else
  if bits w 0 4 = 13 then some (.vmulhN (fld w 20 5) (fld w 15 5) (fld w 10 5) (fld w 7 3) (fld w 4 3)) else
  if bits w 0 4 = 14 then some (.vaddsN (fld w 20 5) (fld w 15 5) (fld w 10 5) (fld w 7 3) (fld w 4 3)) else
  if bits w 0 4 = 15 then some (.vsubsN (fld w 20 5) (fld w 15 5) (fld w 10 5) (fld w 7 3) (fld w 4 3)) else
  none

/-- The rows of major 0x16 whose fixed bits the body of w holds. -/
def decodeMajor16 (w : Nat) : Option Instr :=
  if bits w 0 4 = 7 then some (.vrankGt (fld w 20 5) (fld w 15 5) (fld w 10 5) (fld w 7 3) (fld w 4 3)) else
  if bits w 3 1 = 0 then some (.vcmp (fld w 20 5) (fld w 15 5) (fld w 10 5) (fld w 7 3) (fld w 4 3) (fld w 0 3)) else
  if bits w 2 2 = 3 then some (.vcmpN (fld w 20 5) (fld w 15 5) (fld w 10 5) (fld w 7 3) (fld w 4 3) (fld w 0 2)) else
  if bits w 0 4 = 8 then some (.vrankGe (fld w 20 5) (fld w 15 5) (fld w 10 5) (fld w 7 3) (fld w 4 3)) else
  if bits w 0 4 = 9 then some (.vsel (fld w 20 5) (fld w 15 5) (fld w 10 5) (fld w 7 3) (fld w 4 3)) else
  if bits w 0 4 = 10 ∧ bits w 13 2 = 0 then some (.vcx (fld w 20 5) (fld w 15 5) (fld w 10 3) (fld w 7 3) (fld w 4 3)) else
  if bits w 0 4 = 11 ∧ bits w 10 5 = 0 then some (.vclass (fld w 20 5) (fld w 15 5) (fld w 7 3) (fld w 4 3)) else
  none

/-- The rows of major 0x17 whose fixed bits the body of w holds. -/
def decodeMajor17 (w : Nat) : Option Instr :=
  if bits w 0 4 = 0 then some (.vperm (fld w 20 5) (fld w 15 5) (fld w 10 5) (fld w 7 3) (fld w 4 3)) else
  if bits w 0 4 = 1 then some (.vrot (fld w 20 5) (fld w 15 5) (fld w 10 5) (fld w 7 3) (fld w 4 3)) else
  if bits w 0 4 = 2 then some (.vslide (fld w 20 5) (fld w 15 5) (fld w 10 5) (fld w 7 3) (fld w 4 3)) else
  if bits w 0 4 = 3 ∧ bits w 10 5 = 0 then some (.vbcast (fld w 20 5) (fld w 15 5) (fld w 7 3) (fld w 4 3)) else
  if bits w 0 4 = 4 ∧ bits w 7 3 = 0 then some (.vext (fld w 20 5) (fld w 15 5) (fld w 10 5) (fld w 4 3)) else
  if bits w 0 4 = 5 ∧ bits w 7 3 = 0 then some (.vins (fld w 20 5) (fld w 15 5) (fld w 10 5) (fld w 4 3)) else
  if bits w 0 4 = 6 ∧ bits w 10 10 = 0 then some (.vidx (fld w 20 5) (fld w 7 3) (fld w 4 3)) else
  if bits w 0 4 = 7 then some (.vzipLo (fld w 20 5) (fld w 15 5) (fld w 10 5) (fld w 7 3) (fld w 4 3)) else
  if bits w 0 4 = 8 then some (.vzipHi (fld w 20 5) (fld w 15 5) (fld w 10 5) (fld w 7 3) (fld w 4 3)) else
  if bits w 0 4 = 9 ∧ bits w 7 3 = 0 then some (.vextN (fld w 20 5) (fld w 15 5) (fld w 10 5) (fld w 4 3)) else
  none

/-- The rows of major 0x18 whose fixed bits the body of w holds. -/
def decodeMajor18 (w : Nat) : Option Instr :=
  if bits w 0 4 = 0 ∧ bits w 10 5 = 0 then some (.vredsum (fld w 20 5) (fld w 15 5) (fld w 7 3) (fld w 4 3)) else
  if bits w 0 4 = 1 ∧ bits w 10 5 = 0 then some (.vredmax (fld w 20 5) (fld w 15 5) (fld w 7 3) (fld w 4 3)) else
  if bits w 0 4 = 2 ∧ bits w 10 5 = 0 then some (.vredmin (fld w 20 5) (fld w 15 5) (fld w 7 3) (fld w 4 3)) else
  if bits w 0 4 = 3 ∧ bits w 10 5 = 0 then some (.vredand (fld w 20 5) (fld w 15 5) (fld w 7 3) (fld w 4 3)) else
  if bits w 0 4 = 4 ∧ bits w 10 5 = 0 then some (.vredor (fld w 20 5) (fld w 15 5) (fld w 7 3) (fld w 4 3)) else
  if bits w 0 4 = 5 ∧ bits w 10 5 = 0 then some (.vredmaxN (fld w 20 5) (fld w 15 5) (fld w 7 3) (fld w 4 3)) else
  if bits w 0 4 = 6 ∧ bits w 10 5 = 0 then some (.vredminN (fld w 20 5) (fld w 15 5) (fld w 7 3) (fld w 4 3)) else
  if bits w 0 4 = 7 ∧ bits w 10 5 = 0 then some (.vredsumN (fld w 20 5) (fld w 15 5) (fld w 7 3) (fld w 4 3)) else
  none

/-- The rows of major 0x19 whose fixed bits the body of w holds. -/
def decodeMajor19 (w : Nat) : Option Instr :=
  if bits w 0 4 = 7 then some (.vldexp (fld w 20 5) (fld w 15 5) (fld w 10 5) (fld w 7 3) (fld w 4 3)) else
  some (.vcvt (fld w 20 5) (fld w 15 5) (fld w 12 3) (fld w 9 3) (fld w 6 3) (fld w 3 3) (fld w 0 3))

/-- The rows of major 0x1A whose fixed bits the body of w holds. -/
def decodeMajor1A (w : Nat) : Option Instr :=
  if bits w 0 4 = 0 ∧ bits w 10 5 = 0 then some (.vexp2 (fld w 20 5) (fld w 15 5) (fld w 7 3) (fld w 4 3)) else
  if bits w 0 4 = 1 ∧ bits w 10 5 = 0 then some (.vlog2 (fld w 20 5) (fld w 15 5) (fld w 7 3) (fld w 4 3)) else
  if bits w 0 4 = 2 ∧ bits w 10 5 = 0 then some (.vrcp (fld w 20 5) (fld w 15 5) (fld w 7 3) (fld w 4 3)) else
  if bits w 0 4 = 3 ∧ bits w 10 5 = 0 then some (.vrsqrt (fld w 20 5) (fld w 15 5) (fld w 7 3) (fld w 4 3)) else
  if bits w 0 4 = 4 then some (.vdiv (fld w 20 5) (fld w 15 5) (fld w 10 5) (fld w 7 3) (fld w 4 3)) else
  if bits w 0 4 = 5 ∧ bits w 10 5 = 0 then some (.vsqrt (fld w 20 5) (fld w 15 5) (fld w 7 3) (fld w 4 3)) else
  none

/-- The rows of major 0x1B whose fixed bits the body of w holds. -/
def decodeMajor1B (w : Nat) : Option Instr :=
  if bits w 16 4 = 15 then some (.ist (fld w 20 5) (fld w 12 4) (fld w 9 3) (fld w 0 9)) else
  some (.ld (fld w 20 5) (fld w 16 4) (fld w 12 4) (fld w 9 3) (fld w 0 9))

/-- The rows of major 0x1C whose fixed bits the body of w holds. -/
def decodeMajor1C (w : Nat) : Option Instr :=
  some (.st (fld w 20 5) (fld w 16 4) (fld w 12 4) (fld w 9 3) (fld w 0 9))

/-- The rows of major 0x1D whose fixed bits the body of w holds. -/
def decodeMajor1D (w : Nat) : Option Instr :=
  if bits w 7 2 = 0 ∧ bits w 16 4 = 15 then some (.vlds (fld w 20 5) (fld w 12 4) (fld w 9 3) (fld w 2 5) (fld w 0 2)) else
  if bits w 0 2 = 0 ∧ bits w 7 2 = 1 ∧ bits w 16 4 = 15 then some (.vgath (fld w 20 5) (fld w 12 4) (fld w 9 3) (fld w 2 5)) else
  if bits w 0 2 = 0 ∧ bits w 7 5 = 2 ∧ bits w 16 4 = 15 then some (.mld (fld w 20 5) (fld w 12 4) (fld w 2 5)) else
  some (.vld (fld w 20 5) (fld w 16 4) (fld w 12 4) (fld w 9 3) (fld w 0 9))

/-- The rows of major 0x1E whose fixed bits the body of w holds. -/
def decodeMajor1E (w : Nat) : Option Instr :=
  if bits w 7 2 = 0 ∧ bits w 16 4 = 15 then some (.vsts (fld w 20 5) (fld w 12 4) (fld w 9 3) (fld w 2 5) (fld w 0 2)) else
  if bits w 0 2 = 0 ∧ bits w 7 2 = 1 ∧ bits w 16 4 = 15 then some (.vscat (fld w 20 5) (fld w 12 4) (fld w 9 3) (fld w 2 5)) else
  if bits w 0 2 = 0 ∧ bits w 7 5 = 2 ∧ bits w 16 4 = 15 then some (.mst (fld w 20 5) (fld w 12 4) (fld w 2 5)) else
  some (.vst (fld w 20 5) (fld w 16 4) (fld w 12 4) (fld w 9 3) (fld w 0 9))

/-- The rows of major 0x1F whose fixed bits the body of w holds. -/
def decodeMajor1F (w : Nat) : Option Instr :=
  if bits w 0 6 = 9 then some (.lamCas (fld w 20 5) (fld w 16 4) (fld w 12 4) (fld w 7 5) (fld w 6 1)) else
  if bits w 0 7 = 10 then some (.lamFac (fld w 20 5) (fld w 16 4) (fld w 12 4) (fld w 7 5)) else
  if bits w 0 12 = 11 then some (.lamFacRd (fld w 20 5) (fld w 16 4) (fld w 12 4)) else
  if bits w 4 2 = 0 then some (.lamOp (fld w 20 5) (fld w 16 4) (fld w 12 4) (fld w 7 5) (fld w 6 1) (fld w 0 4)) else
  none

/-- The rows of major 0x20 whose fixed bits the body of w holds. -/
def decodeMajor20 (w : Nat) : Option Instr :=
  if bits w 0 20 = 0 ∧ bits w 22 3 = 0 then some (.drain (fld w 20 2)) else
  if bits w 0 13 = 0 ∧ bits w 22 3 = 1 then some (.xlat (fld w 18 4) (fld w 13 5)) else
  if bits w 0 13 = 0 ∧ bits w 22 3 = 2 then some (.hstat (fld w 17 5) (fld w 13 4)) else
  if bits w 0 18 = 0 ∧ bits w 22 3 = 3 then some (.hdrop (fld w 18 4)) else
  none

/-- The rows of major 0x21 whose fixed bits the body of w holds. -/
def decodeMajor21 (w : Nat) : Option Instr :=
  if bits w 0 9 = 0 ∧ bits w 22 3 = 0 then some (.tdef (fld w 14 8) (fld w 9 5)) else
  if bits w 0 9 = 0 ∧ bits w 22 3 = 1 then some (.tstat (fld w 14 8) (fld w 9 5)) else
  if bits w 0 12 = 0 ∧ bits w 22 3 = 2 then some (.tset (fld w 14 8) (fld w 12 2)) else
  if bits w 0 14 = 0 ∧ bits w 22 3 = 3 then some (.qdef (fld w 19 3) (fld w 14 5)) else
  if bits w 0 19 = 0 ∧ bits w 22 3 = 4 then some (.qpop (fld w 19 3)) else
  if bits w 0 14 = 0 ∧ bits w 22 3 = 5 then some (.qstat (fld w 19 3) (fld w 14 5)) else
  none

/-- The rows of major 0x22 whose fixed bits the body of w holds. -/
def decodeMajor22 (w : Nat) : Option Instr :=
  if bits w 22 3 = 0 then some (.mma (fld w 16 6) (fld w 8 8) (fld w 0 8)) else
  if bits w 22 3 = 1 then some (.mmas (fld w 16 6) (fld w 8 8) (fld w 0 8)) else
  if bits w 0 16 = 0 ∧ bits w 22 3 = 2 then some (.mzero (fld w 16 6)) else
  if bits w 0 1 = 0 ∧ bits w 22 3 = 3 then some (.mdrain (fld w 16 6) (fld w 8 8) (fld w 7 1) (fld w 2 5) (fld w 1 1)) else
  if bits w 0 8 = 0 ∧ bits w 22 3 = 4 then some (.mload (fld w 16 6) (fld w 8 8)) else
  if bits w 0 16 = 0 ∧ bits w 22 3 = 5 then some (.mwait (fld w 16 6)) else
  none

/-- The rows of major 0x23 whose fixed bits the body of w holds. -/
def decodeMajor23 (w : Nat) : Option Instr :=
  if bits w 0 9 = 0 ∧ bits w 24 1 = 0 then some (.xtrIn (fld w 19 5) (fld w 16 3) (fld w 9 7)) else
  if bits w 0 16 = 0 ∧ bits w 24 1 = 1 then some (.xtrOut (fld w 16 8)) else
  none

/-- The rows of major 0x24 whose fixed bits the body of w holds. -/
def decodeMajor24 (w : Nat) : Option Instr :=
  if bits w 22 3 = 0 then some (.ceCopyTile (fld w 14 8) (fld w 10 4) (fld w 6 4) (fld w 0 6)) else
  if bits w 0 8 = 0 ∧ bits w 22 3 = 1 then some (.ceCopy (fld w 18 4) (fld w 14 4) (fld w 8 6)) else
  if bits w 0 8 = 0 ∧ bits w 22 3 = 2 then some (.ceGath (fld w 18 4) (fld w 14 4) (fld w 8 6)) else
  if bits w 0 8 = 0 ∧ bits w 22 3 = 3 then some (.ceScat (fld w 18 4) (fld w 14 4) (fld w 8 6)) else
  if bits w 0 8 = 0 ∧ bits w 22 3 = 4 then some (.ceFill (fld w 18 4) (fld w 14 4) (fld w 8 6)) else
  if bits w 0 8 = 0 ∧ bits w 22 3 = 5 then some (.ceChk (fld w 18 4) (fld w 14 4) (fld w 8 6)) else
  none

/-- The rows of major 0x25 whose fixed bits the body of w holds. -/
def decodeMajor25 (w : Nat) : Option Instr :=
  if bits w 0 2 = 0 ∧ bits w 21 4 = 0 then some (.shSend (fld w 13 8) (fld w 12 1) (fld w 8 4) (fld w 2 6)) else
  if bits w 21 4 = 1 then some (.shRedAr (fld w 16 5) (fld w 8 8) (fld w 2 6) (fld w 0 2)) else
  if bits w 21 4 = 2 then some (.shRedRs (fld w 16 5) (fld w 8 8) (fld w 2 6) (fld w 0 2)) else
  if bits w 21 4 = 3 then some (.shRedArFac (fld w 16 5) (fld w 8 8) (fld w 2 6) (fld w 0 2)) else
  if bits w 21 4 = 4 then some (.shRedRsFac (fld w 16 5) (fld w 8 8) (fld w 2 6) (fld w 0 2)) else
  if bits w 0 2 = 0 ∧ bits w 21 4 = 5 then some (.shGath (fld w 16 5) (fld w 8 8) (fld w 2 6)) else
  if bits w 21 4 = 6 then some (.shBcast (fld w 16 5) (fld w 8 8) (fld w 2 6) (fld w 0 2)) else
  if bits w 0 2 = 0 ∧ bits w 21 4 = 7 then some (.shA2a (fld w 16 5) (fld w 8 8) (fld w 2 6)) else
  if bits w 0 1 = 0 ∧ bits w 21 4 = 8 then some (.shRot (fld w 16 5) (fld w 8 8) (fld w 2 6) (fld w 1 1)) else
  if bits w 0 16 = 0 ∧ bits w 21 4 = 9 then some (.shStat (fld w 16 5)) else
  none

/-- The rows of major 0x26 whose fixed bits the body of w holds. -/
def decodeMajor26 (w : Nat) : Option Instr :=
  if bits w 0 9 = 0 ∧ bits w 23 2 = 0 then some (.acset (fld w 17 6) (fld w 12 5) (fld w 9 3)) else
  if bits w 12 5 = 0 ∧ bits w 23 2 = 1 then some (.acadd (fld w 17 6) (fld w 9 3) (fld w 0 9)) else
  if bits w 23 2 = 2 then some (.acwait (fld w 17 6) (fld w 12 5) (fld w 9 3) (fld w 0 9)) else
  if bits w 0 9 = 0 ∧ bits w 23 2 = 3 then some (.acrd (fld w 17 6) (fld w 12 5) (fld w 9 3)) else
  none

/-- The rows of major 0x27 whose fixed bits the body of w holds. -/
def decodeMajor27 (w : Nat) : Option Instr :=
  if bits w 0 3 = 0 ∧ bits w 21 4 = 0 then some (.thLd (fld w 17 4) (fld w 13 4) (fld w 9 4) (fld w 3 6)) else
  if bits w 0 3 = 0 ∧ bits w 21 4 = 1 then some (.thSt (fld w 17 4) (fld w 13 4) (fld w 9 4) (fld w 3 6)) else
  if bits w 0 3 = 0 ∧ bits w 21 4 = 2 then some (.thAmo (fld w 17 4) (fld w 13 4) (fld w 9 4) (fld w 3 6)) else
  if bits w 0 3 = 0 ∧ bits w 21 4 = 3 then some (.thCas (fld w 17 4) (fld w 13 4) (fld w 9 4) (fld w 3 6)) else
  if bits w 0 3 = 0 ∧ bits w 21 4 = 4 then some (.thEnq (fld w 17 4) (fld w 13 4) (fld w 9 4) (fld w 3 6)) else
  if bits w 0 3 = 0 ∧ bits w 21 4 = 5 then some (.thDeq (fld w 17 4) (fld w 13 4) (fld w 9 4) (fld w 3 6)) else
  if bits w 0 3 = 0 ∧ bits w 21 4 = 6 then some (.thChase (fld w 17 4) (fld w 13 4) (fld w 9 4) (fld w 3 6)) else
  if bits w 0 3 = 0 ∧ bits w 21 4 = 7 then some (.thClaim (fld w 17 4) (fld w 13 4) (fld w 9 4) (fld w 3 6)) else
  if bits w 0 3 = 0 ∧ bits w 21 4 = 8 then some (.thFac (fld w 17 4) (fld w 13 4) (fld w 9 4) (fld w 3 6)) else
  if bits w 0 3 = 0 ∧ bits w 21 4 = 9 then some (.thCall (fld w 17 4) (fld w 13 4) (fld w 9 4) (fld w 3 6)) else
  none

/-- The rows of major 0x28 whose fixed bits the body of w holds. -/
def decodeMajor28 (w : Nat) : Option Instr :=
  if bits w 0 9 = 0 ∧ bits w 24 1 = 0 then some (.mbPost (fld w 19 5) (fld w 15 4) (fld w 9 6)) else
  if bits w 0 4 = 0 ∧ bits w 24 1 = 1 then some (.mbTake (fld w 22 2) (fld w 18 4) (fld w 13 5) (fld w 10 3) (fld w 4 6)) else
  none

/-- The rows of major 0x29 whose fixed bits the body of w holds. -/
def decodeMajor29 (w : Nat) : Option Instr :=
  if bits w 0 10 = 0 ∧ bits w 21 4 = 0 then some (.clBind (fld w 16 5) (fld w 10 6)) else
  if bits w 0 7 = 0 ∧ bits w 21 4 = 1 then some (.clLd (fld w 17 4) (fld w 13 4) (fld w 7 6)) else
  if bits w 0 10 = 0 ∧ bits w 21 4 = 2 then some (.clClr (fld w 16 5) (fld w 10 6)) else
  if bits w 0 10 = 0 ∧ bits w 21 4 = 3 then some (.clDec (fld w 16 5) (fld w 10 6)) else
  if bits w 0 10 = 0 ∧ bits w 21 4 = 4 then some (.clProp (fld w 16 5) (fld w 10 6)) else
  if bits w 0 10 = 0 ∧ bits w 21 4 = 5 then some (.clBt (fld w 16 5) (fld w 10 6)) else
  if bits w 0 7 = 0 ∧ bits w 21 4 = 6 then some (.clSt (fld w 17 4) (fld w 13 4) (fld w 7 6)) else
  if bits w 0 11 = 0 ∧ bits w 21 4 = 7 then some (.clRd (fld w 16 5) (fld w 11 5)) else
  if bits w 0 10 = 0 ∧ bits w 21 4 = 8 then some (.clCol (fld w 16 5) (fld w 10 6)) else
  if bits w 0 16 = 0 ∧ bits w 21 4 = 9 then some (.clMask (fld w 18 3) (fld w 16 2)) else
  if bits w 0 13 = 0 ∧ bits w 21 4 = 10 then some (.clLvl (fld w 18 3) (fld w 13 5)) else
  none

/-- The row that the fixed bits of a slot word select (R26), before the checks of WellFormed. -/
def decodeRaw (w : Nat) : Option Instr :=
  match bits w 25 6 with
  | 1 => decodeMajor01 w
  | 2 => decodeMajor02 w
  | 3 => decodeMajor03 w
  | 4 => decodeMajor04 w
  | 5 => decodeMajor05 w
  | 6 => decodeMajor06 w
  | 7 => decodeMajor07 w
  | 8 => decodeMajor08 w
  | 9 => decodeMajor09 w
  | 10 => decodeMajor0A w
  | 11 => decodeMajor0B w
  | 12 => decodeMajor0C w
  | 13 => decodeMajor0D w
  | 14 => decodeMajor0E w
  | 15 => decodeMajor0F w
  | 16 => decodeMajor10 w
  | 17 => decodeMajor11 w
  | 18 => decodeMajor12 w
  | 19 => decodeMajor13 w
  | 20 => decodeMajor14 w
  | 21 => decodeMajor15 w
  | 22 => decodeMajor16 w
  | 23 => decodeMajor17 w
  | 24 => decodeMajor18 w
  | 25 => decodeMajor19 w
  | 26 => decodeMajor1A w
  | 27 => decodeMajor1B w
  | 28 => decodeMajor1C w
  | 29 => decodeMajor1D w
  | 30 => decodeMajor1E w
  | 31 => decodeMajor1F w
  | 32 => decodeMajor20 w
  | 33 => decodeMajor21 w
  | 34 => decodeMajor22 w
  | 35 => decodeMajor23 w
  | 36 => decodeMajor24 w
  | 37 => decodeMajor25 w
  | 38 => decodeMajor26 w
  | 39 => decodeMajor27 w
  | 40 => decodeMajor28 w
  | 41 => decodeMajor29 w
  | _ => none

/-- A thimble routine word (R300): bits 31:26 select the op. -/
noncomputable def decodeRoutine (w : Nat) : Option Instr :=
  match bits w 26 6 with
  | 0 => some (.routineEnd (fld w 23 3) (fld w 20 3) (fld w 17 3) (fld w 0 17))
  | 1 => some (.routineLd (fld w 23 3) (fld w 20 3) (fld w 17 3) (fld w 0 17))
  | 2 => some (.routineSt (fld w 23 3) (fld w 20 3) (fld w 17 3) (fld w 0 17))
  | 3 => some (.routineLdc (fld w 23 3) (fld w 20 3) (fld w 17 3) (fld w 0 17))
  | 4 => some (.routineStc (fld w 23 3) (fld w 20 3) (fld w 17 3) (fld w 0 17))
  | 5 => some (.routineAdd (fld w 23 3) (fld w 20 3) (fld w 17 3) (fld w 0 17))
  | 6 => some (.routineSub (fld w 23 3) (fld w 20 3) (fld w 17 3) (fld w 0 17))
  | 7 => some (.routineAnd (fld w 23 3) (fld w 20 3) (fld w 17 3) (fld w 0 17))
  | 8 => some (.routineOr (fld w 23 3) (fld w 20 3) (fld w 17 3) (fld w 0 17))
  | 9 => some (.routineXor (fld w 23 3) (fld w 20 3) (fld w 17 3) (fld w 0 17))
  | 10 => some (.routineMin (fld w 23 3) (fld w 20 3) (fld w 17 3) (fld w 0 17))
  | 11 => some (.routineMax (fld w 23 3) (fld w 20 3) (fld w 17 3) (fld w 0 17))
  | 12 => some (.routineMinn (fld w 23 3) (fld w 20 3) (fld w 17 3) (fld w 0 17))
  | 13 => some (.routineMaxn (fld w 23 3) (fld w 20 3) (fld w 17 3) (fld w 0 17))
  | 14 => some (.routineShl (fld w 23 3) (fld w 20 3) (fld w 17 3) (fld w 0 17))
  | 15 => some (.routineShr (fld w 23 3) (fld w 20 3) (fld w 17 3) (fld w 0 17))
  | 16 => some (.routineAddi (fld w 23 3) (fld w 20 3) (fld w 17 3) (fld w 0 17))
  | 17 => some (.routineMovi (fld w 23 3) (fld w 20 3) (fld w 17 3) (fld w 0 17))
  | 18 => some (.routineBeq (fld w 23 3) (fld w 20 3) (fld w 17 3) (fld w 0 17))
  | 19 => some (.routineBne (fld w 23 3) (fld w 20 3) (fld w 17 3) (fld w 0 17))
  | 20 => some (.routineBlt (fld w 23 3) (fld w 20 3) (fld w 17 3) (fld w 0 17))
  | 21 => some (.routineBltn (fld w 23 3) (fld w 20 3) (fld w 17 3) (fld w 0 17))
  | _ => none

/-- The stop bit of a slot word (R15). -/
def stopBit (w : Nat) : Bool := bits w 31 1 == 1

/-- The operation of a slot word, or why it is none. The stop bit is no part of the operation. -/
def decodeSlot (w : Nat) : Except DecodeError Instr :=
  if bits w 25 6 = 0 then .error .header
  else if 0x2A ≤ bits w 25 6 then .error .reservedMajor
  else match decodeRaw w with
    | some i => if wellFormed i then .ok i else .error .illegalWord
    | none => .error .illegalWord

/-- A 32-bit word from its four bytes, least significant first (R13). -/
def wordOfBytes (b0 b1 b2 b3 : Byte) : Nat :=
  b0.toNat + b1.toNat * 256 + b2.toNat * 65536 + b3.toNat * 16777216

/-- The decoder on bytes as the instruction scratchpad holds them (R13). -/
def decodeBytes : List Byte → Except DecodeError Instr
  | b0 :: b1 :: b2 :: b3 :: _ => decodeSlot (wordOfBytes b0 b1 b2 b3)
  | _ => .error .illegalWord

/-- The bytes of a word, least significant first (R13). -/
def bytesOfWord (w : Nat) : List Byte :=
  [BitVec.ofNat 8 w, BitVec.ofNat 8 (w / 256), BitVec.ofNat 8 (w / 65536), BitVec.ofNat 8 (w / 16777216)]


/-- The word of an instruction, its stop bit 0, from the encoding tables of each family; 0 for the steps
that have no word. -/
def encode : Instr → Nat
  | .nop => 0x2000000
  | .shd => 0x2000001
  | .halt p => 0x2000002 + p.toNat * 128
  | .idle p => 0x2000003 + p.toNat * 128
  | .add d a b p w => 0x4000000 + d.toNat * 1048576 + a.toNat * 32768 + b.toNat * 1024 + p.toNat * 128 + w.toNat * 64
  | .sub d a b p w => 0x4000001 + d.toNat * 1048576 + a.toNat * 32768 + b.toNat * 1024 + p.toNat * 128 + w.toNat * 64
  | .mul d a b p w => 0x4000002 + d.toNat * 1048576 + a.toNat * 32768 + b.toNat * 1024 + p.toNat * 128 + w.toNat * 64
  | .mulh d a b p w => 0x4000003 + d.toNat * 1048576 + a.toNat * 32768 + b.toNat * 1024 + p.toNat * 128 + w.toNat * 64
  | .mulhn d a b p w => 0x4000004 + d.toNat * 1048576 + a.toNat * 32768 + b.toNat * 1024 + p.toNat * 128 + w.toNat * 64
  | .div d a b p w => 0x4000005 + d.toNat * 1048576 + a.toNat * 32768 + b.toNat * 1024 + p.toNat * 128 + w.toNat * 64
  | .divn d a b p w => 0x4000006 + d.toNat * 1048576 + a.toNat * 32768 + b.toNat * 1024 + p.toNat * 128 + w.toNat * 64
  | .rem d a b p w => 0x4000007 + d.toNat * 1048576 + a.toNat * 32768 + b.toNat * 1024 + p.toNat * 128 + w.toNat * 64
  | .remn d a b p w => 0x4000008 + d.toNat * 1048576 + a.toNat * 32768 + b.toNat * 1024 + p.toNat * 128 + w.toNat * 64
  | .andOp d a b p w => 0x4000009 + d.toNat * 1048576 + a.toNat * 32768 + b.toNat * 1024 + p.toNat * 128 + w.toNat * 64
  | .orOp d a b p w => 0x400000a + d.toNat * 1048576 + a.toNat * 32768 + b.toNat * 1024 + p.toNat * 128 + w.toNat * 64
  | .xorOp d a b p w => 0x400000b + d.toNat * 1048576 + a.toNat * 32768 + b.toNat * 1024 + p.toNat * 128 + w.toNat * 64
  | .shl d a b p w => 0x400000c + d.toNat * 1048576 + a.toNat * 32768 + b.toNat * 1024 + p.toNat * 128 + w.toNat * 64
  | .shr d a b p w => 0x400000d + d.toNat * 1048576 + a.toNat * 32768 + b.toNat * 1024 + p.toNat * 128 + w.toNat * 64
  | .sar d a b p w => 0x400000e + d.toNat * 1048576 + a.toNat * 32768 + b.toNat * 1024 + p.toNat * 128 + w.toNat * 64
  | .minOp d a b p w => 0x400000f + d.toNat * 1048576 + a.toNat * 32768 + b.toNat * 1024 + p.toNat * 128 + w.toNat * 64
  | .maxOp d a b p w => 0x4000010 + d.toNat * 1048576 + a.toNat * 32768 + b.toNat * 1024 + p.toNat * 128 + w.toNat * 64
  | .minn d a b p w => 0x4000011 + d.toNat * 1048576 + a.toNat * 32768 + b.toNat * 1024 + p.toNat * 128 + w.toNat * 64
  | .maxn d a b p w => 0x4000012 + d.toNat * 1048576 + a.toNat * 32768 + b.toNat * 1024 + p.toNat * 128 + w.toNat * 64
  | .sel d a b p w => 0x4000013 + d.toNat * 1048576 + a.toNat * 32768 + b.toNat * 1024 + p.toNat * 128 + w.toNat * 64
  | .crc d a b p w => 0x4000014 + d.toNat * 1048576 + a.toNat * 32768 + b.toNat * 1024 + p.toNat * 128 + w.toNat * 64
  | .addi d a p i => 0x6000000 + d.toNat * 1048576 + a.toNat * 32768 + p.toNat * 4096 + i.toNat
  | .andi d a p i => 0x8000000 + d.toNat * 1048576 + a.toNat * 32768 + p.toNat * 4096 + i.toNat
  | .ori d a p i => 0x8000400 + d.toNat * 1048576 + a.toNat * 32768 + p.toNat * 4096 + i.toNat
  | .xori d a p i => 0x8000800 + d.toNat * 1048576 + a.toNat * 32768 + p.toNat * 4096 + i.toNat
  | .shli d a p c => 0xa000000 + d.toNat * 1048576 + a.toNat * 32768 + p.toNat * 4096 + c.toNat
  | .shri d a p c => 0xa000400 + d.toNat * 1048576 + a.toNat * 32768 + p.toNat * 4096 + c.toNat
  | .sari d a p c => 0xa000800 + d.toNat * 1048576 + a.toNat * 32768 + p.toNat * 4096 + c.toNat
  | .movi d p i => 0xc000000 + d.toNat * 1048576 + p.toNat * 4096 + i.toNat
  | .movh d p i => 0xc008000 + d.toNat * 1048576 + p.toNat * 4096 + i.toNat
  | .clz d a => 0xe000000 + d.toNat * 1048576 + a.toNat * 32768
  | .ctz d a => 0xe001000 + d.toNat * 1048576 + a.toNat * 32768
  | .popc d a => 0xe002000 + d.toNat * 1048576 + a.toNat * 32768
  | .sext d a n => 0xe003000 + d.toNat * 1048576 + a.toNat * 32768 + n.toNat
  | .zext d a n => 0xe004000 + d.toNat * 1048576 + a.toNat * 32768 + n.toNat
  | .bfx d a o n => 0xe005000 + d.toNat * 1048576 + a.toNat * 32768 + o.toNat * 64 + n.toNat
  | .bfi d a o n => 0xe006000 + d.toNat * 1048576 + a.toNat * 32768 + o.toNat * 64 + n.toNat
  | .cmp d c w p a b => 0x10000000 + d.toNat * 4194304 + c.toNat * 524288 + w.toNat * 131072 + p.toNat * 16384 + a.toNat * 512 + b.toNat * 16
  | .cmpi d c w p a i => 0x10040000 + d.toNat * 4194304 + c.toNat * 524288 + w.toNat * 131072 + p.toNat * 16384 + a.toNat * 512 + i.toNat
  | .pand d a b p => 0x12000000 + d.toNat * 1048576 + a.toNat * 32768 + b.toNat * 1024 + p.toNat * 128
  | .por d a b p => 0x12000001 + d.toNat * 1048576 + a.toNat * 32768 + b.toNat * 1024 + p.toNat * 128
  | .pxor d a b p => 0x12000002 + d.toNat * 1048576 + a.toNat * 32768 + b.toNat * 1024 + p.toNat * 128
  | .pnot d a p => 0x12000003 + d.toNat * 1048576 + a.toNat * 32768 + p.toNat * 128
  | .pmov d a p => 0x12000004 + d.toNat * 1048576 + a.toNat * 32768 + p.toNat * 128
  | .mand d a b p => 0x12000005 + d.toNat * 1048576 + a.toNat * 32768 + b.toNat * 1024 + p.toNat * 128
  | .mor d a b p => 0x12000006 + d.toNat * 1048576 + a.toNat * 32768 + b.toNat * 1024 + p.toNat * 128
  | .mxor d a b p => 0x12000007 + d.toNat * 1048576 + a.toNat * 32768 + b.toNat * 1024 + p.toNat * 128
  | .mnot d a p => 0x12000008 + d.toNat * 1048576 + a.toNat * 32768 + p.toNat * 128
  | .mpop d a p => 0x12000009 + d.toNat * 1048576 + a.toNat * 32768 + p.toNat * 128
  | .mfirst d a p => 0x1200000a + d.toNat * 1048576 + a.toNat * 32768 + p.toNat * 128
  | .mset d a p => 0x1200000b + d.toNat * 1048576 + a.toNat * 32768 + p.toNat * 128
  | .xcp d a k p => 0x14000000 + d.toNat * 1048576 + a.toNat * 32768 + k.toNat * 8192 + p.toNat * 1024
  | .xcpv d a k p => 0x14000001 + d.toNat * 1048576 + a.toNat * 32768 + k.toNat * 8192 + p.toNat * 1024
  | .xcpm d a k p => 0x14000002 + d.toNat * 1048576 + a.toNat * 32768 + k.toNat * 8192 + p.toNat * 1024
  | .xcpw d a k p => 0x14000003 + d.toNat * 1048576 + a.toNat * 32768 + k.toNat * 8192 + p.toNat * 1024
  | .aadd d a p b => 0x16000000 + d.toNat * 1048576 + a.toNat * 32768 + p.toNat * 4096 + b.toNat * 16
  | .aaddImm d a p i => 0x16000200 + d.toNat * 1048576 + a.toNat * 32768 + p.toNat * 4096 + i.toNat
  | .amov d a p => 0x16000400 + d.toNat * 1048576 + a.toNat * 32768 + p.toNat * 4096
  | .aread d a p => 0x16000600 + d.toNat * 1048576 + a.toNat * 32768 + p.toNat * 4096
  | .luset d a p l => 0x16000800 + d.toNat * 1048576 + a.toNat * 32768 + p.toNat * 4096 + l.toNat * 64
  | .lurd d a p l => 0x16000a00 + d.toNat * 1048576 + a.toNat * 32768 + p.toNat * 4096 + l.toNat * 64
  | .br p o => 0x18000000 + p.toNat * 2097152 + o.toNat
  | .call p o => 0x19000000 + p.toNat * 2097152 + o.toNat
  | .jr p a => 0x1a000000 + p.toNat * 1048576 + a.toNat * 32768
  | .ret p => 0x1a800000 + p.toNat * 1048576
  | .bswap p a => 0x1b000000 + p.toNat * 1048576 + a.toNat * 32768
  | .loop a e => 0x1c000000 + a.toNat * 32768 + e.toNat
  | .loopi n e => 0x1c800000 + n.toNat * 1024 + e.toNat
  | .lbrk p => 0x1d000000 + p.toNat * 1048576
  | .lidx d k => 0x1d800000 + d.toNat * 32768 + k.toNat * 4096
  | .tack => 0x1e000000
  | .seam i => 0x1e800000 + i.toNat
  | .notch n => 0x1f000000 + n.toNat
  | .ifence => 0x1f800000
  | .chkEq a b p => 0x20000000 + a.toNat * 131072 + b.toNat * 4096 + p.toNat * 512
  | .chkNe a b p => 0x20400000 + a.toNat * 131072 + b.toNat * 4096 + p.toNat * 512
  | .trapOp c p => 0x20800000 + c.toNat * 4096 + p.toNat * 512
  | .fmt v p => 0x22000000 + v.toNat * 1024 + p.toNat * 128
  | .fmtr d p => 0x22000001 + d.toNat * 1048576 + p.toNat * 128
  | .mfsr d r p c k => 0x22000002 + d.toNat * 1048576 + r.toNat * 1024 + p.toNat * 128 + c.toNat * 64 + k.toNat * 16
  | .mtsr a r p c k => 0x22000003 + a.toNat * 1048576 + r.toNat * 1024 + p.toNat * 128 + c.toNat * 64 + k.toNat * 16
  | .eret c p => 0x22000004 + c.toNat * 1024 + p.toNat * 128
  | .lyield p => 0x22000005 + p.toNat * 128
  | .inject a p => 0x22000006 + a.toNat * 1048576 + p.toNat * 128
  | .agr g x y o c h n => 0x24000000 + g.toNat * 524288 + x.toNat * 16384 + y.toNat * 512 + o.toNat * 64 + c.toNat * 8 + h.toNat * 2 + n.toNat
  | .agv g d x o n => 0x25000000 + g.toNat * 131072 + d.toNat * 4096 + x.toNat * 128 + o.toNat * 16 + n.toNat * 8
  | .agj g => 0x25400000 + g.toNat * 131072
  | .agst g d a => 0x25800000 + g.toNat * 131072 + d.toNat * 4096 + a.toNat * 128
  | .vaddF d a b m t => 0x26000000 + d.toNat * 1048576 + a.toNat * 32768 + b.toNat * 1024 + m.toNat * 128 + t.toNat * 16
  | .vsubF d a b m t => 0x26000001 + d.toNat * 1048576 + a.toNat * 32768 + b.toNat * 1024 + m.toNat * 128 + t.toNat * 16
  | .vmulF d a b m t => 0x26000002 + d.toNat * 1048576 + a.toNat * 32768 + b.toNat * 1024 + m.toNat * 128 + t.toNat * 16
  | .vmin d a b m t => 0x26000003 + d.toNat * 1048576 + a.toNat * 32768 + b.toNat * 1024 + m.toNat * 128 + t.toNat * 16
  | .vmax d a b m t => 0x26000004 + d.toNat * 1048576 + a.toNat * 32768 + b.toNat * 1024 + m.toNat * 128 + t.toNat * 16
  | .vabs d a m t => 0x26000005 + d.toNat * 1048576 + a.toNat * 32768 + m.toNat * 128 + t.toNat * 16
  | .vneg d a m t => 0x26000006 + d.toNat * 1048576 + a.toNat * 32768 + m.toNat * 128 + t.toNat * 16
  | .vcopysign d a b m t => 0x26000007 + d.toNat * 1048576 + a.toNat * 32768 + b.toNat * 1024 + m.toNat * 128 + t.toNat * 16
  | .vfma d a b m t => 0x28000000 + d.toNat * 1048576 + a.toNat * 32768 + b.toNat * 1024 + m.toNat * 128 + t.toNat * 16
  | .vfms d a b m t => 0x28000001 + d.toNat * 1048576 + a.toNat * 32768 + b.toNat * 1024 + m.toNat * 128 + t.toNat * 16
  | .vfnma d a b m t => 0x28000002 + d.toNat * 1048576 + a.toNat * 32768 + b.toNat * 1024 + m.toNat * 128 + t.toNat * 16
  | .vfnms d a b m t => 0x28000003 + d.toNat * 1048576 + a.toNat * 32768 + b.toNat * 1024 + m.toNat * 128 + t.toNat * 16
  | .vaddI d a b m t => 0x2a000000 + d.toNat * 1048576 + a.toNat * 32768 + b.toNat * 1024 + m.toNat * 128 + t.toNat * 16
  | .vsubI d a b m t => 0x2a000001 + d.toNat * 1048576 + a.toNat * 32768 + b.toNat * 1024 + m.toNat * 128 + t.toNat * 16
  | .vmulI d a b m t => 0x2a000002 + d.toNat * 1048576 + a.toNat * 32768 + b.toNat * 1024 + m.toNat * 128 + t.toNat * 16
  | .vmulh d a b m t => 0x2a000003 + d.toNat * 1048576 + a.toNat * 32768 + b.toNat * 1024 + m.toNat * 128 + t.toNat * 16
  | .vadds d a b m t => 0x2a000004 + d.toNat * 1048576 + a.toNat * 32768 + b.toNat * 1024 + m.toNat * 128 + t.toNat * 16
  | .vsubs d a b m t => 0x2a000005 + d.toNat * 1048576 + a.toNat * 32768 + b.toNat * 1024 + m.toNat * 128 + t.toNat * 16
  | .vand d a b m t => 0x2a000006 + d.toNat * 1048576 + a.toNat * 32768 + b.toNat * 1024 + m.toNat * 128 + t.toNat * 16
  | .vor d a b m t => 0x2a000007 + d.toNat * 1048576 + a.toNat * 32768 + b.toNat * 1024 + m.toNat * 128 + t.toNat * 16
  | .vxor d a b m t => 0x2a000008 + d.toNat * 1048576 + a.toNat * 32768 + b.toNat * 1024 + m.toNat * 128 + t.toNat * 16
  | .vnot d a m t => 0x2a000009 + d.toNat * 1048576 + a.toNat * 32768 + m.toNat * 128 + t.toNat * 16
  | .vpopc d a m t => 0x2a000409 + d.toNat * 1048576 + a.toNat * 32768 + m.toNat * 128 + t.toNat * 16
  | .vclz d a m t => 0x2a000809 + d.toNat * 1048576 + a.toNat * 32768 + m.toNat * 128 + t.toNat * 16
  | .vshl d a b m t => 0x2a00000a + d.toNat * 1048576 + a.toNat * 32768 + b.toNat * 1024 + m.toNat * 128 + t.toNat * 16
  | .vshr d a b m t => 0x2a00000b + d.toNat * 1048576 + a.toNat * 32768 + b.toNat * 1024 + m.toNat * 128 + t.toNat * 16
  | .vsar d a b m t => 0x2a00000c + d.toNat * 1048576 + a.toNat * 32768 + b.toNat * 1024 + m.toNat * 128 + t.toNat * 16
  | .vmulhN d a b m t => 0x2a00000d + d.toNat * 1048576 + a.toNat * 32768 + b.toNat * 1024 + m.toNat * 128 + t.toNat * 16
  | .vaddsN d a b m t => 0x2a00000e + d.toNat * 1048576 + a.toNat * 32768 + b.toNat * 1024 + m.toNat * 128 + t.toNat * 16
  | .vsubsN d a b m t => 0x2a00000f + d.toNat * 1048576 + a.toNat * 32768 + b.toNat * 1024 + m.toNat * 128 + t.toNat * 16
  | .vcmp d a b m t c => 0x2c000000 + d.toNat * 1048576 + a.toNat * 32768 + b.toNat * 1024 + m.toNat * 128 + t.toNat * 16 + c.toNat
  | .vcmpN d a b m t c => 0x2c00000c + d.toNat * 1048576 + a.toNat * 32768 + b.toNat * 1024 + m.toNat * 128 + t.toNat * 16 + c.toNat
  | .vrankGt d a b m t => 0x2c000007 + d.toNat * 1048576 + a.toNat * 32768 + b.toNat * 1024 + m.toNat * 128 + t.toNat * 16
  | .vrankGe d a b m t => 0x2c000008 + d.toNat * 1048576 + a.toNat * 32768 + b.toNat * 1024 + m.toNat * 128 + t.toNat * 16
  | .vsel d a b m t => 0x2c000009 + d.toNat * 1048576 + a.toNat * 32768 + b.toNat * 1024 + m.toNat * 128 + t.toNat * 16
  | .vcx x y d m t => 0x2c00000a + x.toNat * 1048576 + y.toNat * 32768 + d.toNat * 1024 + m.toNat * 128 + t.toNat * 16
  | .vclass d a m t => 0x2c00000b + d.toNat * 1048576 + a.toNat * 32768 + m.toNat * 128 + t.toNat * 16
  | .vperm d a b m t => 0x2e000000 + d.toNat * 1048576 + a.toNat * 32768 + b.toNat * 1024 + m.toNat * 128 + t.toNat * 16
  | .vrot d a b m t => 0x2e000001 + d.toNat * 1048576 + a.toNat * 32768 + b.toNat * 1024 + m.toNat * 128 + t.toNat * 16
  | .vslide d a b m t => 0x2e000002 + d.toNat * 1048576 + a.toNat * 32768 + b.toNat * 1024 + m.toNat * 128 + t.toNat * 16
  | .vbcast d a m t => 0x2e000003 + d.toNat * 1048576 + a.toNat * 32768 + m.toNat * 128 + t.toNat * 16
  | .vext d a b t => 0x2e000004 + d.toNat * 1048576 + a.toNat * 32768 + b.toNat * 1024 + t.toNat * 16
  | .vins d a b t => 0x2e000005 + d.toNat * 1048576 + a.toNat * 32768 + b.toNat * 1024 + t.toNat * 16
  | .vidx d m t => 0x2e000006 + d.toNat * 1048576 + m.toNat * 128 + t.toNat * 16
  | .vzipLo d a b m t => 0x2e000007 + d.toNat * 1048576 + a.toNat * 32768 + b.toNat * 1024 + m.toNat * 128 + t.toNat * 16
  | .vzipHi d a b m t => 0x2e000008 + d.toNat * 1048576 + a.toNat * 32768 + b.toNat * 1024 + m.toNat * 128 + t.toNat * 16
  | .vextN d a b t => 0x2e000009 + d.toNat * 1048576 + a.toNat * 32768 + b.toNat * 1024 + t.toNat * 16
  | .vredsum d a m t => 0x30000000 + d.toNat * 1048576 + a.toNat * 32768 + m.toNat * 128 + t.toNat * 16
  | .vredmax d a m t => 0x30000001 + d.toNat * 1048576 + a.toNat * 32768 + m.toNat * 128 + t.toNat * 16
  | .vredmin d a m t => 0x30000002 + d.toNat * 1048576 + a.toNat * 32768 + m.toNat * 128 + t.toNat * 16
  | .vredand d a m t => 0x30000003 + d.toNat * 1048576 + a.toNat * 32768 + m.toNat * 128 + t.toNat * 16
  | .vredor d a m t => 0x30000004 + d.toNat * 1048576 + a.toNat * 32768 + m.toNat * 128 + t.toNat * 16
  | .vredmaxN d a m t => 0x30000005 + d.toNat * 1048576 + a.toNat * 32768 + m.toNat * 128 + t.toNat * 16
  | .vredminN d a m t => 0x30000006 + d.toNat * 1048576 + a.toNat * 32768 + m.toNat * 128 + t.toNat * 16
  | .vredsumN d a m t => 0x30000007 + d.toNat * 1048576 + a.toNat * 32768 + m.toNat * 128 + t.toNat * 16
  | .vcvt d a m st t r u => 0x32000000 + d.toNat * 1048576 + a.toNat * 32768 + m.toNat * 4096 + st.toNat * 512 + t.toNat * 64 + r.toNat * 8 + u.toNat
  | .vldexp d a b m t => 0x32000007 + d.toNat * 1048576 + a.toNat * 32768 + b.toNat * 1024 + m.toNat * 128 + t.toNat * 16
  | .vexp2 d a m t => 0x34000000 + d.toNat * 1048576 + a.toNat * 32768 + m.toNat * 128 + t.toNat * 16
  | .vlog2 d a m t => 0x34000001 + d.toNat * 1048576 + a.toNat * 32768 + m.toNat * 128 + t.toNat * 16
  | .vrcp d a m t => 0x34000002 + d.toNat * 1048576 + a.toNat * 32768 + m.toNat * 128 + t.toNat * 16
  | .vrsqrt d a m t => 0x34000003 + d.toNat * 1048576 + a.toNat * 32768 + m.toNat * 128 + t.toNat * 16
  | .vdiv d a b m t => 0x34000004 + d.toNat * 1048576 + a.toNat * 32768 + b.toNat * 1024 + m.toNat * 128 + t.toNat * 16
  | .vsqrt d a m t => 0x34000005 + d.toNat * 1048576 + a.toNat * 32768 + m.toNat * 128 + t.toNat * 16
  | .ld d h a w i => 0x36000000 + d.toNat * 1048576 + h.toNat * 65536 + a.toNat * 4096 + w.toNat * 512 + i.toNat
  | .ist d a p i => 0x360f0000 + d.toNat * 1048576 + a.toNat * 4096 + p.toNat * 512 + i.toNat
  | .st d h a w i => 0x38000000 + d.toNat * 1048576 + h.toNat * 65536 + a.toNat * 4096 + w.toNat * 512 + i.toNat
  | .vld d h a m i => 0x3a000000 + d.toNat * 1048576 + h.toNat * 65536 + a.toNat * 4096 + m.toNat * 512 + i.toNat
  | .vlds d n m x w => 0x3a0f0000 + d.toNat * 1048576 + n.toNat * 4096 + m.toNat * 512 + x.toNat * 4 + w.toNat
  | .vgath d n m x => 0x3a0f0080 + d.toNat * 1048576 + n.toNat * 4096 + m.toNat * 512 + x.toNat * 4
  | .mld d n x => 0x3a0f0100 + d.toNat * 1048576 + n.toNat * 4096 + x.toNat * 4
  | .vst d h a m i => 0x3c000000 + d.toNat * 1048576 + h.toNat * 65536 + a.toNat * 4096 + m.toNat * 512 + i.toNat
  | .vsts d n m x w => 0x3c0f0000 + d.toNat * 1048576 + n.toNat * 4096 + m.toNat * 512 + x.toNat * 4 + w.toNat
  | .vscat d n m x => 0x3c0f0080 + d.toNat * 1048576 + n.toNat * 4096 + m.toNat * 512 + x.toNat * 4
  | .mst d n x => 0x3c0f0100 + d.toNat * 1048576 + n.toNat * 4096 + x.toNat * 4
  | .lamOp d h a b w o => 0x3e000000 + d.toNat * 1048576 + h.toNat * 65536 + a.toNat * 4096 + b.toNat * 128 + w.toNat * 64 + o.toNat
  | .lamCas d h a b w => 0x3e000009 + d.toNat * 1048576 + h.toNat * 65536 + a.toNat * 4096 + b.toNat * 128 + w.toNat * 64
  | .lamFac d h a b => 0x3e00000a + d.toNat * 1048576 + h.toNat * 65536 + a.toNat * 4096 + b.toNat * 128
  | .lamFacRd d h a => 0x3e00000b + d.toNat * 1048576 + h.toNat * 65536 + a.toNat * 4096
  | .drain sc => 0x40000000 + sc.toNat * 1048576
  | .xlat h a => 0x40400000 + h.toNat * 262144 + a.toNat * 8192
  | .hstat d h => 0x40800000 + d.toNat * 131072 + h.toNat * 8192
  | .hdrop h => 0x40c00000 + h.toNat * 262144
  | .tdef n a => 0x42000000 + n.toNat * 16384 + a.toNat * 512
  | .tstat n d => 0x42400000 + n.toNat * 16384 + d.toNat * 512
  | .tset n t => 0x42800000 + n.toNat * 16384 + t.toNat * 4096
  | .qdef n a => 0x42c00000 + n.toNat * 524288 + a.toNat * 16384
  | .qpop n => 0x43000000 + n.toNat * 524288
  | .qstat n d => 0x43400000 + n.toNat * 524288 + d.toNat * 16384
  | .mma z a b => 0x44000000 + z.toNat * 65536 + a.toNat * 256 + b.toNat
  | .mmas z a b => 0x44400000 + z.toNat * 65536 + a.toNat * 256 + b.toNat
  | .mzero z => 0x44800000 + z.toNat * 65536
  | .mdrain d t p c z => 0x44c00000 + d.toNat * 65536 + t.toNat * 256 + p.toNat * 128 + c.toNat * 4 + z.toNat * 2
  | .mload d t => 0x45000000 + d.toNat * 65536 + t.toNat * 256
  | .mwait d => 0x45400000 + d.toNat * 65536
  | .xtrIn a t r => 0x46000000 + a.toNat * 524288 + t.toNat * 65536 + r.toNat * 512
  | .xtrOut n => 0x47000000 + n.toNat * 65536
  | .ceCopyTile t h a k => 0x48000000 + t.toNat * 16384 + h.toNat * 1024 + a.toNat * 64 + k.toNat
  | .ceCopy h a k => 0x48400000 + h.toNat * 262144 + a.toNat * 16384 + k.toNat * 256
  | .ceGath h a k => 0x48800000 + h.toNat * 262144 + a.toNat * 16384 + k.toNat * 256
  | .ceScat h a k => 0x48c00000 + h.toNat * 262144 + a.toNat * 16384 + k.toNat * 256
  | .ceFill h a k => 0x49000000 + h.toNat * 262144 + a.toNat * 16384 + k.toNat * 256
  | .ceChk h a k => 0x49400000 + h.toNat * 262144 + a.toNat * 16384 + k.toNat * 256
  | .shSend t p a k => 0x4a000000 + t.toNat * 8192 + p.toNat * 4096 + a.toNat * 256 + k.toNat * 4
  | .shRedAr g d k c => 0x4a200000 + g.toNat * 65536 + d.toNat * 256 + k.toNat * 4 + c.toNat
  | .shRedRs g d k c => 0x4a400000 + g.toNat * 65536 + d.toNat * 256 + k.toNat * 4 + c.toNat
  | .shRedArFac g d k c => 0x4a600000 + g.toNat * 65536 + d.toNat * 256 + k.toNat * 4 + c.toNat
  | .shRedRsFac g d k c => 0x4a800000 + g.toNat * 65536 + d.toNat * 256 + k.toNat * 4 + c.toNat
  | .shGath g d k => 0x4aa00000 + g.toNat * 65536 + d.toNat * 256 + k.toNat * 4
  | .shBcast g d k r => 0x4ac00000 + g.toNat * 65536 + d.toNat * 256 + k.toNat * 4 + r.toNat
  | .shA2a g d k => 0x4ae00000 + g.toNat * 65536 + d.toNat * 256 + k.toNat * 4
  | .shRot g t k r => 0x4b000000 + g.toNat * 65536 + t.toNat * 256 + k.toNat * 4 + r.toNat * 2
  | .shStat d => 0x4b200000 + d.toNat * 65536
  | .acset k a p => 0x4c000000 + k.toNat * 131072 + a.toNat * 4096 + p.toNat * 512
  | .acadd k p i => 0x4c800000 + k.toNat * 131072 + p.toNat * 512 + i.toNat
  | .acwait k t p n => 0x4d000000 + k.toNat * 131072 + t.toNat * 4096 + p.toNat * 512 + n.toNat
  | .acrd k d p => 0x4d800000 + k.toNat * 131072 + d.toNat * 4096 + p.toNat * 512
  | .thLd h a b k => 0x4e000000 + h.toNat * 131072 + a.toNat * 8192 + b.toNat * 512 + k.toNat * 8
  | .thSt h a b k => 0x4e200000 + h.toNat * 131072 + a.toNat * 8192 + b.toNat * 512 + k.toNat * 8
  | .thAmo h a b k => 0x4e400000 + h.toNat * 131072 + a.toNat * 8192 + b.toNat * 512 + k.toNat * 8
  | .thCas h a b k => 0x4e600000 + h.toNat * 131072 + a.toNat * 8192 + b.toNat * 512 + k.toNat * 8
  | .thEnq h a b k => 0x4e800000 + h.toNat * 131072 + a.toNat * 8192 + b.toNat * 512 + k.toNat * 8
  | .thDeq h a b k => 0x4ea00000 + h.toNat * 131072 + a.toNat * 8192 + b.toNat * 512 + k.toNat * 8
  | .thChase h a b k => 0x4ec00000 + h.toNat * 131072 + a.toNat * 8192 + b.toNat * 512 + k.toNat * 8
  | .thClaim h a b k => 0x4ee00000 + h.toNat * 131072 + a.toNat * 8192 + b.toNat * 512 + k.toNat * 8
  | .thFac h a b k => 0x4f000000 + h.toNat * 131072 + a.toNat * 8192 + b.toNat * 512 + k.toNat * 8
  | .thCall h a b k => 0x4f200000 + h.toNat * 131072 + a.toNat * 8192 + b.toNat * 512 + k.toNat * 8
  | .mbPost t b k => 0x50000000 + t.toNat * 524288 + b.toNat * 32768 + k.toNat * 512
  | .mbTake n b t p k => 0x51000000 + n.toNat * 4194304 + b.toNat * 262144 + t.toNat * 8192 + p.toNat * 1024 + k.toNat * 16
  | .clBind a k => 0x52000000 + a.toNat * 65536 + k.toNat * 1024
  | .clLd h a k => 0x52200000 + h.toNat * 131072 + a.toNat * 8192 + k.toNat * 128
  | .clClr a k => 0x52400000 + a.toNat * 65536 + k.toNat * 1024
  | .clDec a k => 0x52600000 + a.toNat * 65536 + k.toNat * 1024
  | .clProp a k => 0x52800000 + a.toNat * 65536 + k.toNat * 1024
  | .clBt a k => 0x52a00000 + a.toNat * 65536 + k.toNat * 1024
  | .clSt h a k => 0x52c00000 + h.toNat * 131072 + a.toNat * 8192 + k.toNat * 128
  | .clRd d a => 0x52e00000 + d.toNat * 65536 + a.toNat * 2048
  | .clCol a k => 0x53000000 + a.toNat * 65536 + k.toNat * 1024
  | .clMask m sel => 0x53200000 + m.toNat * 262144 + sel.toNat * 65536
  | .clLvl m a => 0x53400000 + m.toNat * 262144 + a.toNat * 8192
  | .routineEnd d a b i => 0 + d.toNat * 8388608 + a.toNat * 1048576 + b.toNat * 131072 + i.toNat
  | .routineLd d a b i => 0x4000000 + d.toNat * 8388608 + a.toNat * 1048576 + b.toNat * 131072 + i.toNat
  | .routineSt d a b i => 0x8000000 + d.toNat * 8388608 + a.toNat * 1048576 + b.toNat * 131072 + i.toNat
  | .routineLdc d a b i => 0xc000000 + d.toNat * 8388608 + a.toNat * 1048576 + b.toNat * 131072 + i.toNat
  | .routineStc d a b i => 0x10000000 + d.toNat * 8388608 + a.toNat * 1048576 + b.toNat * 131072 + i.toNat
  | .routineAdd d a b i => 0x14000000 + d.toNat * 8388608 + a.toNat * 1048576 + b.toNat * 131072 + i.toNat
  | .routineSub d a b i => 0x18000000 + d.toNat * 8388608 + a.toNat * 1048576 + b.toNat * 131072 + i.toNat
  | .routineAnd d a b i => 0x1c000000 + d.toNat * 8388608 + a.toNat * 1048576 + b.toNat * 131072 + i.toNat
  | .routineOr d a b i => 0x20000000 + d.toNat * 8388608 + a.toNat * 1048576 + b.toNat * 131072 + i.toNat
  | .routineXor d a b i => 0x24000000 + d.toNat * 8388608 + a.toNat * 1048576 + b.toNat * 131072 + i.toNat
  | .routineMin d a b i => 0x28000000 + d.toNat * 8388608 + a.toNat * 1048576 + b.toNat * 131072 + i.toNat
  | .routineMax d a b i => 0x2c000000 + d.toNat * 8388608 + a.toNat * 1048576 + b.toNat * 131072 + i.toNat
  | .routineMinn d a b i => 0x30000000 + d.toNat * 8388608 + a.toNat * 1048576 + b.toNat * 131072 + i.toNat
  | .routineMaxn d a b i => 0x34000000 + d.toNat * 8388608 + a.toNat * 1048576 + b.toNat * 131072 + i.toNat
  | .routineShl d a b i => 0x38000000 + d.toNat * 8388608 + a.toNat * 1048576 + b.toNat * 131072 + i.toNat
  | .routineShr d a b i => 0x3c000000 + d.toNat * 8388608 + a.toNat * 1048576 + b.toNat * 131072 + i.toNat
  | .routineAddi d a b i => 0x40000000 + d.toNat * 8388608 + a.toNat * 1048576 + b.toNat * 131072 + i.toNat
  | .routineMovi d a b i => 0x44000000 + d.toNat * 8388608 + a.toNat * 1048576 + b.toNat * 131072 + i.toNat
  | .routineBeq d a b i => 0x48000000 + d.toNat * 8388608 + a.toNat * 1048576 + b.toNat * 131072 + i.toNat
  | .routineBne d a b i => 0x4c000000 + d.toNat * 8388608 + a.toNat * 1048576 + b.toNat * 131072 + i.toNat
  | .routineBlt d a b i => 0x50000000 + d.toNat * 8388608 + a.toNat * 1048576 + b.toNat * 131072 + i.toNat
  | .routineBltn d a b i => 0x54000000 + d.toNat * 8388608 + a.toNat * 1048576 + b.toNat * 131072 + i.toNat
  | .resultLand _ => 0
  | .replyArrival _ => 0
  | .replyWatchdogExpiry => 0
  | .freezeAlert => 0
  | .shareWindow => 0
  | .liningEventEntry => 0
  | .rewindEnd => 0
  | .notchHoldTimeout => 0
  | .tackBufferDrain => 0
  | .istWritePerform => 0
  | .multicastLanding => 0
  | .xtrOutLanding => 0
  | .drainAck _ => 0
  | .walkComplete => 0
  | .engineCommandStart _ => 0
  | .copyCommandComplete _ => 0
  | .matrixCommandComplete _ _ => 0
  | .shuttleSourceRead _ => 0
  | .shuttleDelivery _ => 0
  | .clauseCommandComplete _ _ => 0
  | .packetSend => 0
  | .thimblePacket => 0
  | .thimbleReply _ => 0
  | .mailboxNotice _ => 0
  | .mbTakeTimeout => 0
  | .acwaitTimeout => 0
  | .agreementContribution _ => 0
  | .lateLimitExpiry _ => 0
  | .agreementOutcome _ => 0
  | .joinRequest _ => 0
  | .joinReply _ => 0
  | .ringSlotArrival _ => 0
  | .bounceResend _ => 0
  | .flitReceive _ _ => 0
  | .linkFail _ => 0
  | .frameStart => 0
  | .healthBeacon _ => 0
  | .beaconTimeout _ => 0
  | .deathReport _ => 0
  | .ptpMessage _ => 0
  | .ppsInput _ => 0
  | .ptpSourceLoss => 0
  | .preemptionDeadline _ => 0
  | .kill => 0
  | .contextSave => 0
  | .contextRestore => 0
  | .contextPortDone => 0
  | .multicastControlWrite _ _ _ => 0
  | .scrubLine _ _ => 0
  | .scrubberControlWrite _ _ _ => 0
  | .wipeComplete => 0
  | .invalidate _ _ => 0
  | .invalidationComplete => 0
  | .splitWordWrite _ _ => 0
  | .clauseWindowSave _ => 0
  | .clauseWindowRestore _ => 0
  | .clauseWindowRebind _ => 0
  | .clauseWindowRelease _ => 0
  | .clauseWindowDone _ => 0
  | .registerWrite _ _ _ _ => 0
  | .nwptrWrite _ _ => 0
  | .fectlClr => 0
  | .fectlEnable _ _ => 0
  | .festatWrite => 0
  | .feNop _ _ => 0
  | .loadImem _ _ => 0
  | .presetAc _ _ => 0
  | .presetHandle _ _ => 0
  | .feRelease _ _ => 0
  | .callIb _ _ => 0
  | .feReturn _ _ => 0
  | .feWait _ _ => 0
  | .waitPoll _ => 0
  | .feWrite _ _ => 0
  | .fePost _ _ => 0
  | .postRetry _ => 0
  | .timedRelease _ _ => 0
  | .timedReleaseFire => 0
  | .feBarrier _ _ => 0
  | .barrierArrival _ _ => 0
  | .feTimeout _ => 0
  | .hostPostedWrite _ _ => 0
  | .hostRead _ _ => 0
  | .recoveryJob _ => 0
  | .recoveryPartition _ => 0
  | .recoveryDie _ => 0
  | .recoveryPackage _ => 0
  | .lifecycleProvision _ => 0
  | .lifecycleDeploy _ => 0
  | .lifecycleReturn _ => 0
  | .attestationQuote _ _ => 0
  | .powerGood => 0
  | .s1Entry _ => 0
  | .s2Entry _ _ _ => 0
  | .partitionCreate _ _ => 0
  | .partitionTeardown _ => 0
  | .functionLevelReset _ => 0
  | .inputUndervoltage _ _ => 0
  | .inputOvervoltage _ _ => 0
  | .junctionOvertemp _ => 0
  | .coolantOvertemp _ _ => 0
  | .notchHoldArrival _ => 0
  | .linkRetrained _ => 0
  | .dieReadmission _ => 0
  | .fatalMachineError _ => 0
  | .postedWriteCredit => 0
  | .stageFailure _ _ => 0

/-- The steps of units and events, which have no word. -/
def isEvent : Instr → Bool
  | .resultLand _ | .replyArrival _ | .replyWatchdogExpiry | .freezeAlert
  | .shareWindow | .liningEventEntry | .rewindEnd | .notchHoldTimeout
  | .tackBufferDrain | .istWritePerform | .multicastLanding | .xtrOutLanding
  | .drainAck _ | .walkComplete | .engineCommandStart _ | .copyCommandComplete _
  | .matrixCommandComplete _ _ | .shuttleSourceRead _ | .shuttleDelivery _ | .clauseCommandComplete _ _
  | .packetSend | .thimblePacket | .thimbleReply _ | .mailboxNotice _
  | .mbTakeTimeout | .acwaitTimeout | .agreementContribution _ | .lateLimitExpiry _
  | .agreementOutcome _ | .joinRequest _ | .joinReply _ | .ringSlotArrival _
  | .bounceResend _ | .flitReceive _ _ | .linkFail _ | .frameStart
  | .healthBeacon _ | .beaconTimeout _ | .deathReport _ | .ptpMessage _
  | .ppsInput _ | .ptpSourceLoss | .preemptionDeadline _ | .kill
  | .contextSave | .contextRestore | .contextPortDone | .multicastControlWrite _ _ _
  | .scrubLine _ _ | .scrubberControlWrite _ _ _ | .wipeComplete | .invalidate _ _
  | .invalidationComplete | .splitWordWrite _ _ | .clauseWindowSave _ | .clauseWindowRestore _
  | .clauseWindowRebind _ | .clauseWindowRelease _ | .clauseWindowDone _ | .registerWrite _ _ _ _
  | .nwptrWrite _ _ | .fectlClr | .fectlEnable _ _ | .festatWrite
  | .feNop _ _ | .loadImem _ _ | .presetAc _ _ | .presetHandle _ _
  | .feRelease _ _ | .callIb _ _ | .feReturn _ _ | .feWait _ _
  | .waitPoll _ | .feWrite _ _ | .fePost _ _ | .postRetry _
  | .timedRelease _ _ | .timedReleaseFire | .feBarrier _ _ | .barrierArrival _ _
  | .feTimeout _ | .hostPostedWrite _ _ | .hostRead _ _ | .recoveryJob _
  | .recoveryPartition _ | .recoveryDie _ | .recoveryPackage _ | .lifecycleProvision _
  | .lifecycleDeploy _ | .lifecycleReturn _ | .attestationQuote _ _ | .powerGood
  | .s1Entry _ | .s2Entry _ _ _ | .partitionCreate _ _ | .partitionTeardown _
  | .functionLevelReset _ | .inputUndervoltage _ _ | .inputOvervoltage _ _ | .junctionOvertemp _
  | .coolantOvertemp _ _ | .notchHoldArrival _ | .linkRetrained _ | .dieReadmission _
  | .fatalMachineError _ | .postedWriteCredit | .stageFailure _ _ => true
  | _ => false

/-- The words of thimble routines. -/
def isRoutine : Instr → Bool
  | .routineEnd _ _ _ _ | .routineLd _ _ _ _ | .routineSt _ _ _ _ | .routineLdc _ _ _ _
  | .routineStc _ _ _ _ | .routineAdd _ _ _ _ | .routineSub _ _ _ _ | .routineAnd _ _ _ _
  | .routineOr _ _ _ _ | .routineXor _ _ _ _ | .routineMin _ _ _ _ | .routineMax _ _ _ _
  | .routineMinn _ _ _ _ | .routineMaxn _ _ _ _ | .routineShl _ _ _ _ | .routineShr _ _ _ _
  | .routineAddi _ _ _ _ | .routineMovi _ _ _ _ | .routineBeq _ _ _ _ | .routineBne _ _ _ _
  | .routineBlt _ _ _ _ | .routineBltn _ _ _ _ => true
  | _ => false

/-- What the decoder reads from a table word: a slot operation, or, where the word is none, a thimble
routine word (log entry 2). -/
noncomputable def decodeTableWord (nbits w : Nat) : Option Instr :=
  if nbits ≤ 32 then
    match decodeBytes (bytesOfWord w) with
    | .ok i => some i
    | .error _ => decodeRoutine w
  else none

end Sys2Proof
end

