-- ==== Sys2Proof/Machine/Legality.lean ====
section
/-! DEFINITION. The decode checks on a bundle: the registers that each operation names (R14, R17), illegal bundles
(R19 to R25, R83), and illegal groups (R16 to R18). -/

namespace Sys2Proof.Machine

/-! ## The registers of an operation -/

/-- The registers that an operation reads, one entry for each source field, and those it writes, one entry for
each destination field. -/
structure Uses where
  reads  : List RegId
  writes : List RegId

namespace RegName

def s (k : Cl) (r : BitVec 5) : RegId := RegId.s k r.toNat
def p (k : Cl) (r : BitVec 3) : RegId := RegId.p k r.toNat
def p5 (k : Cl) (r : BitVec 5) : RegId := RegId.p k (r.toNat % 8)
def m (k : Cl) (r : BitVec 3) : RegId := RegId.m k r.toNat
def m5 (k : Cl) (r : BitVec 5) : RegId := RegId.m k (r.toNat % 8)
def v (k : Cl) (r : BitVec 5) : RegId := if r.toNat < 16 then RegId.v k r.toNat else RegId.w (r.toNat - 16)
def a (r : BitVec 4) : RegId := RegId.a r.toNat
def a5 (r : BitVec 5) : RegId := RegId.a (r.toNat % 16)
def h (r : BitVec 4) : RegId := RegId.h r.toNat
def ac (r : BitVec 6) : RegId := RegId.ac r.toNat
def g (r : BitVec 5) : RegId := RegId.g r.toNat
def z (r : BitVec 6) : RegId := RegId.z r.toNat
def q (r : BitVec 3) : RegId := RegId.q r.toNat
def t (r : BitVec 8) : RegId := RegId.t r.toNat
/-- A tile operand of R234: t0 to t247, then q0 to q7. -/
def tile (r : BitVec 8) : RegId := if r.toNat < 248 then RegId.t r.toNat else RegId.q (r.toNat - 248)
/-- The register of an mfsr or mtsr (R114, R115). -/
def sys (r : BitVec 10) : RegId :=
  if r.toNat = 0 then RegId.fmt
  else if r.toNat ≤ 4 then RegId.fp (BitVec.toFin (BitVec.ofNat 2 (r.toNat - 1)))
  else RegId.sys r.toNat

end RegName

open RegName in
/-- The registers of a slot operation of cluster k (R14, R17, R22): those of its fields, its predicate and mask,
and those that its description reads or writes implicitly. The accumulator tile that a matrix command names counts as written
(DESIGN CHOICE; log entry 70); what an operation changes on the side in AGSTAT, TACKSTAT, SEAMREQ, INJECT and the mailbox counts
does not (DESIGN CHOICE; log entry 71). -/
def uses (k : Cl) : Instr → Uses
  | .nop | .shd => ⟨[], []⟩
  | .halt c | .idle c | .br c _ | .lbrk c | .trapOp _ c | .eret _ c | .lyield c => ⟨[p k c], []⟩
  | .add d x y c _ | .sub d x y c _ | .mul d x y c _ | .mulh d x y c _ | .mulhn d x y c _ | .div d x y c _
  | .divn d x y c _ | .rem d x y c _ | .remn d x y c _ | .andOp d x y c _ | .orOp d x y c _ | .xorOp d x y c _
  | .shl d x y c _ | .shr d x y c _ | .sar d x y c _ | .minOp d x y c _ | .maxOp d x y c _ | .minn d x y c _
  | .maxn d x y c _ | .sel d x y c _ | .crc d x y c _ => ⟨[s k x, s k y, p k c], [s k d]⟩
  | .addi d x c _ | .andi d x c _ | .ori d x c _ | .xori d x c _ | .shli d x c _ | .shri d x c _ | .sari d x c _ =>
      ⟨[s k x, p k c], [s k d]⟩
  | .movi d c _ => ⟨[p k c], [s k d]⟩
  | .movh d c _ => ⟨[s k d, p k c], [s k d]⟩
  | .clz d x | .ctz d x | .popc d x | .sext d x _ | .zext d x _ | .bfx d x _ _ => ⟨[s k x], [s k d]⟩
  | .bfi d x _ _ => ⟨[s k d, s k x], [s k d]⟩
  | .cmp d _ _ c x y => ⟨[s k x, s k y, p k c], [p k d]⟩
  | .cmpi d _ _ c x _ => ⟨[s k x, p k c], [p k d]⟩
  | .pand d x y c | .por d x y c | .pxor d x y c => ⟨[p5 k x, p5 k y, p k c], [p5 k d]⟩
  | .pnot d x c | .pmov d x c => ⟨[p5 k x, p k c], [p5 k d]⟩
  | .mand d x y c | .mor d x y c | .mxor d x y c => ⟨[m5 k x, m5 k y, p k c], [m5 k d]⟩
  | .mnot d x c => ⟨[m5 k x, p k c], [m5 k d]⟩
  | .mpop d x c | .mfirst d x c => ⟨[m5 k x, p k c], [s k d]⟩
  | .mset d x c => ⟨[s k x, p k c], [m5 k d]⟩
  | .xcp d x j c => ⟨[s j.toFin x, p k c], [s k d]⟩
  | .xcpv d x j c => ⟨[v j.toFin x, p k c], [v k d]⟩
  | .xcpm d x j c => ⟨[m5 j.toFin x, p k c], [m5 k d]⟩
  | .xcpw d x j c => ⟨[v j.toFin x, p k c], [RegId.w (d.toNat % 16)]⟩
  | .aadd d x c y => ⟨[a5 x, s k y, p k c], [a5 d]⟩
  | .aaddImm d x c _ => ⟨[a5 x, p k c], [a5 d]⟩
  | .amov d x c => ⟨[s k x, p k c], [a5 d]⟩
  | .aread d x c => ⟨[a5 x, p k c], [s k d]⟩
  | .luset d x c l => ⟨[s k x, p k c], [RegId.lu (d.toNat % 16) l.toNat]⟩
  | .lurd d x c l => ⟨[RegId.lu (x.toNat % 16) l.toNat, p k c], [s k d]⟩
  | .call c _ => ⟨[p k c], [RegId.s k 31]⟩
  | .jr c x | .bswap c x => ⟨[s k x, p k c], []⟩
  | .ret c => ⟨[RegId.s k 31, p k c], []⟩
  | .loop x _ => ⟨[s k x], []⟩
  | .loopi _ _ | .tack | .seam _ | .notch _ | .ifence => ⟨[], []⟩
  | .lidx d _ => ⟨[], [s k d]⟩
  | .chkEq x y c | .chkNe x y c => ⟨[s k x, s k y, p k c], []⟩
  | .fmt _ c => ⟨[p k c], [RegId.fmt]⟩
  | .fmtr d c => ⟨[RegId.fmt, p k c], [s k d]⟩
  | .mfsr d r c b _ => ⟨(if b = 1 then [] else [sys r]) ++ [p k c], [s k d]⟩
  | .mtsr x r c b _ => ⟨[s k x, p k c], if b = 1 then [] else [sys r]⟩
  | .inject x c => ⟨[s k x, p k c], []⟩
  | .agr gg x y _ _ _ _ => ⟨[g gg, s k x, s k y], [g gg]⟩
  | .agv gg d x _ _ => ⟨[g gg, s k x], [s k d, g gg]⟩
  | .agj gg => ⟨[g gg], [g gg]⟩
  | .agst gg d x => ⟨[g gg, s k x], [s k d]⟩
  | .vaddF d x y c _ | .vsubF d x y c _ | .vmulF d x y c _ | .vmin d x y c _ | .vmax d x y c _
  | .vcopysign d x y c _ | .vaddI d x y c _ | .vsubI d x y c _ | .vmulI d x y c _ | .vmulh d x y c _
  | .vadds d x y c _ | .vsubs d x y c _ | .vand d x y c _ | .vor d x y c _ | .vxor d x y c _ | .vshl d x y c _
  | .vshr d x y c _ | .vsar d x y c _ | .vmulhN d x y c _ | .vaddsN d x y c _ | .vsubsN d x y c _
  | .vsel d x y c _ | .vperm d x y c _ | .vzipLo d x y c _ | .vzipHi d x y c _ | .vldexp d x y c _
  | .vdiv d x y c _ => ⟨[v k x, v k y, m k c], [v k d]⟩
  | .vabs d x c _ | .vneg d x c _ | .vnot d x c _ | .vpopc d x c _ | .vclz d x c _ | .vclass d x c _
  | .vcvt d x c _ _ _ _ | .vexp2 d x c _ | .vlog2 d x c _ | .vrcp d x c _ | .vrsqrt d x c _ | .vsqrt d x c _ =>
      ⟨[v k x, m k c], [v k d]⟩
  | .vfma d x y c _ | .vfms d x y c _ | .vfnma d x y c _ | .vfnms d x y c _ =>
      ⟨[v k d, v k x, v k y, m k c], [v k d]⟩
  | .vcmp d x y c _ _ | .vcmpN d x y c _ _ | .vrankGt d x y c _ | .vrankGe d x y c _ =>
      ⟨[v k x, v k y, m k c], [m5 k d]⟩
  | .vcx x y d c _ => ⟨[v k x, v k y, m k c], [v k x, v k y, m k d]⟩
  | .vrot d x y c _ | .vslide d x y c _ => ⟨[v k x, s k y, m k c], [v k d]⟩
  | .vbcast d x c _ => ⟨[s k x, m k c], [v k d]⟩
  | .vext d x y _ | .vextN d x y _ => ⟨[v k x, s k y], [s k d]⟩
  | .vins d x y _ => ⟨[s k x, s k y], [v k d]⟩
  | .vidx d c _ => ⟨[m k c], [v k d]⟩
  | .vredsum d x c _ | .vredmax d x c _ | .vredmin d x c _ | .vredand d x c _ | .vredor d x c _ | .vredmaxN d x c _
  | .vredminN d x c _ | .vredsumN d x c _ => ⟨[v k x, m k c], [s k d]⟩
  | .ld d n x _ _ => ⟨[h n, a x], [s k d]⟩
  | .ist d x c _ => ⟨[s k d, a x, p k c], []⟩
  | .st d n x _ _ => ⟨[s k d, h n, a x], []⟩
  | .vld d n x c _ => ⟨[h n, a x, m k c], [v k d]⟩
  | .vlds d n c x _ => ⟨[h n, m k c, s k x], [v k d]⟩
  | .vgath d n c x => ⟨[h n, m k c, v k x], [v k d]⟩
  | .mld d n x => ⟨[h n, s k x], [m5 k d]⟩
  | .vst d n x c _ => ⟨[v k d, h n, a x, m k c], []⟩
  | .vsts d n c x _ => ⟨[v k d, h n, m k c, s k x], []⟩
  | .vscat d n c x => ⟨[v k d, h n, m k c, v k x], []⟩
  | .mst d n x => ⟨[m5 k d, h n, s k x], []⟩
  | .lamOp d n x y _ _ | .lamFac d n x y => ⟨[h n, a x, s k y], [s k d]⟩
  | .lamCas d n x y _ => ⟨[s k d, h n, a x, s k y], [s k d]⟩
  | .lamFacRd d n x => ⟨[h n, a x], [s k d]⟩
  | .drain _ => ⟨[], []⟩
  | .xlat n x => ⟨[s k x], [h n]⟩
  | .hstat d n => ⟨[h n], [s k d]⟩
  | .hdrop n => ⟨[], [h n]⟩
  | .tdef n x => ⟨[s k x], [t n]⟩
  | .tstat n d => ⟨[t n], [s k d]⟩
  | .tset n _ => ⟨[], [t n]⟩
  | .qdef n x => ⟨[s k x], [q n]⟩
  | .qpop n => ⟨[q n], [q n]⟩
  | .qstat n d => ⟨[q n], [s k d]⟩
  | .mma n x y | .mmas n x y => ⟨[z n, tile x, tile y, RegId.fmt], [z n]⟩
  | .mzero n => ⟨[], [z n]⟩
  | .mdrain n x b c w =>
      ⟨[z n, s k c, RegId.fmt] ++ (if b = 1 then [] else [tile x]), if w = 1 then [z n] else []⟩
  | .mload n x => ⟨[tile x], [z n]⟩
  | .mwait n => ⟨[z n], []⟩
  | .xtrIn x _ _ => ⟨[v k x], []⟩
  | .xtrOut n => ⟨[t n], [t n]⟩
  | .ceCopyTile x n y c => ⟨[tile x, h n, a y, ac c], []⟩
  | .ceCopy n y c | .ceGath n y c | .ceScat n y c | .ceFill n y c | .ceChk n y c => ⟨[h n, a y, ac c], []⟩
  | .shSend x b y c => ⟨[a y, ac c] ++ (if b = 1 then [] else [tile x]), []⟩
  | .shRedAr gg x c _ | .shRedRs gg x c _ | .shRedArFac gg x c _ | .shRedRsFac gg x c _ =>
      ⟨[g gg, tile x, ac c], [g gg]⟩
  | .shGath gg x c | .shBcast gg x c _ | .shA2a gg x c | .shRot gg x c _ => ⟨[g gg, t x, ac c], [g gg]⟩
  | .shStat d => ⟨[], [s k d]⟩
  | .acset c x b => ⟨[s k x, p k b], [ac c]⟩
  | .acadd c b _ => ⟨[ac c, p k b], [ac c]⟩
  | .acwait c x b _ => ⟨[ac c, s k x], [p k b]⟩
  | .acrd c d b => ⟨[ac c, p k b], [s k d]⟩
  | .thLd n x y c | .thSt n x y c | .thAmo n x y c | .thCas n x y c | .thEnq n x y c | .thDeq n x y c
  | .thChase n x y c | .thClaim n x y c | .thFac n x y c | .thCall n x y c => ⟨[h n, a x, a y, ac c], []⟩
  | .mbPost x y c => ⟨[s k x, a y, ac c], []⟩
  | .mbTake _ y x b c => ⟨[a y, s k x, ac c], [p k b]⟩
  | .clBind x c | .clClr x c | .clDec x c | .clProp x c | .clBt x c | .clCol x c => ⟨[s k x, ac c], []⟩
  | .clLd n x c | .clSt n x c => ⟨[h n, a x, ac c], []⟩
  | .clRd d x => ⟨[s k x], [s k d]⟩
  | .clMask d _ => ⟨[], [m k d]⟩
  | .clLvl d x => ⟨[s k x], [m k d]⟩
  | _ => ⟨[], []⟩

/-- Whether an instruction has a widenable field (R21). -/
def widenable : Instr → Bool
  | .addi _ _ _ _ | .andi _ _ _ _ | .ori _ _ _ _ | .xori _ _ _ _ | .movi _ _ _ | .movh _ _ _ | .cmpi _ _ _ _ _ _
  | .aaddImm _ _ _ _ | .ld _ _ _ _ _ | .ist _ _ _ _ | .st _ _ _ _ _ | .vld _ _ _ _ _ | .vst _ _ _ _ _
  | .shRedAr _ _ _ _ | .shRedRs _ _ _ _ | .shRedArFac _ _ _ _ | .shRedRsFac _ _ _ _ | .shBcast _ _ _ _
  | .acadd _ _ _ | .acwait _ _ _ _ => true
  | _ => false

/-- A register write that counts for R17 and R24: not s0, p0 or m0. -/
def counts : RegId → Bool
  | .s _ 0 | .p _ 0 | .m _ 0 => false
  | _ => true

/-- A register that two slots can both name: one of the core, not of a cluster (R24). -/
def sharedReg : RegId → Bool
  | .s _ _ | .v _ _ | .m _ _ | .p _ _ => false
  | _ => true

def isCommon : RegId → Bool
  | .w _ => true
  | _ => false

def Uses.written (u : Uses) : List RegId := u.writes.filter counts

/-! ## Illegal bundles -/

/-- The operation of a slot, if it is one. -/
def slotInstr (w : Word) : Option Instr :=
  match decodeSlot w.toNat with
  | .ok i => some i
  | .error _ => none

def majorOf (w : Word) : Nat := bits w.toNat 25 6

/-- The bits lo to lo + n - 1. -/
def ones (lo n : Nat) : Nat := (2 ^ n - 1) * 2 ^ lo

/-- The reserved fields of a major's members, and the fields that a member does not use, from the narrower to the wider:
what stands in them names nothing. -/
def unusedFields : Nat → List Nat
  | 0x01 => [ones 10 15 + ones 4 3, ones 4 21]
  | 0x05 => [ones 6 4]
  | 0x07 => [ones 6 6, ones 0 12]
  | 0x08 => [ones 0 4]
  | 0x09 => [ones 4 3, ones 10 5 + ones 4 3]
  | 0x0A => [ones 2 8]
  | 0x0B => [ones 0 4, ones 0 6, ones 0 9]
  | 0x0D => [ones 0 15, ones 0 20]
  | 0x0E => [ones 20 3, ones 0 12, ones 20 3 + ones 0 12, ones 0 20]
  | 0x0F => [ones 16 7, ones 0 23]
  | 0x10 => [ones 0 9]
  | 0x11 => [ones 4 3, ones 20 5 + ones 4 3, ones 10 10 + ones 4 3, ones 10 15 + ones 4 3]
  | 0x12 => [ones 0 3, ones 0 7, ones 0 17]
  | 0x13 | 0x18 | 0x1A => [ones 10 5]
  | 0x16 => [ones 13 2, ones 10 5]
  | 0x17 => [ones 10 5, ones 7 3, ones 10 10]
  | 0x1D | 0x1E => [ones 0 2, ones 9 3 + ones 0 2]
  | 0x1F => [ones 4 2, ones 4 3, ones 4 8]
  | 0x20 => [ones 0 13, ones 0 18, ones 0 20]
  | 0x21 => [ones 0 9, ones 0 12, ones 0 14, ones 0 19]
  | 0x22 => [ones 0 1, ones 0 8, ones 0 16]
  | 0x23 => [ones 0 9, ones 0 16]
  | 0x24 => [ones 0 8]
  | 0x25 => [ones 0 1, ones 0 2, ones 0 16]
  | 0x26 => [ones 0 9, ones 12 5]
  | 0x27 => [ones 0 3]
  | 0x28 => [ones 0 4, ones 0 9]
  | 0x29 => [ones 0 7, ones 0 10, ones 0 11, ones 0 13, ones 0 16]
  | _ => []

/-- Whether the row of a word is one that its fixed bits name: h15 in majors 0x1D and 0x1E selects other members, and a
shared register number beyond its file names no register. -/
def namesRow : Instr → Bool
  | .vld _ h _ _ _ | .vst _ h _ _ _ => h != 15
  | .aadd d _ _ _ | .aaddImm d _ _ _ | .amov d _ _ | .luset d _ _ _ | .xcpw d _ _ _ => decide (d.toNat < 16)
  | _ => true

/-- The operation that a slot word names, whether its other fields are legal or not: reasons 1 to 4 hold beside reason 6
(R23). -/
def namedInstr (w : Nat) : Option Instr :=
  let row := fun (x : Nat) => match decodeRaw x with | some i => if namesRow i then some i else none | none => none
  match row w with
  | some i => some i
  | none => (unusedFields (bits w 25 6)).findSome? fun f => row (w - (w &&& f))

/-- The registers of a slot; a slot that names no operation names none. -/
def slotUses (k : Cl) (w : Word) : Uses :=
  match namedInstr w.toNat with
  | some i => uses k i
  | none => ⟨[], []⟩

/-- A header word in slot 0 (R19). -/
def isHeader (words : Vector Word 4) : Bool := majorOf words[0] == 0

/-- Majors that stand in slot 0 alone (R25). -/
def slotZeroMajor (m : Nat) : Bool := decide (0x0C ≤ m ∧ m ≤ 0x0F) || m == 0x11 || m == 0x12

/-- The slot restrictions of R25, by major and, in major 0x01, by minor. -/
def slotAllowed (k : Cl) (w : Word) : Bool :=
  let m := majorOf w
  let minor := bits w.toNat 0 4
  if m = 1 then (if minor = 1 then k != 0 else if minor = 2 || minor = 3 then k == 0 else true)
  else if slotZeroMajor m then k == 0 else if m = 0x23 then k == 3 else true

/-- Majors that a shd may shadow (R83). -/
def shadowable (m : Nat) : Bool := decide (2 ≤ m ∧ m ≤ 8) || decide (0x13 ≤ m ∧ m ≤ 0x1A)

/-- The slot 0 word of a bundle is an agr or agv (R20). -/
def agreedSlot (w : Word) : Bool := majorOf w == 0x12 && (bits w.toNat 24 1 == 0 || bits w.toNat 22 2 == 0)

/-- The extension bits of a slot under a header of kind 0 or 1 (R20). -/
def extBits (header : Option Word) (agreed : Bool) (k : Cl) : Nat :=
  match header with
  | none => 0
  | some h =>
    if k.val = 0 || agreed then 0
    else if h.getLsbD 24 then bits h.toNat (6 * (k.val - 1)) 6
    else bits h.toNat (8 * (k.val - 1)) 8

/-- Common read ports that a slot owns (R22). -/
def portsOwned (header : Option Word) (agreed : Bool) (k : Cl) : Nat :=
  match header with
  | some h =>
    if h.getLsbD 24 && !agreed then
      ((List.range 3).filter fun j => bits h.toNat (18 + 2 * j) 2 == k.val).length
    else if k.val < 3 then 1 else 0
  | none => if k.val < 3 then 1 else 0

/-- The slot word of a bundle. -/
def wordAt (words : Vector Word 4) (k : Cl) : Word := words[k.val]'k.isLt

/-- Reasons 5 and 6 that hold of a slot's own word and its extension (R19 to R23, R83). -/
def wordReasons (words : Vector Word 4) (header : Option Word) (k : Cl) : List Nat :=
  let w := wordAt words k
  let ext := extBits header (agreedSlot words[0]) k
  if k.val = 0 ∧ majorOf w = 0 then (if stopBit w.toNat then [6] else [])
  else
    match decodeSlot w.toNat with
    | .error e => if ext != 0 && e == DecodeError.header then [e.reason, 6] else [e.reason]
    | .ok i =>
      let wide := ext != 0 && !widenable i
      let shadow := i == Instr.shd && !(k.val != 0 && shadowable (majorOf (words.toArray.getD (k.val - 1) 0)))
      if wide || (shadow && k.val != 0) then [6] else []

/-- Reason 4, and reason 6 of the target of an agv (R20, R23). -/
def agreementReasons (words : Vector Word 4) (header : Option Word) : List Nat :=
  if !agreedSlot words[0] then []
  else
    match header with
    | none => [4]
    | some h =>
      if h.getLsbD 24 then [4]
      else if bits words[0].toNat 24 1 = 1 ∧ h.toNat % 2 ^ 14 ≠ 0 then [6] else []

/-- The other slots. -/
def others (k : Cl) : List Cl := [0, 1, 2, 3].filter fun j => j != k

/-- Reason 1 of a slot (R24): a register in two of its destination fields, or one that another slot writes too. -/
def doubleWrite (words : Vector Word 4) (k : Cl) : Bool :=
  let mine := (slotUses k (wordAt words k)).written
  decide (mine.length ≠ (mine.foldl (fun acc r => if acc.contains r then acc else r :: acc) []).length) ||
    (others k).any fun j => (slotUses j (wordAt words j)).written.any fun r => sharedReg r && mine.contains r

/-- Reason 2 of a slot (R22). -/
def overPorts (words : Vector Word 4) (header : Option Word) (k : Cl) : Bool :=
  let u := slotUses k (wordAt words k)
  let dests := fun j => ((slotUses j (wordAt words j)).writes.filter isCommon).length
  decide (portsOwned header (agreedSlot words[0]) k < (u.reads.filter isCommon).length) ||
    (decide (0 < dests k) && decide (1 < dests 0 + dests 1 + dests 2 + dests 3))

/-- Every reason of R23 that a slot offends under. -/
def slotReasons (words : Vector Word 4) (header : Option Word) (k : Cl) : List Nat :=
  let own := wordReasons words header k
  let restricted := !slotAllowed k (wordAt words k)
  (if doubleWrite words k then [1] else []) ++ (if overPorts words header k then [2] else []) ++
    (if restricted then [3] else []) ++ (if k.val = 0 then agreementReasons words header else []) ++ own

/-- The lowest of some numbers. -/
def lowest : List Nat → Option Nat
  | [] => none
  | x :: r => match lowest r with | some y => some (min x y) | none => some x

/-- A mask of slots from a test. -/
def slotMask (f : Cl → Bool) : BitVec 4 :=
  BitVec.ofNat 4 ((if f 0 then 1 else 0) + (if f 1 then 2 else 0) + (if f 2 then 4 else 0) + (if f 3 then 8 else 0))

/-- The reason and slot mask of an illegal bundle (R23), none for a legal one. -/
def illegalBundle (words : Vector Word 4) (header : Option Word) : Option (Nat × BitVec 4) :=
  let all := [0, 1, 2, 3].flatMap (slotReasons words header)
  match lowest all with
  | some r => some (r, slotMask fun k => !(slotReasons words header k).isEmpty)
  | none => none

/-! ## Illegal groups (R16 to R18) -/

/-- One slot of the group test: the registers written since the group opened, and the slots that break R17. -/
def groupSlot (words : Vector Word 4) (acc : List RegId × List Cl) (k : Cl) : List RegId × List Cl :=
  if k.val = 0 && isHeader words then acc
  else
    let w := wordAt words k
    let u := slotUses k w
    let bad := (u.reads ++ u.written).any acc.1.contains
    let open_ := if stopBit w.toNat then [] else acc.1 ++ u.written
    (open_, if bad then acc.2 ++ [k] else acc.2)

/-- The group after a bundle, and the slots of the bundle that break R17. -/
def groupScan (words : Vector Word 4) (open_ : List RegId) : List RegId × List Cl :=
  ([0, 1, 2, 3] : List Cl).foldl (groupSlot words) (open_, [])

/-! ## The lining's bundles (R56) -/

/-- Words that may stand in slot 0 of a lining bundle (R56): bswap and ist excepted. -/
def liningAllowed (w : Word) : Bool :=
  let m := majorOf w
  if m == 0x0D && bits w.toNat 23 2 == 2 || m == 0x1B && bits w.toNat 16 4 == 15 then false
  else decide (1 ≤ m ∧ m ≤ 8) || [0x0B, 0x0C, 0x0D, 0x10, 0x11, 0x1B, 0x1C, 0x1F, 0x20, 0x26, 0x27, 0x28].contains m

/-- The nop word, with or without a stop (R27). -/
def isNop (w : Word) : Bool := w.toNat % 2 ^ 31 == 0x02000000

/-- The reason of an illegal lining bundle (R56, R23). -/
def illegalLining (words : Vector Word 4) : Option Nat :=
  let three := if isNop words[1] && isNop words[2] && isNop words[3] then [] else [3]
  let own := if !(liningAllowed words[0] && slotAllowed 0 words[0]) then [3]
    else match decodeSlot words[0].toNat with
      | .ok _ => []
      | .error e => [e.reason]
  lowest (three ++ own)

end Sys2Proof.Machine
end

