-- ==== Sys2Proof/Machine/Access.lean ====
section
/-! DEFINITION. Accesses through handles: their kind, bounds, permissions and alignment (R181, R182, R208 to R210,
R215), latencies (R43, R216), and the stores they make (R157, R188). -/

namespace Sys2Proof.Machine

/-! ## Handles -/

def Handle.region (h : Handle) : Nat := regionOf h.pbase.toNat
def Handle.die (h : Handle) : Nat := dieOf h.pbase.toNat
def Handle.offset (h : Handle) : Nat := offsetOf h.pbase.toNat

/-- Permission bits of RWAM (R203). -/
inductive Perm where
  | r | w | a | m
deriving DecidableEq, Repr

def Handle.allows (h : Handle) (p : Perm) : Bool :=
  match p with
  | .r => h.rwam.getLsbD 3 | .w => h.rwam.getLsbD 2 | .a => h.rwam.getLsbD 1 | .m => h.rwam.getLsbD 0

/-- HANDLEINFO.KIND (R210). -/
inductive AccessKind where
  | read | store | atomic | command
deriving DecidableEq, Repr

def AccessKind.code : AccessKind → Nat
  | .read => 0 | .store => 1 | .atomic => 2 | .command => 3

/-- The reason of a handle fault of an access of n bytes at O, if it has one (R209, R210). -/
def Handle.fault (h : Handle) (o n : Nat) (ps : List Perm) : Option Nat :=
  if !h.valid then some 1
  else if spanSize h.ps < o + n then some 2
  else if !ps.all h.allows then some 3
  else none

/-- A handle on the core's own scratchpad. -/
def State.isOwnScratch (s : State) (h : Handle) : Bool :=
  h.region == 2 && h.die == s.ownDie && h.offset / 2 ^ 21 == s.ownCore

/-- A handle on a vault of the core's die. -/
def State.isVault (s : State) (h : Handle) : Bool := h.region == 1 && h.die == s.ownDie

def State.isMulticast (s : State) (h : Handle) : Bool := h.region == 3 && h.die == s.ownDie

/-- The handle that S1 installs in h12 or h13 of a lining (R182): a region, and the size code that no leaf gives (log entry
77). -/
def isInstalled (hn : BitVec 4) (h : Handle) : Bool :=
  h.ps == 3 && ((hn == 12 && h.region == 6) || (hn == 13 && h.region == 5))

/-- The kinds of handle that register accesses may use (R181), and for the lining's scalar loads and stores its two more, which
no xlat makes (R182). -/
def State.kindAllowed (s : State) (hn : BitVec 4) (h : Handle) (kind : AccessKind) (store : Bool) : Bool :=
  s.isOwnScratch h || s.isVault h || (store && s.isMulticast h) ||
    (!s.isMain && (kind == .read || kind == .store) && h.die == s.ownDie && isInstalled hn h)

/-- Latency of a scalar access by its handle (R43, R182). -/
def State.accessLatency (s : State) (h : Handle) : Nat :=
  if s.isOwnScratch h then 6
  else if s.isVault h && h.offset / 2 ^ 28 == s.ownQuad then 20
  else 48

/-- A handle fault of the operation that executes (R159, R161, R210). -/
def State.handleFault (s : State) (hn : Nat) (h : Handle) (o reason : Nat) (k : AccessKind) : State :=
  s.triggerHere 5 (BitVec.ofNat 64 hn) (BitVec.ofNat 64 (h.vbase.toNat + o))
    (BitVec.ofNat 64 (reason * 2 ^ 60 + hn * 2 ^ 56 + k.code * 2 ^ 54 + o % 2 ^ 32))

/-- Notes the address sums of an access (R164): by the 32-bit lane of each element for a lane-wise one of elements of n
bytes (R119). vld, vst, mld and mst form one sum for the whole access, which a KIND 0 injection hits whatever LANE names
(DESIGN CHOICE; log entry 62). -/
def State.noteSums (s : State) (h : Handle) (lanewise : Bool) (n : Nat) (offs : List (Nat × Nat)) : State :=
  offs.foldl (fun s x => s.noteSum (if lanewise then some (x.1 * n / 4 % 512) else none) (h.pbase.toNat + x.2)) s

/-- The checks of R215 on an access: kind, then R209 for each part, then alignment; parts are (lane, offset). The
state after them, and whether the access may go on. -/
def State.checkAccess (s : State) (hn : BitVec 4) (h : Handle) (parts : List (Nat × Nat)) (n align : Nat)
    (perms : List Perm) (kind : AccessKind) (store lanewise : Bool) : State × Bool :=
  if h.valid && !s.kindAllowed hn h kind store then (s.illegalOperand (hn.setWidth 64), false)
  else
    match parts.find? (fun x => (h.fault x.2 n perms).isSome) with
    | some x => (s.handleFault hn.toNat h x.2 ((h.fault x.2 n perms).getD 0) kind, false)
    | none =>
      match parts.find? (fun x => x.2 % align != 0) with
      | some x => (s.illegalOperand (BitVec.ofNat 64 x.2), false)
      | none => (s.noteSums h lanewise n parts, true)

/-- Permissions of a store: W, and M in place of it through a multicast handle (R209). -/
def Handle.storePerms (h : Handle) : List Perm := if h.region == 3 then [.m] else [.w]

/-! ## Loads and stores -/

/-- The physical address of an offset through a handle. -/
def Handle.at (h : Handle) (o : Nat) : Nat := h.pbase.toNat + o

/-- A free choice of this cycle for the slot that executes. -/
def State.freeChoice (s : State) : Bool := Config.freeBit (s.free * 2 ^ 64 + 2 ^ 62 + s.slot.val)

/-- Whether the reply of an access may miss its due cycle: a vault's may wait at its controller, and a gather's
lanes may conflict (R45, R183, R222). -/
def State.mayBeLate (s : State) (h : Handle) (gather : Bool) : Bool :=
  s.isMain && (s.isVault h || gather) && s.freeChoice

/-- A load goes out: its accesses land in lat cycles. -/
def State.sendLoad (s : State) (h : Handle) (lat : Nat) (dst : LoadDest) (acc : List Access) (gather : Bool) : State :=
  s.emit lat (.load dst acc) .no (s.mayBeLate h gather)

/-- A gated store of the operation that executes (R157, R216). -/
def State.gate (s : State) (cells : List Host.Cell) (lat : Nat) : State :=
  let i := s.iss
  s.setIss { i with stores := i.stores ++ [(s.slot, { cells := cells, iss := s.run, local_ := s.run + lat, reach := s.clock + lat, commit := 0 })] }

/-- A multicast store under way: it lands ten cycles after issue and makes the open panel of the main context
irrevocable (R158, R186, R188). -/
def State.multicast (s : State) (h : Handle) (cells : List Host.Cell) : State :=
  let c := s.core
  let i := c.iss
  { s with core := { c with
      mcast := c.mcast ++ [{ due := s.clock + 10, die := dieOf h.pbase.toNat, mask := h.mask,
                             cells := cells.map fun x => (x.1 % 2 ^ 21, x.2) }],
      iss := { i with irrev := i.irrev || s.isMain } } }

/-- A lining store goes out: it performs at its own point (R268, R270). -/
def State.liningStore (s : State) (cells : List Host.Cell) (lat : Nat) : State :=
  { s with lin := { s.lin with stores := s.lin.stores ++ 
    [{ cells := cells, iss := s.lin.cyc, local_ := s.clock + lat, reach := s.clock + lat, commit := 0 }] } }

/-- Bytes go out through a handle. -/
def State.sendStore (s : State) (h : Handle) (lat : Nat) (cells : List Host.Cell) : State :=
  if h.region == 3 then (if s.isMain && s.runsAhead then s.holdOn 7 else s.multicast h cells)
  else if !s.isMain then s.liningStore cells lat
  else s.gate cells lat

end Sys2Proof.Machine
end

