-- ==== Sys2Proof/Machine/Translate.lean ====
section
/-! DEFINITION. Virtual addresses: the walk, the translation buffers, and the handles that xlat makes (R202 to
R208, R213). -/

namespace Sys2Proof.Machine

/-- The multicast window of a core is enabled (R187); of another die's core that is a free choice (log entry 7). -/
def State.windowOpen (s : State) (die core : Nat) : Bool :=
  if die = s.ownDie then (cellsGet s.reg6.cells (0xA00000 + core)).getLsbD 0
  else Config.freeBit (s.free * 2 ^ 64 + 2 ^ 45 + die * 2 ^ 4 + core)

/-- Multicast windows are enabled for every core of a mask, and the partition owns them (R213). -/
def State.multicastAllowed (s : State) (part : BitVec 6) (die mask : Nat) : Bool :=
  (List.range 16).all fun i => mask / 2 ^ i % 2 == 0 || (s.windowOpen die i && s.ownsQuad part.toNat die (i / 4))

/-- The handle of a leaf (R208), none where R213 forbids it. GEN is set when the handle lands. -/
def State.handleOf (s : State) (part : BitVec 6) (l : Leaf) : Option Handle :=
  let p := l.pbase.toNat
  let mask := if regionOf p = 3 then offsetOf p / 2 ^ 21 % 2 ^ 16 else 0
  if regionOf p = 3 ∧ !s.multicastAllowed part (dieOf p) mask then none
  else some { valid := true, inst := 0, pbase := l.pbase, ps := l.ps, rwam := l.rwam, cls := l.cls, gen := 0,
              vbase := l.vbase, mask := BitVec.ofNat 16 mask }

/-- A page fault at xlat (R161, R206). -/
def State.pageFault (s : State) (va : Dword) : State := s.triggerHere 6 va va 0

/-- A request of a context for an address. -/
def Walk.asks (lining : Bool) (va : Dword) (w : Walk) : Bool := w.lining == lining && w.va == va

/-- Asks the walker for an address, unless it has that request already. One that ended without a fault, and whose leaf has
been dropped since, is asked for again. -/
def State.askWalk (s : State) (va : Dword) : State :=
  let mine := Walk.asks (!s.isMain) va
  if s.xlate.walks.any fun w => mine w && w.ended.isNone then s
  else
    { s with xlate := { s.xlate with walks := (s.xlate.walks.filter fun w => !mine w) ++
        [{ va := va, lining := !s.isMain, ended := none }] } }

/-- The walk of an address has ended in a page fault. -/
def State.walkFaulted (s : State) (va : Dword) : Bool :=
  s.xlate.walks.any fun w => Walk.asks (!s.isMain) va w && w.ended == some false

/-- The first walk that has not ended does. -/
def endFirst (ok : Bool) : List Walk → List Walk
  | [] => []
  | w :: r => if w.ended.isNone then { w with ended := some ok } :: r else w :: endFirst ok r

/-- The die's walker ends the walk that it serves, the first asked for (R205, R206): both buffers take its leaf, or it is a
page fault. -/
def State.endWalk (s : State) : State :=
  match s.xlate.walks.find? (·.ended.isNone) with
  | none => s
  | some w =>
    match s.walk s.id.part w.va with
    | some l => { s.use l with xlate := { (s.use l).xlate with walks := endFirst true s.xlate.walks } }
    | none => { s with xlate := { s.xlate with walks := endFirst false s.xlate.walks } }

end Sys2Proof.Machine
end

