-- ==== Sys2Proof/Machine/Flags.lean ====
section
/-! DEFINITION. The elements that vector operations form, each with the flags it raises (R68, R121 to R147). -/

namespace Sys2Proof.Machine

/-- An element result and its flags. -/
abbrev Elem := Nat × BitVec 5

/-! ## Element types (R30, R121) -/

def typeWidth (t : BitVec 3) : Nat :=
  match t.toNat with
  | 0 => 32 | 1 => 16 | 2 => 16 | 3 => 8 | 4 => 32 | 5 => 16 | 6 => 8 | _ => 32

def typeCount (t : BitVec 3) : Nat := 16384 / typeWidth t

def typeFmt (t : BitVec 3) : Fmt :=
  match t.toNat with
  | 0 => f32 | 1 => bf16 | 2 => f16 | _ => e4m3

def isFloat (t : BitVec 3) : Bool := decide (t.toNat < 4)

/-- An element read as signed; n32 and the unsigned narrow forms read it as unsigned. -/
def typeInt (t : BitVec 3) (unsigned : Bool) (x : Nat) : Int :=
  if t = 7 ∨ unsigned then x else (BitVec.ofNat (typeWidth t) x).toInt

/-- Least and greatest value of an integer type. -/
def typeMin (t : BitVec 3) (unsigned : Bool) : Int := if t = 7 ∨ unsigned then 0 else -(2 ^ (typeWidth t - 1))
def typeMax (t : BitVec 3) (unsigned : Bool) : Int :=
  if t = 7 ∨ unsigned then 2 ^ typeWidth t - 1 else 2 ^ (typeWidth t - 1) - 1

/-- The low w bits of an integer. -/
def lowBits (w : Nat) (i : Int) : Nat := (i % 2 ^ w).toNat

def clampInt (lo hi i : Int) : Int := if i < lo then lo else if hi < i then hi else i

/-! ## Floating point (R127, R128, R147) -/

def binF (f : Fmt) (op : FVal → FVal → FVal × BitVec 5) (x y : Nat) : Elem :=
  let r := op (f.decode x) (f.decode y)
  let w := f.round .rne false r.1
  (w.1, r.2 ||| w.2)

def addE (f : Fmt) : Nat → Nat → Elem := binF f (addX .rne)
def subE (f : Fmt) : Nat → Nat → Elem := binF f fun x y => addX .rne x y.negate
def mulE (f : Fmt) : Nat → Nat → Elem := binF f mulX
def divE (f : Fmt) : Nat → Nat → Elem := binF f divX

def sqrtE (f : Fmt) (x : Nat) : Elem :=
  let r := sqrtX (f.decode x)
  let w := f.round .rne false r.1
  (w.1, r.2 ||| w.2)

/-- Max, and Min with the order reversed (R127). -/
def pickE (f : Fmt) (max : Bool) (x y : Nat) : Elem :=
  let u := f.decode x
  let v := f.decode y
  let inv := snan u ||| snan v
  let r :=
    if u.isNan && v.isNan then f.nan
    else if u.isNan then y
    else if v.isNan then x
    else if !u.less v && !v.less u then
      (if max then (if x = 0 ∨ y = 0 then 0 else x)
       else (if x = f.signed true 0 ∨ y = f.signed true 0 then f.signed true 0 else x))
    else if v.less u == max then x else y
  (r, inv)

def maxE (f : Fmt) : Nat → Nat → Elem := pickE f true
def minE (f : Fmt) : Nat → Nat → Elem := pickE f false

/-- Sign bits alone (R127). -/
def absE (f : Fmt) (x : Nat) : Nat := x % 2 ^ (f.exp + f.frac)
def negE (f : Fmt) (x : Nat) : Nat := x ^^^ 2 ^ (f.exp + f.frac)
def copysignE (f : Fmt) (x y : Nat) : Nat := x % 2 ^ (f.exp + f.frac) + y / 2 ^ (f.exp + f.frac) % 2 * 2 ^ (f.exp + f.frac)

/-- A fused multiply-add with its negations, rounded once (R128). -/
def fmaE (f : Fmt) (negP negD : Bool) (a b d : Nat) : Elem :=
  let p := mulX (f.decode a) (f.decode b)
  let p1 := if negP then p.1.negate else p.1
  let d1 := if negD then (f.decode d).negate else f.decode d
  let r := addX .rne p1 d1
  let w := f.round .rne false r.1
  (w.1, p.2 ||| r.2 ||| w.2)

/-- vldexp (R141). -/
def ldexpE (f : Fmt) (x : Nat) (n : Int) : Elem :=
  match f.decode x with
  | .nan s => (f.nan, if s then flagINV else 0)
  | .inf _ => (x, 0)
  | .fin neg m e => if m = 0 then (x, 0) else f.round .rne false (.fin neg m (e + n))

/-- vclass (R135). -/
def classE (f : Fmt) (x : Nat) : Nat :=
  match f.decode x with
  | .nan s => if s then 1 else 2
  | .inf neg => if neg then 4 else 512
  | .fin neg m _ =>
    let sub := x / 2 ^ f.frac % 2 ^ f.exp == 0
    if m = 0 then (if neg then 32 else 64)
    else if sub then (if neg then 16 else 128)
    else if neg then 8 else 256

/-! ## Conversion (R71, R139, R140) -/

/-- Integer rounding and saturation of a floating-point value: INV outside the range, else INX. -/
def toIntE (lo hi : Int) (w : Nat) (mode : Mode) (v : FVal) : Elem :=
  match v with
  | .nan _ => (0, flagINV)
  | .inf neg => (lowBits w (if neg then lo else hi), flagINV)
  | .fin neg m e =>
    let r := roundInt mode neg m e
    if r.1 < lo then (lowBits w lo, flagINV)
    else if hi < r.1 then (lowBits w hi, flagINV)
    else (lowBits w r.1, if r.2 then flagINX else 0)

/-- One element of vcvt. -/
def convertE (st dt : BitVec 3) (mode : Mode) (sat su du : Bool) (x : Nat) : Elem :=
  if isFloat st then
    let v := (typeFmt st).decode x
    if isFloat dt then
      let r := (typeFmt dt).round mode sat v
      (r.1, r.2 ||| snan v)
    else toIntE (typeMin dt du) (typeMax dt du) (typeWidth dt) mode v
  else
    let i := typeInt st su x
    if isFloat dt then (typeFmt dt).round mode sat (FVal.ofInt i)
    else (lowBits (typeWidth dt) (clampInt (typeMin dt du) (typeMax dt du) i), 0)

/-! ## Algorithms (R142 to R146), in FP32 -/

def fused (a b c : Nat) : Nat := (fmaE f32 false false a b c).1
/-- RoundTo(FP32, RNE, c − a × b). -/
def fusedNeg (a b c : Nat) : Nat := (fmaE f32 true false a b c).1
def roundF (v : FVal) : Nat := (f32.round .rne false v).1
def one32 : Nat := 0x3F800000
def inf32 (neg : Bool) : Nat := f32.inf neg

/-- E(6) down to E(1), after E(7) (R143). -/
def exp2Coeffs : List Nat := [0x39218489, 0x3AAEC3FF, 0x3C1D955B, 0x3D635847, 0x3E75FDF0, 0x3F317218]
/-- L(4) down to L(0), after L(5) (R144). -/
def log2Coeffs : List Nat := [0x3EA4258A, 0x3ED30BB1, 0x3F13BB63, 0x3F76384F, 0x4038AA3B]

def nanE (s : Bool) : Elem := (f32.nan, if s then flagINV else 0)

/-- vexp2 (R143). -/
def exp2E (x : Nat) : Elem :=
  match f32.decode x with
  | .nan s => nanE s
  | .inf neg => if neg then (0, 0) else (inf32 false, 0)
  | .fin neg m e =>
    let v := FVal.fin neg m e
    if !v.less (.fin false 128 0) then (inf32 false, flagOVF ||| flagINX)
    else if v.less (.fin true 150 0) then (0, flagUNF ||| flagINX)
    else
      let n := (roundInt .rne neg m e).1
      let f := (addX .rne v (FVal.ofInt (-n))).1
      let fw := roundF f
      let p := exp2Coeffs.foldl (fun p c => fused p fw c) 0x377FE5FE
      let p := fused p fw one32
      let r := match f32.decode p with
        | .fin a k g => roundF (.fin a k (g + n))
        | _ => p
      let inx : Bool := (match f with | .fin _ k _ => k != 0 | _ => true) || decide (n < -149)
      (r, (if inx then flagINX else 0) ||| (if inx && decide (r % 2 ^ 31 < 0x00800000) then flagUNF else 0))

/-- A finite non-zero magnitude as m × 2^e with 1 ≤ m < 2: the word of m and e. -/
def significand (m : Nat) (e : Int) : Nat × Int :=
  (roundF (.fin false m (-(Nat.log2 m : Int))), e + Nat.log2 m)

def half32 (y : Nat) : FVal :=
  match f32.decode y with
  | .fin n m e => .fin n m (e - 1)
  | v => v

/-- vlog2 (R144). -/
def log2E (x : Nat) : Elem :=
  match f32.decode x with
  | .nan s => nanE s
  | .inf neg => if neg then (f32.nan, flagINV) else (inf32 false, 0)
  | .fin neg m e =>
    if m = 0 then (inf32 true, flagDIV)
    else if neg then (f32.nan, flagINV)
    else
      let (mw, ex) := significand m e
      let big := (f32.decode 0x3FB504F3).less (f32.decode mw)
      let mw := if big then roundF (half32 mw) else mw
      let ex := if big then ex + 1 else ex
      let u := addF32 mw 0xBF800000
      let v := addF32 mw one32
      let s := (divE f32 u v).1
      let z := mulF32 s s
      let q := log2Coeffs.foldl (fun q c => fused q z c) 0x3E864D42
      let p := mulF32 q s
      let r := roundF (addX .rne (FVal.ofInt ex) (f32.decode p)).1
      (r, if mw ≠ one32 then flagINX else 0)

/-- vrcp (R145): the estimate, which is negative for m above 1.5, keeps its sign in the result. -/
def rcpE (x : Nat) : Elem :=
  match f32.decode x with
  | .nan s => nanE s
  | .inf neg => (f32.signed neg 0, 0)
  | .fin neg m e =>
    if m = 0 then (inf32 neg, flagDIV)
    else
      let (mw, ex) := significand m e
      let step := fun y =>
        let h := fusedNeg mw y one32
        fused y h y
      let y := if mw = one32 then one32 else step (step (step (fusedNeg 0x3FF0F0F1 mw 0x4034B4B5)))
      let r := match f32.decode y with
        | .fin below k g => f32.round .rne false (.fin (neg != below) k (g - ex))
        | v => f32.round .rne false v
      (r.1, r.2 ||| (if mw = one32 then 0 else flagINX))

/-- vrsqrt (R146). -/
def rsqrtE (x : Nat) : Elem :=
  match f32.decode x with
  | .nan s => nanE s
  | .inf neg => if neg then (f32.nan, flagINV) else (0, 0)
  | .fin neg m e =>
    if m = 0 then (inf32 neg, flagDIV)
    else if neg then (f32.nan, flagINV)
    else
      let (mw, ex) := significand m e
      let odd := ex % 2 = 1
      let mw := if odd then addF32 mw mw else mw
      let ex := if odd then ex - 1 else ex
      let step := fun y =>
        let t := mulF32 mw y
        let h := fusedNeg t y one32
        fused (roundF (half32 y)) h y
      let y :=
        if mw = one32 then one32
        else step (step (step (if mw < 0x40000000 then fusedNeg 0x3E99999A mw 0x3FA66666
                               else fusedNeg 0x3DCCCCCD mw 0x3F666666)))
      let r := match f32.decode y with
        | .fin below k g => roundF (.fin below k (g - ex / 2))
        | _ => y
      (r, if mw = one32 then 0 else flagINX)

/-- An FP32 algorithm on an element of another type: widened exactly, then rounded (R142). -/
def viaF32 (t : BitVec 3) (alg : Nat → Elem) (x : Nat) : Elem :=
  if t = 0 then alg x
  else
    let v := (typeFmt t).decode x
    match v with
    | .nan s => ((typeFmt t).nan, if s then flagINV else 0)
    | v =>
      let r := alg (roundF v)
      let w := (typeFmt t).round .rne false (f32.decode r.1)
      (w.1, r.2 ||| w.2)

/-! ## Rank and comparison (R70, R131) -/

/-- x ranks strictly above y in an element type (R70). -/
def aboveE (t : BitVec 3) (x y : Nat) : Bool :=
  if isFloat t then ((typeFmt t).decode x).above ((typeFmt t).decode y)
  else decide (typeInt t false y < typeInt t false x)

/-- vcmp by its minor: eq, ne, lt, le, gt, ge, un (R130, R131). -/
def cmpE (t : BitVec 3) (unsigned : Bool) (c x y : Nat) : Bool :=
  if isFloat t then
    let u := (typeFmt t).decode x
    let v := (typeFmt t).decode y
    let un := u.isNan || v.isNan
    match c with
    | 0 => !un && !u.less v && !v.less u
    | 1 => un || u.less v || v.less u
    | 2 => !un && u.less v
    | 3 => !un && !v.less u
    | 4 => !un && v.less u
    | 5 => !un && !u.less v
    | _ => un
  else
    let a := typeInt t unsigned x
    let b := typeInt t unsigned y
    match c with
    | 0 => decide (a = b)
    | 1 => decide (a ≠ b)
    | 2 => decide (a < b)
    | 3 => decide (a ≤ b)
    | 4 => decide (b < a)
    | 5 => decide (b ≤ a)
    | _ => false

/-! ## Reduction trees (R79, R138) -/

/-- One level of the pairwise tree. -/
def treeLevel (op : Nat → Nat → Elem) : List Nat → List Nat × BitVec 5
  | x :: y :: r =>
    let a := op x y
    let rest := treeLevel op r
    (a.1 :: rest.1, a.2 ||| rest.2)
  | l => (l, 0)

/-- The tree over 2^k elements. -/
def treeFold (op : Nat → Nat → Elem) : Nat → List Nat → List Nat × BitVec 5
  | 0, l => (l, 0)
  | k + 1, l =>
    let a := treeLevel op l
    let rest := treeFold op k a.1
    (rest.1, a.2 ||| rest.2)

end Sys2Proof.Machine
end

