-- ==== Sys2Proof/Machine/Vector.lean ====
section
/-! DEFINITION. The vector instructions: majors 0x13 to 0x1A (R121 to R147). -/

namespace Sys2Proof.Machine

/-! ## Elements of a register (R121, R123) -/

/-- Elements packed from the lowest, w bits each. -/
def packElems (w : Nat) : List Nat → Nat
  | [] => 0
  | x :: r => x % 2 ^ w + 2 ^ w * packElems w r

/-- The first n elements of a vector. -/
def unpackElems (w n : Nat) (v : Vec) : List Nat := (List.range n).map fun j => v.toNat / 2 ^ (w * j) % 2 ^ w

/-- Which of the first n elements a mask enables. -/
def enabledBits (n : Nat) (m : Mask) : List Bool := (List.range n).map fun j => m.getLsbD j

/-- The bits of the enabled elements. -/
def enableMask (w : Nat) (en : List Bool) : Vec :=
  BitVec.ofNat 16384 (packElems w (en.map fun b => if b then 2 ^ w - 1 else 0))

/-- Mask bits from conditions; bits from the element count up are zero (R123). -/
def packMask (bs : List Bool) : Mask := BitVec.ofNat 2048 (packElems 1 (bs.map fun b => if b then 1 else 0))

/-- The flags of the enabled elements (R69). -/
def gatherFlags (en : List Bool) (rs : List Elem) : BitVec 5 :=
  (en.zip rs).foldl (fun f x => if x.1 then f ||| x.2.2 else f) 0

/-- A masked vector result: the elements as computed, the enabled ones written (R123, R124). -/
def State.emitVec (s : State) (lat w : Nat) (d : BitVec 5) (m : BitVec 3) (rs : List Nat) (chk : Checked) : State :=
  s.emit lat (.vec d (enableMask w (enabledBits (16384 / w) (s.rm m))) (BitVec.ofNat 16384 (packElems w rs))) chk

/-- A masked vector result whose operation sets flags (R126). -/
def State.emitVecF (s : State) (lat w : Nat) (d : BitVec 5) (m : BitVec 3) (rs : List Elem) : State :=
  (s.emitVec lat w d m (rs.map (·.1)) (.elems w)).emit lat (.flags (gatherFlags (enabledBits (16384 / w) (s.rm m)) rs))

/-- The elements of a vector field in a type. -/
def State.elems (s : State) (t : BitVec 3) (v : BitVec 5) : List Nat := unpackElems (typeWidth t) (typeCount t) (s.rv v)

/-- A masked binary operation that sets flags. -/
def vecBinF (lat : Nat) (f : Fmt → Nat → Nat → Elem) (d a b : BitVec 5) (m t : BitVec 3) (s : State) : Result :=
  plainOp s fun s => s.emitVecF lat (typeWidth t) d m (List.zipWith (f (typeFmt t)) (s.elems t a) (s.elems t b))

/-- A masked binary operation without flags. -/
def vecBin (lat : Nat) (chk : Nat → Checked) (f : BitVec 3 → Nat → Nat → Nat) (d a b : BitVec 5) (m t : BitVec 3) (s : State) : Result :=
  plainOp s fun s => s.emitVec lat (typeWidth t) d m (List.zipWith (f t) (s.elems t a) (s.elems t b)) (chk (typeWidth t))

def noCheck (_ : Nat) : Checked := .no

/-! ## Major 0x13 (R127) -/

def execVaddF (d a b : BitVec 5) (m t : BitVec 3) (s : State) : Result := vecBinF 4 addE d a b m t s
def execVsubF (d a b : BitVec 5) (m t : BitVec 3) (s : State) : Result := vecBinF 4 subE d a b m t s
def execVmulF (d a b : BitVec 5) (m t : BitVec 3) (s : State) : Result := vecBinF 4 mulE d a b m t s
def execVmin (d a b : BitVec 5) (m t : BitVec 3) (s : State) : Result := vecBinF 4 minE d a b m t s
def execVmax (d a b : BitVec 5) (m t : BitVec 3) (s : State) : Result := vecBinF 4 maxE d a b m t s
def execVabs (d a : BitVec 5) (m t : BitVec 3) (s : State) : Result := vecBin 2 noCheck (fun t x _ => absE (typeFmt t) x) d a a m t s
def execVneg (d a : BitVec 5) (m t : BitVec 3) (s : State) : Result := vecBin 2 noCheck (fun t x _ => negE (typeFmt t) x) d a a m t s
def execVcopysign (d a b : BitVec 5) (m t : BitVec 3) (s : State) : Result := vecBin 2 noCheck (fun t x y => copysignE (typeFmt t) x y) d a b m t s

/-! ## Major 0x14 (R128) -/

/-- The fused forms read the destination at issue as the addend. -/
def vecFma (negP negD : Bool) (d a b : BitVec 5) (m t : BitVec 3) (s : State) : Result :=
  plainOp s fun s =>
    s.emitVecF 4 (typeWidth t) d m
      (List.zipWith (fun (x : Nat × Nat) z => fmaE (typeFmt t) negP negD x.1 x.2 z)
        (List.zip (s.elems t a) (s.elems t b)) (s.elems t d))

def execVfma (d a b : BitVec 5) (m t : BitVec 3) (s : State) : Result := vecFma false false d a b m t s
def execVfms (d a b : BitVec 5) (m t : BitVec 3) (s : State) : Result := vecFma false true d a b m t s
def execVfnma (d a b : BitVec 5) (m t : BitVec 3) (s : State) : Result := vecFma true true d a b m t s
def execVfnms (d a b : BitVec 5) (m t : BitVec 3) (s : State) : Result := vecFma true false d a b m t s

/-! ## Major 0x15 (R129) -/

/-- vmulh, vadds and vsubs depend on the signedness of the type. -/
def mulhI (u : Bool) (t : BitVec 3) (x y : Nat) : Nat :=
  lowBits (typeWidth t) ((typeInt t u x * typeInt t u y).fdiv (2 ^ typeWidth t))
def addsI (u : Bool) (t : BitVec 3) (x y : Nat) : Nat :=
  lowBits (typeWidth t) (clampInt (typeMin t u) (typeMax t u) (typeInt t u x + typeInt t u y))
def subsI (u : Bool) (t : BitVec 3) (x y : Nat) : Nat :=
  lowBits (typeWidth t) (clampInt (typeMin t u) (typeMax t u) (typeInt t u x - typeInt t u y))

def execVaddI (d a b : BitVec 5) (m t : BitVec 3) (s : State) : Result := vecBin 2 .elems (fun _ x y => x + y) d a b m t s
def execVsubI (d a b : BitVec 5) (m t : BitVec 3) (s : State) : Result := vecBin 2 .elems (fun t x y => x + 2 ^ typeWidth t - y) d a b m t s
def execVmulI (d a b : BitVec 5) (m t : BitVec 3) (s : State) : Result := vecBin 4 .elems (fun _ x y => x * y) d a b m t s
def execVmulh (d a b : BitVec 5) (m t : BitVec 3) (s : State) : Result := vecBin 4 .elems (mulhI false) d a b m t s
def execVadds (d a b : BitVec 5) (m t : BitVec 3) (s : State) : Result := vecBin 2 .elems (addsI false) d a b m t s
def execVsubs (d a b : BitVec 5) (m t : BitVec 3) (s : State) : Result := vecBin 2 .elems (subsI false) d a b m t s
def execVand (d a b : BitVec 5) (m t : BitVec 3) (s : State) : Result := vecBin 2 .elems (fun _ x y => x &&& y) d a b m t s
def execVor (d a b : BitVec 5) (m t : BitVec 3) (s : State) : Result := vecBin 2 .elems (fun _ x y => x ||| y) d a b m t s
def execVxor (d a b : BitVec 5) (m t : BitVec 3) (s : State) : Result := vecBin 2 .elems (fun _ x y => x ^^^ y) d a b m t s
def execVshl (d a b : BitVec 5) (m t : BitVec 3) (s : State) : Result := vecBin 2 .elems (fun t x y => x * 2 ^ (y % typeWidth t)) d a b m t s
def execVshr (d a b : BitVec 5) (m t : BitVec 3) (s : State) : Result := vecBin 2 .elems (fun t x y => x / 2 ^ (y % typeWidth t)) d a b m t s
def execVsar (d a b : BitVec 5) (m t : BitVec 3) (s : State) : Result := vecBin 2 .elems (fun t x y => lowBits (typeWidth t) ((BitVec.ofNat (typeWidth t) x).toInt.fdiv (2 ^ (y % typeWidth t)))) d a b m t s
def execVmulhN (d a b : BitVec 5) (m t : BitVec 3) (s : State) : Result := vecBin 4 .elems (mulhI true) d a b m t s
def execVaddsN (d a b : BitVec 5) (m t : BitVec 3) (s : State) : Result := vecBin 2 .elems (addsI true) d a b m t s
def execVsubsN (d a b : BitVec 5) (m t : BitVec 3) (s : State) : Result := vecBin 2 .elems (subsI true) d a b m t s
def execVnot (d a : BitVec 5) (m t : BitVec 3) (s : State) : Result := vecBin 2 .elems (fun t x _ => 2 ^ typeWidth t - 1 - x) d a a m t s
def execVpopc (d a : BitVec 5) (m t : BitVec 3) (s : State) : Result := vecBin 2 .elems (fun t x _ => popNat (typeWidth t) x) d a a m t s
def execVclz (d a : BitVec 5) (m t : BitVec 3) (s : State) : Result := vecBin 2 .elems (fun t x _ => clzNat (typeWidth t) x) d a a m t s

/-! ## Major 0x16 (R130 to R135) -/

/-- A masked result in a mask register: disabled bits are written zero (R123). -/
def vecMask (f : Nat → Nat → Bool) (d a b : BitVec 5) (m t : BitVec 3) (s : State) : Result :=
  plainOp s fun s =>
    s.emit 2 (.m (d.extractLsb' 0 3) (BitVec.allOnes 2048)
      (packMask (List.zipWith (fun e (x : Nat × Nat) => e && f x.1 x.2) (enabledBits (typeCount t) (s.rm m))
        (List.zip (s.elems t a) (s.elems t b)))))

def execVcmp (d a b : BitVec 5) (m t c : BitVec 3) (s : State) : Result :=
  vecMask (cmpE t false c.toNat) d a b m t s

/-- The unsigned narrow compares: minors 12 to 15 are lt, le, gt and ge. -/
def execVcmpN (d a b : BitVec 5) (m t : BitVec 3) (c : BitVec 2) (s : State) : Result :=
  vecMask (cmpE t true (c.toNat + 2)) d a b m t s

def execVrankGt (d a b : BitVec 5) (m t : BitVec 3) (s : State) : Result := vecMask (aboveE t) d a b m t s

def execVrankGe (d a b : BitVec 5) (m t : BitVec 3) (s : State) : Result :=
  vecMask (fun x y => !aboveE t y x) d a b m t s

/-- vsel writes every element; its mask field selects (R133). -/
def execVsel (d a b : BitVec 5) (m t : BitVec 3) (s : State) : Result :=
  plainOp s fun s =>
    let pick := enableMask (typeWidth t) (enabledBits (typeCount t) (s.rm m))
    s.emit 1 (.vec d (BitVec.allOnes 16384) (mergeBits (s.rv b) pick (s.rv a)))

/-- vcx (R134): x, y and the swap mask land together. -/
def execVcx (x y : BitVec 5) (d m t : BitVec 3) (s : State) : Result :=
  plainOp s fun s =>
    let w := typeWidth t
    let en := enabledBits (typeCount t) (s.rm m)
    let swap := List.zipWith (fun e (v : Nat × Nat) => e && aboveE t v.2 v.1) en (List.zip (s.elems t x) (s.elems t y))
    let sw := enableMask w swap
    let eb := enableMask w en
    let nx := mergeBits (s.rv x) sw (s.rv y)
    let ny := mergeBits (s.rv y) sw (s.rv x)
    ((s.emit 3 (.vec x eb nx) (.pair w ny)).emit 3 (.vec y eb ny) (.pair w nx)).emit 3
      (.m d (BitVec.allOnes 2048) (packMask swap))

def execVclass (d a : BitVec 5) (m t : BitVec 3) (s : State) : Result :=
  vecBin 2 noCheck (fun t x _ => classE (typeFmt t) x) d a a m t s

/-! ## Major 0x17 (R136) -/

/-- A masked move: element j of the result by its number. -/
def vecMove (lat : Nat) (f : State → Nat → Nat) (d : BitVec 5) (m t : BitVec 3) (s : State) : Result :=
  plainOp s fun s => s.emitVec lat (typeWidth t) d m ((List.range (typeCount t)).map (f s)) .no

/-- Element j of a vector field. -/
def State.elem (s : State) (t : BitVec 3) (v : BitVec 5) (j : Nat) : Nat :=
  (s.rv v).toNat / 2 ^ (typeWidth t * j) % 2 ^ typeWidth t

/-- The source element of vperm. -/
def permIndex (t : BitVec 3) (j i : Nat) : Nat :=
  match typeWidth t with
  | 32 => i % 512
  | 16 => i % 1024
  | _ => 256 * (j / 256) + i % 256

def execVperm (d a b : BitVec 5) (m t : BitVec 3) (s : State) : Result :=
  vecMove 4 (fun s j => s.elem t a (permIndex t j (s.elem t b j))) d m t s

def execVrot (d a b : BitVec 5) (m t : BitVec 3) (s : State) : Result :=
  vecMove 4 (fun s j => s.elem t a ((j + (s.rs b).toNat) % typeCount t)) d m t s

def execVslide (d a b : BitVec 5) (m t : BitVec 3) (s : State) : Result :=
  vecMove 4 (fun s j =>
    let k : Int := j + (s.rs b).toInt
    if 0 ≤ k ∧ k < typeCount t then s.elem t a k.toNat else 0) d m t s

def execVbcast (d a : BitVec 5) (m t : BitVec 3) (s : State) : Result :=
  vecMove 2 (fun s _ => (s.rs a).toNat % 2 ^ typeWidth t) d m t s

/-- Integer types are sign-extended unless unsigned; floating-point types are not. -/
def extendElem (t : BitVec 3) (unsigned : Bool) (x : Nat) : Dword :=
  if isFloat t then BitVec.ofNat 64 x else BitVec.ofInt 64 (typeInt t unsigned x)

def vecExt (unsigned : Bool) (d a b : BitVec 5) (t : BitVec 3) (s : State) : Result :=
  plainOp s fun s => s.emit 2 (.s d (extendElem t unsigned (s.elem t a ((s.rs b).toNat % typeCount t))))

def execVext (d a b : BitVec 5) (t : BitVec 3) (s : State) : Result := vecExt false d a b t s
def execVextN (d a b : BitVec 5) (t : BitVec 3) (s : State) : Result := vecExt true d a b t s

/-- vins writes one element. -/
def execVins (d a b : BitVec 5) (t : BitVec 3) (s : State) : Result :=
  plainOp s fun s =>
    let w := typeWidth t
    let j := (s.rs b).toNat % typeCount t
    s.emit 2 (.vec d (BitVec.ofNat 16384 (vecElem w j (2 ^ w - 1))) (BitVec.ofNat 16384 (vecElem w j (s.rs a).toNat)))

def execVidx (d : BitVec 5) (m t : BitVec 3) (s : State) : Result := vecMove 2 (fun _ j => j) d m t s

def execVzipLo (d a b : BitVec 5) (m t : BitVec 3) (s : State) : Result :=
  vecMove 4 (fun s j => s.elem t (if j % 2 = 0 then a else b) (j / 2)) d m t s

def execVzipHi (d a b : BitVec 5) (m t : BitVec 3) (s : State) : Result :=
  vecMove 4 (fun s j => s.elem t (if j % 2 = 0 then a else b) (j / 2 + typeCount t / 2)) d m t s

/-! ## Reductions: major 0x18 (R137, R138) -/

/-- Enabled elements, and what a disabled one contributes. -/
def State.contributions (s : State) (t : BitVec 3) (a : BitVec 5) (m : BitVec 3) (other : Nat) : List Nat :=
  List.zipWith (fun e x => if e then x else other) (enabledBits (typeCount t) (s.rm m)) (s.elems t a)

/-- A floating-point tree on elements widened to FP32, with flags of the enabled lanes' adds. -/
def vecTree (op : Nat → Nat → Elem) (other : Nat) (d a : BitVec 5) (m t : BitVec 3) (s : State) : State :=
  let wide := fun x => match (typeFmt t).decode x with
    | .nan true => f32.nan - 2 ^ 22 + 1
    | v => roundF v
  let xs := List.zipWith (fun e x => if e then (if t = 0 then x else wide x) else other)
    (enabledBits (typeCount t) (s.rm m)) (s.elems t a)
  let r := treeFold op (if t = 0 then 9 else 10) xs
  (s.emit 9 (.s d (BitVec.ofNat 64 (r.1.headD 0))) .scalar).emit 9 (.flags r.2)

/-- An integer reduction: the winning or combined value. -/
def vecReduce (f : Int → Int → Int) (start : Int) (unsigned : Bool) (d a : BitVec 5) (m t : BitVec 3) (s : State) : State :=
  let xs := (List.zip (enabledBits (typeCount t) (s.rm m)) (s.elems t a)).filterMap fun x =>
    if x.1 then some (typeInt t unsigned x.2) else none
  s.emit 9 (.s d (BitVec.ofInt 64 (xs.foldl f start))) .scalar

def execVredsum (d a : BitVec 5) (m t : BitVec 3) (s : State) : Result :=
  plainOp s fun s => if isFloat t then vecTree (addE f32) 0x80000000 d a m t s else vecReduce (· + ·) 0 false d a m t s

def execVredmax (d a : BitVec 5) (m t : BitVec 3) (s : State) : Result :=
  plainOp s fun s => if isFloat t then vecTree (maxE f32) f32.nan d a m t s else vecReduce max (typeMin t false) false d a m t s

def execVredmin (d a : BitVec 5) (m t : BitVec 3) (s : State) : Result :=
  plainOp s fun s => if isFloat t then vecTree (minE f32) f32.nan d a m t s else vecReduce min (typeMax t false) false d a m t s

def execVredand (d a : BitVec 5) (m t : BitVec 3) (s : State) : Result :=
  plainOp s fun s =>
    s.emit 9 (.s d (BitVec.ofNat 64 ((s.contributions t a m (2 ^ typeWidth t - 1)).foldl (· &&& ·) (2 ^ typeWidth t - 1)))) .scalar

def execVredor (d a : BitVec 5) (m t : BitVec 3) (s : State) : Result :=
  plainOp s fun s => s.emit 9 (.s d (BitVec.ofNat 64 ((s.contributions t a m 0).foldl (· ||| ·) 0))) .scalar

def execVredmaxN (d a : BitVec 5) (m t : BitVec 3) (s : State) : Result :=
  plainOp s fun s => vecReduce max 0 true d a m t s

def execVredminN (d a : BitVec 5) (m t : BitVec 3) (s : State) : Result :=
  plainOp s fun s => vecReduce min (typeMax t true) true d a m t s

def execVredsumN (d a : BitVec 5) (m t : BitVec 3) (s : State) : Result :=
  plainOp s fun s => vecReduce (· + ·) 0 true d a m t s

/-! ## Conversion and scaling: major 0x19 (R139 to R141) -/

/-- vcvt converts min(Ns, Nd) elements; the destination's further elements are written zero, and nothing checks them (R140,
R164). -/
def execVcvt (d a : BitVec 5) (m st t r u : BitVec 3) (s : State) : Result :=
  plainOp s fun s =>
    let nd := typeCount t
    let n := min (typeCount st) nd
    let w := typeWidth t
    let rs := (unpackElems (typeWidth st) n (s.rv a)).map
      (convertE st t (Mode.ofCode r) (u.getLsbD 0) (u.getLsbD 1) (u.getLsbD 2))
    let en := enabledBits n (s.rm m)
    let tail := enableMask w (List.replicate n false ++ List.replicate (nd - n) true)
    let chk : Checked := if isFloat st || isFloat t then .elems w else .no
    ((s.emit 3 (.vec d (enableMask w en) (BitVec.ofNat 16384 (packElems w (rs.map (·.1))))) chk).emit 3 (.vec d tail 0)).emit 3
      (.flags (gatherFlags en rs))

def execVldexp (d a b : BitVec 5) (m t : BitVec 3) (s : State) : Result :=
  vecBinF 3 (fun f x y => ldexpE f x (BitVec.ofNat (typeWidth t) y).toInt) d a b m t s

/-! ## Functions, division and square root: major 0x1A (R142 to R147) -/

def vecUnF (lat : Nat) (f : Nat → Elem) (d a : BitVec 5) (m t : BitVec 3) (s : State) : Result :=
  plainOp s fun s => s.emitVecF lat (typeWidth t) d m ((s.elems t a).map f)

def execVexp2 (d a : BitVec 5) (m t : BitVec 3) (s : State) : Result := vecUnF 12 (viaF32 t exp2E) d a m t s
def execVlog2 (d a : BitVec 5) (m t : BitVec 3) (s : State) : Result := vecUnF 12 (viaF32 t log2E) d a m t s
def execVrcp (d a : BitVec 5) (m t : BitVec 3) (s : State) : Result := vecUnF 12 (viaF32 t rcpE) d a m t s
def execVrsqrt (d a : BitVec 5) (m t : BitVec 3) (s : State) : Result := vecUnF 12 (viaF32 t rsqrtE) d a m t s
def execVdiv (d a b : BitVec 5) (m t : BitVec 3) (s : State) : Result := vecBinF 20 divE d a b m t s
def execVsqrt (d a : BitVec 5) (m t : BitVec 3) (s : State) : Result := vecUnF 20 (sqrtE (typeFmt t)) d a m t s

end Sys2Proof.Machine
end

