-- ==== Sys2Proof/Machine/Engines.lean ====
section
/-! DEFINITION. Engine queues and their commands (R50, R156), tiles, rings and busy bits (R189 to R195), and the
spool's slots (R247). -/

namespace Sys2Proof.Machine

/-! ## Queues (R50) -/

/-- What a command names, for its queue entry. -/
structure CmdUse where
  reads  : List TileNo
  pops   : List TileNo
  writes : List TileNo
  z      : Option TileNo

def noTiles : CmdUse := { reads := [], pops := [], writes := [], z := none }

/-- Packets of the outbox that have not left it: they wait there, and take room in it (R50, R272, R286). -/
def State.unsent (s : State) (e : Engine) : Nat :=
  if e = .outbox then (s.running.filter fun r => r.cmd.engine == .outbox && r.left == 1).length else 0

/-- A command of the operation that executes enters its queue; a full queue holds the bundle under cause 1. Every
command of the main context is held by its panel until the panel commits (R156). -/
def State.command (s : State) (ac : BitVec 6) (u : CmdUse) (op : CmdOp) : State :=
  let e := op.engine
  let q := s.core.queue e
  if queueDepth e ≤ q.length + s.unsent e then s.holdOn 1
  else
    let c : Cmd := { id := s.core.nextId, held := s.isMain, ac := ac, lining := !s.isMain, fmt := s.core.regs.fmt,
                     reads := u.reads, pops := u.pops, writes := u.writes, z := u.z,
                     revoked := false, word := s.opword, baddr := s.bundle.addr, slot := s.slot, op := op }
    { s with core := { s.core.setQueue e (q ++ [c]) with nextId := s.core.nextId + 1 } }

/-- Commands that issued before the bundle that issues now. -/
def State.isOlder (s : State) (c : Cmd) : Bool := decide (c.id < s.save.nextId) || !s.isMain

/-! ## Progress that a rollback does not undo (R155) -/

/-- Tile states change as R190 says. -/
def State.tilesTo (s : State) (ts : List TileNo) (st : BitVec 2) : State :=
  s.mapRegs fun r => ts.foldl (fun r n => r.setTileState n st) r

/-! ## Tiles (R189) -/

def TileEntry.bytesPer (e : TileEntry) : Nat := typeWidth e.type / 8
def TileEntry.rows (e : TileEntry) : Nat := e.rowsM1.toNat + 1
def TileEntry.cols (e : TileEntry) : Nat := e.colsM1.toNat + 1
def TileEntry.footprint (e : TileEntry) : Nat := e.bytesPer * e.rows * e.cols

/-- Bits 63:0 of an entry. -/
def TileEntry.word (e : TileEntry) : Nat :=
  e.state.toNat * 2 ^ 62 + e.type.toNat * 2 ^ 59 + e.rowsM1.toNat * 2 ^ 52 + e.colsM1.toNat * 2 ^ 45 + e.base.toNat

def TileEntry.ofWord (w : Nat) : TileEntry :=
  { state := BitVec.ofNat 2 (w / 2 ^ 62), type := BitVec.ofNat 3 (w / 2 ^ 59), rowsM1 := BitVec.ofNat 7 (w / 2 ^ 52),
    colsM1 := BitVec.ofNat 7 (w / 2 ^ 45), base := BitVec.ofNat 21 w }

/-- A geometry that R189 admits. -/
def TileEntry.legal (e : TileEntry) : Bool :=
  e.base.toNat % 64 == 0 && e.footprint % 64 == 0 && decide (e.base.toNat + e.footprint ≤ 0x200000)

/-- Physical address of an offset in the core's own scratchpad. -/
def State.pad (s : State) (off : Nat) : Nat := scratchBase s.ownDie s.ownCore + off

def State.tile (s : State) (n : TileNo) : TileEntry := s.core.regs.rt (BitVec.ofNat 8 n)

/-- First byte of a tile, as a physical address. -/
def State.tileBase (s : State) (n : TileNo) : Nat := s.pad (s.tile n).base.toNat

/-! ## Rings (R195) -/

def RingEntry.headTile (q : RingEntry) : TileNo := q.base.toNat + q.head.toNat
def RingEntry.tailTile (q : RingEntry) : TileNo := q.base.toNat + q.tail.toNat
def RingEntry.tiles (q : RingEntry) : List TileNo := (List.range q.len).map (q.base.toNat + ·)
def RingEntry.pushed (q : RingEntry) : RingEntry := { q with tail := BitVec.ofNat 8 ((q.tail.toNat + 1) % q.len) }

/-- Bits 31:0 of an entry. -/
def RingEntry.word (q : RingEntry) : Nat :=
  q.base.toNat * 2 ^ 24 + q.lenM1.toNat * 2 ^ 16 + q.head.toNat * 2 ^ 8 + q.tail.toNat

/-- A ring that R195 admits: its tiles exist and share type and geometry. -/
def Regs.ringLegal (r : Regs) (q : RingEntry) : Bool :=
  let t0 := r.rt q.base
  decide (q.base.toNat + q.lenM1.toNat ≤ 255) &&
    q.tiles.all fun n =>
      let t := r.rt (BitVec.ofNat 8 n)
      t.type == t0.type && t.rowsM1 == t0.rowsM1 && t.colsM1 == t0.colsM1

/-! ## Busy bits (R192) -/

/-- Landings of the transposer on a tile that are still to come. -/
def State.xtrOn (s : State) (n : TileNo) : Bool :=
  s.core.flights.any fun f => match f.land with | .xtr t _ _ => t.toNat == n && decide (s.run < f.due) | _ => false

/-- RB: a command that issued earlier has not finished reading the tile. -/
def State.rb (s : State) (n : TileNo) : Bool :=
  (s.core.queued.any fun c => s.isOlder c && c.reads.contains n) ||
    s.running.any fun r => !r.srcRead && r.cmd.reads.contains n

/-- WB: a write of the tile by an earlier command, by a delivery whose bytes are landing, or by the transposer is not
done. -/
def State.wb (s : State) (n : TileNo) : Bool :=
  (s.core.queued.any fun c => s.isOlder c && c.writes.contains n) ||
    (s.running.any fun r => r.cmd.writes.contains n) || (s.arriving.any fun a => a.tile == n) || s.xtrOn n

/-- ZB: a matrix command that issued earlier names the accumulator tile. -/
def State.zb (s : State) (z : TileNo) : Bool :=
  (s.core.queued.any fun c => s.isOlder c && c.z == some z) || s.running.any fun r => r.cmd.z == some z

/-! ## Tile operands (R191, R234) -/

/-- Codes 0 to 247 name tiles, 248 to 255 rings. -/
def isRing (c : BitVec 8) : Bool := decide (248 ≤ c.toNat)
def ringOf (c : BitVec 8) : BitVec 3 := c.extractLsb' 0 3

/-- The ring of an operand is legal, or the operand is a direct tile. -/
def State.operandLegal (s : State) (c : BitVec 8) : Bool :=
  !isRing c || s.core.regs.ringLegal (s.core.regs.rq (ringOf c))

/-- The tile that a read names now, and the one that a write names. -/
def State.readTile (s : State) (c : BitVec 8) : TileNo :=
  if isRing c then (s.core.regs.rq (ringOf c)).headTile else c.toNat

def State.writeTile (s : State) (c : BitVec 8) : TileNo :=
  if isRing c then (s.core.regs.rq (ringOf c)).tailTile else c.toNat

def holdIf (c : Bool) (cause : Nat) (s : State) : State := if c then s.holdOn cause else s

/-- A read of a tile operand: held until the tile is ready and no write is under way; through a ring it claims the
head. -/
def State.claimRead (s : State) (c : BitVec 8) : State :=
  if !s.operandLegal c then s.illegalOperand (c.setWidth 64)
  else
    let n := s.readTile c
    let s := holdIf ((s.tile n).state != 2) 2 (holdIf (s.wb n) 3 s)
    if isRing c then
      let q := s.core.regs.rq (ringOf c)
      { s with core := { s.core with regs := s.core.regs.wq (ringOf c) q.popped } }
    else s

/-- A write of a tile operand: held until the tile is writable; through a ring it claims the tail. -/
def State.claimWrite (s : State) (c : BitVec 8) : State :=
  if !s.operandLegal c then s.illegalOperand (c.setWidth 64)
  else
    let n := s.writeTile c
    let st := (s.tile n).state
    let s := holdIf (if isRing c then st != 0 else st == 1 || st == 3) 2 (holdIf (s.rb n || s.wb n) 3 s)
    if isRing c then
      let q := s.core.regs.rq (ringOf c)
      { s with core := { s.core with regs := s.core.regs.wq (ringOf c) q.pushed } }
    else s

/-- A direct write of a tile without a claim, such as those of the collectives (R259). -/
def State.holdWrite (s : State) (n : TileNo) : State :=
  let st := (s.tile n).state
  holdIf (st == 1 || st == 3) 2 (holdIf (s.rb n || s.wb n) 3 s)

def State.holdRead (s : State) (n : TileNo) : State :=
  holdIf ((s.tile n).state != 2) 2 (holdIf (s.wb n) 3 s)

/-- The tiles that an operand pops when its read ends (R191). -/
def popsOf (c : BitVec 8) (n : TileNo) : List TileNo := if isRing c then [n] else []

/-! ## Starting and completing -/

/-- Whether a byte lies on a poisoned line (R165). -/
def Memory.badAt (m : Memory) (a : Nat) : Bool := m.poison.contains (lineOf a)

/-- A command that an engine runs. -/
def Running.begin (c : Cmd) (clock : Nat) (due : Option Nat) (e : Effect) : Running :=
  { cmd := c, seen := ⟨[], [], []⟩, flowed := [], kept := [], image := [], start := clock, due := due, eff := e, srcRead := false, left := 0, packet := none,
    rounds := 0, ended := false, route := [] }

def Effect.nothing : Effect := { stores := [], poison := [], broke := [], z := none, spool := none, code := 0, addr := 0 }

/-- An engine takes the head of its queue. -/
def State.takeHead (s : State) (e : Engine) : State :=
  { s with core := s.core.setQueue e ((s.core.queue e).drop 1) }

/-- The tiles that a command writes become filling, and those it pops draining (R190). -/
def State.startTiles (s : State) (c : Cmd) : State := (s.tilesTo c.writes 1).tilesTo c.pops 3

/-- Its writes and its reads have ended. -/
def State.endTiles (s : State) (c : Cmd) : State := (s.tilesTo c.writes 2).tilesTo c.pops 0

/-- A running command, and the others. -/
def State.runningCmd (s : State) (id : Nat) : Option Running := s.running.find? fun r => r.cmd.id == id

def State.dropRunning (s : State) (id : Nat) : State :=
  { s with running := s.running.filter fun r => r.cmd.id != id }

def State.putRunning (s : State) (r : Running) : State :=
  { s with running := s.running.map fun x => if x.cmd.id == r.cmd.id then r else x }

/-! ## The spool (R247, R248) -/

def spoolSlots : Nat := 16

/-- Free slots, and reservations not yet claimed, as sh.stat counts them. -/
def State.spoolFree (s : State) : Nat := spoolSlots - s.core.spool.length
def State.spoolUnclaimed (s : State) : List SpoolSlot := s.core.spool.filter fun x => x.claimed.isNone

/-- Reserves a slot for an mdrain of identifier id; with none free the bundle is held under cause 6. -/
def State.reserveSpool (s : State) (id : Nat) (type : BitVec 3) : State :=
  if s.spoolFree = 0 then s.holdOn 6
  else { s with core := { s.core with spool := s.core.spool ++
          [{ id := id, type := type, claimed := none, data := none, held := s.isMain }] } }

/-- Marks a reservation as claimed by a command. -/
def State.claimSpool (s : State) (id cmd : Nat) : State :=
  { s with core := { s.core with spool := s.core.spool.map fun x =>
      if x.id == id then { x with claimed := some cmd } else x } }

/-- A slot is full once its mdrain has completed, and free once the shuttle has read it. -/
def State.fillSpool (s : State) (id : Nat) (bs : List Byte) (poison : List Nat) : State :=
  { s with core := { s.core with spool := s.core.spool.map fun x =>
      if x.id == id then { x with data := some (bs, poison) } else x } }

def State.freeSpool (s : State) (id : Nat) : State :=
  { s with core := { s.core with spool := s.core.spool.filter fun x => x.id != id } }

/-! ## Tile and ring instructions (major 0x21, R231, R232) -/

/-- tdef sets the geometry and leaves the tile empty. -/
def execTdef (n : BitVec 8) (a : BitVec 5) (s : State) : Result :=
  plainOp s fun s =>
    let v := s.rs a
    let w := v.toNat
    let e := TileEntry.ofWord w
    let st := (s.tile n.toNat).state
    let s := holdIf (st == 1 || st == 3) 2 (holdIf (s.rb n.toNat || s.wb n.toNat) 3 s)
    if w / 2 ^ 62 ≠ 0 ∨ w / 2 ^ 21 % 2 ^ 24 ≠ 0 ∨ !e.legal then s.illegalOperand v
    else s.emit 1 (.tile n e)

/-- tstat returns bits 63:0 of the entry, with RB and WB in bits 44 and 43. -/
def execTstat (n : BitVec 8) (d : BitVec 5) (s : State) : Result :=
  plainOp s fun s =>
    let w := (s.tile n.toNat).word + (if s.rb n.toNat then 2 ^ 44 else 0) + (if s.wb n.toNat then 2 ^ 43 else 0)
    s.emit 2 (.s d (BitVec.ofNat 64 w))

/-- tset writes the state alone. -/
def execTset (n : BitVec 8) (t : BitVec 2) (s : State) : Result :=
  plainOp s fun s => (holdIf (s.rb n.toNat || s.wb n.toNat) 3 s).emit 1 (.tileState n.toNat t)

/-- qdef sets BASE and LENM1 and clears both pointers. -/
def execQdef (n : BitVec 3) (a : BitVec 5) (s : State) : Result :=
  plainOp s fun s =>
    let v := s.rs a
    let w := v.toNat
    let q : RingEntry := { base := BitVec.ofNat 8 (w / 2 ^ 24), lenM1 := BitVec.ofNat 8 (w / 2 ^ 16), head := 0, tail := 0 }
    if w / 2 ^ 32 ≠ 0 ∨ w % 2 ^ 16 ≠ 0 ∨ !s.core.regs.ringLegal q then s.illegalOperand v
    else (holdIf (q.tiles.any fun n => s.rb n || s.wb n) 3 s).emit 1 (.ring n q)

/-- qpop empties the head tile and advances HEAD, and HEAD alone: a claim of the same bundle may move TAIL. -/
def execQpop (n : BitVec 3) (s : State) : Result :=
  plainOp s fun s =>
    let q := s.core.regs.rq n
    let t := q.headTile
    ((holdIf ((s.tile t).state != 2) 2 (holdIf (s.wb t) 3 s)).emit 1 (.pop n)).emit 1 (.tileState t 0)

/-- qstat returns bits 31:0 of the entry and the number of ready tiles. -/
def execQstat (n : BitVec 3) (d : BitVec 5) (s : State) : Result :=
  plainOp s fun s =>
    let q := s.core.regs.rq n
    let k := (q.tiles.filter fun t => (s.tile t).state == 2).length
    s.emit 2 (.s d (BitVec.ofNat 64 (k * 2 ^ 32 + q.word)))

end Sys2Proof.Machine
end

