-- ==== Sys2Proof/Machine/Matrix.lean ====
section
/-! DEFINITION. The matrix engine: its arithmetic (R72 to R75), its commands (R234 to R238) and the poison of the
accumulator store (R196). -/

namespace Sys2Proof.Machine

/-! ## Arithmetic -/

/-- A finite value's signed multiple of 2^q, truncated toward zero. -/
def truncAt (q : Int) : FVal → Int
  | .fin neg m e => let r := (roundAt .rtz neg m e q).1; if neg then -(r : Int) else r
  | _ => 0

def FVal.isZero : FVal → Bool
  | .fin _ m _ => m == 0
  | _ => false

def FVal.isInf (s : Bool) : FVal → Bool
  | .inf n => n == s
  | _ => false

/-- Exponent of the most significant bit of a non-zero finite value, and of its last bit. -/
def FVal.topExp : FVal → Int
  | .fin _ m e => e + Nat.log2 m
  | _ => 0

def FVal.lowExp : FVal → Int
  | .fin _ _ e => e
  | _ => 0

def maxInt (a b : Int) : Int := if a ≤ b then b else a
def minInt (a b : Int) : Int := if a ≤ b then a else b

/-- The sum of products on a grid of 2^q, each truncated toward zero, rounded to FP32. -/
def gridSum (ps : List FVal) (q : Int) : Nat :=
  let t := ps.foldl (fun acc p => acc + truncAt q p) 0
  roundF (.fin (decide (t < 0)) t.natAbs q)

/-- The block sum of exact products (R73); bf16 sums keep 40 bits from the largest product down. -/
def blockSum (wide : Bool) (ps : List FVal) : Nat :=
  if ps.any FVal.isNan || (ps.any (FVal.isInf false) && ps.any (FVal.isInf true)) then f32.nan
  else if ps.any (FVal.isInf false) then f32.inf false
  else if ps.any (FVal.isInf true) then f32.inf true
  else
    match ps.filter fun p => !p.isZero with
    | [] => 0
    | x :: r =>
      let q := if wide then r.foldl (fun a p => maxInt a p.topExp) x.topExp - 39
               else r.foldl (fun a p => minInt a p.lowExp) x.lowExp
      gridSum (x :: r) q

/-- Promotion of a block sum (R74); for mmas with the scales of the row and of the B tile. -/
def promote (acc sum : Nat) : Nat := addF32 acc sum

def promoteScaled (acc sum sa sb : Nat) : Nat := addF32 acc (mulF32 sum (mulF32 sa sb))

/-- An element as mdrain writes it (R72): codes of DTYPE. -/
def drainElem (type : Nat) (scale : Option Nat) (a : Nat) : Nat :=
  let y := match scale with | some d => mulF32 a d | none => a
  let v := f32.decode y
  match type with
  | 0 => if v.isNan then f32.nan else y
  | 1 => match v with
    | .inf neg => bf16.signed neg bf16.maxFinite
    | _ => (bf16.round .rtz false v).1
  | _ => (e4m3.round .rtz true v).1

/-! ## Tiles of elements -/

/-- Numbers of w bytes each. -/
def groupBytes (w : Nat) : Nat → List Byte → List Nat
  | 0, _ => []
  | n + 1, bs => leNat (bs.take w) :: groupBytes w n (bs.drop w)

/-- Element (i, j) of an accumulator tile, and its mark. -/
def AccTile.elem (z : AccTile) (i j : Nat) : Nat := (z.data.extractLsb' (32 * (128 * i + j)) 32).toNat
def AccTile.bad (z : AccTile) (i j : Nat) : Bool := z.poison.getLsbD (128 * i + j)

/-- Rows and columns of a 128 × 128 tile. -/
def allElems : List (Nat × Nat) := (List.range 128).flatMap fun i => (List.range 128).map fun j => (i, j)

/-- The accumulator tile of given elements and marks. -/
def AccTile.of (f : Nat → Nat → Nat) (p : Nat → Nat → Bool) : AccTile :=
  { data := BitVec.ofNat 524288 (packElems 32 (allElems.map fun x => f x.1 x.2)),
    poison := BitVec.ofNat 16384 (packElems 1 (allElems.map fun x => if p x.1 x.2 then 1 else 0)) }

def AccTile.zero : AccTile := { data := 0, poison := 0 }

/-- An accumulator tile as a command reads it, some of whose 64-byte row segments SECDED could not correct: their sixteen
elements are poisoned (R196). -/
def AccTile.spoilt (z : AccTile) (segments : List Nat) : AccTile :=
  { z with poison := segments.foldl (fun p k => p ||| BitVec.ofNat 16384 (0xFFFF * 2 ^ (16 * k))) z.poison }

/-! ## Commands -/

/-- Fields of FMT (R112). -/
def fmtMtype (f : Word) : BitVec 3 := f.extractLsb' 0 3
def fmtDtype (f : Word) : BitVec 3 := f.extractLsb' 3 3
def fmtDsc (f : Word) : Bool := f.getLsbD 6

/-- Products of row i of A and column j of B, elements of w bits of a format. -/
def products (f : Fmt) (a b : Array Nat) (i j : Nat) : List FVal :=
  (List.range 128).map fun k => (mulX (f.decode (a.getD (128 * i + k) 0)) (f.decode (b.getD (128 * k + j) 0))).1

/-- The elements of a tile of n elements as memory holds them. -/
def State.tileElems (s : State) (m : Memory) (n : TileNo) (count : Nat) : List Nat :=
  let w := (s.tile n).bytesPer
  groupBytes w count (m.bytes (s.tileBase n) (w * count))

/-- Byte address of element (i, j) of a 128 × 128 tile. -/
def State.elemAddr (s : State) (n : TileNo) (i j : Nat) : Nat := s.tileBase n + (s.tile n).bytesPer * (128 * i + j)

/-- Byte address of the scale tail of a tile (R236). -/
def State.tailAt (s : State) (n : TileNo) : Nat := s.tileBase n + (s.tile n).footprint

/-- The scale tails of an mmas as its start finds them, which it keeps (R236): the 512 bytes behind A, the 4 behind B, and for
each of A's eight tail lines and B's one whether it is poisoned. -/
def State.scaleTails (s : State) (m : Memory) (a b : TileNo) : List Byte :=
  m.bytes (s.tailAt a) 512 ++ m.bytes (s.tailAt b) 4 ++
    ((List.range 8).map fun l => if m.badAt (s.tailAt a + 64 * l) then 1 else 0) ++ [if m.badAt (s.tailAt b) then 1 else 0]

/-- What a matrix command keeps from its start. -/
def State.matrixKeeps (s : State) (m : Memory) (c : Cmd) : List Byte :=
  match c.op with
  | .mma _ a b true => s.scaleTails m a b
  | _ => []

/-- mma and mmas (R236), with the poison of R196, on an accumulator tile. -/
def State.mmaEffect (s : State) (m : Memory) (fmt : Word) (acc : AccTile) (a b : TileNo) (scaled : Bool) (tails : List Byte) : AccTile :=
  let wide := fmtMtype fmt == 1
  let f := if wide then bf16 else e4m3
  let ea := (s.tileElems m a 16384).toArray
  let eb := (s.tileElems m b 16384).toArray
  let sa := (groupBytes 4 128 tails).toArray
  let sb := leNat ((tails.drop 512).take 4)
  let flags := (tails.drop 516).toArray
  let rowBad := ((List.range 128).map fun i =>
    ((List.range 128).any fun k => m.badAt (s.elemAddr a i k)) ||
      (scaled && (flags.getD (i / 16) 0 != 0 || flags.getD 8 0 != 0))).toArray
  let colBad := ((List.range 128).map fun j => (List.range 128).any fun k => m.badAt (s.elemAddr b k j)).toArray
  AccTile.of
    (fun i j =>
      let sum := blockSum wide (products f ea eb i j)
      if scaled then promoteScaled (acc.elem i j) sum (sa.getD i 0) sb else promote (acc.elem i j) sum)
    (fun i j => acc.bad i j || rowBad.getD i false || colBad.getD j false)

/-- The bytes that an mdrain writes, and the lines of the target that hold a poisoned element, by number from the
target's first line. -/
def drainBytes (fmt : Word) (z : AccTile) (scale : Word) : List Byte × List Nat :=
  let t := (fmtDtype fmt).toNat
  let w := typeWidth (fmtDtype fmt) / 8
  let sc := if fmtDsc fmt then some scale.toNat else none
  (allElems.flatMap fun x => leBytes w (drainElem t sc (z.elem x.1 x.2)),
   dedup ((allElems.filter fun x => z.bad x.1 x.2).map fun x => w * (128 * x.1 + x.2) / 64))

/-- An accumulator tile by its number. -/
def State.acc (s : State) (z : TileNo) : AccTile := s.core.z.toArray.getD z AccTile.zero

/-- The effect of a matrix command on memory m, from what it keeps. -/
def State.matrixEffect (s : State) (m : Memory) (c : Cmd) (kept : List Byte) : Effect :=
  match c.op with
  | .mma z a b scaled => { Effect.nothing with z := some (z, s.mmaEffect m c.fmt (s.acc z) a b scaled kept) }
  | .mzero z => { Effect.nothing with z := some (z, AccTile.zero) }
  | .mload z n =>
    let e := (s.tileElems m n 16384).toArray
    { Effect.nothing with
        z := some (z, AccTile.of (fun i j => e.getD (128 * i + j) 0) fun i j => m.badAt (s.elemAddr n i j)) }
  | .mdrain z target spool scale clear =>
    let d := drainBytes c.fmt (s.acc z) scale
    let zz := if clear then some (z, AccTile.zero) else none
    match target with
    | some n =>
      { Effect.nothing with
          stores := [cellsAt (s.tileBase n) d.1], poison := d.2.map (lineOf (s.tileBase n) + ·), z := zz }
    | none => { Effect.nothing with spool := some (spool, d.1, d.2), z := zz }
  | _ => Effect.nothing

/-- An effect with what depends on lost segments of the accumulator tile poisoned (R196). -/
def State.spoilEffect (s : State) (c : Cmd) (segments : List Nat) (e : Effect) : Effect :=
  match c.op with
  | .mma _ _ _ _ => { e with z := e.z.map fun x => (x.1, x.2.spoilt segments) }
  | .mdrain z target _ scale _ =>
    let lines := (drainBytes c.fmt ((s.acc z).spoilt segments) scale).2
    match target with
    | some n => { e with poison := lines.map (lineOf (s.tileBase n) + ·) }
    | none => { e with spool := e.spool.map fun x => (x.1, x.2.1, lines) }
  | _ => e

/-- Core-clock cycles of a matrix command (R235). -/
def matrixCycles (c : Cmd) : Nat :=
  match c.op with
  | .mma _ _ _ _ => if fmtMtype c.fmt == 1 then 128 else 64
  | .mzero _ => 8
  | _ => 32

/-- The matrix engine starts the head of its queue: one command at a time, in queue order (R235). -/
def State.startMatrix (s : State) : State :=
  if s.running.any fun r => r.cmd.engine == .matrix then s
  else
    match s.core.startable .matrix with
    | none => s
    | some c =>
      let s := (s.takeHead .matrix).startTiles c
      let m := s.performed.mem
      let kept := s.matrixKeeps m c
      { s with running := s.running ++
          [{ Running.begin c s.clock (some (s.clock + matrixCycles c)) (s.matrixEffect m c kept) with kept := kept }] }

/-- Its effect takes place. -/
def State.applyZ (s : State) (z : Option (TileNo × AccTile)) : State :=
  match z with
  | some (n, t) => { s with core := { s.core with z := s.core.z.setIfInBounds n t } }
  | none => s

/-- The record of an engine mismatch (R162, R164): cause 7. The manual gives no value for the two residues of a
step of the engine, so they are free. -/
def State.engineCheck (s : State) (c : Cmd) (engine : Nat) : State :=
  let t : Trigger :=
    { cause := 7, smask := slotBit c.slot, slot := c.slot, lane := 0, exp := (Config.freeDword (s.free * 2 ^ 64 + 2 ^ 48)).extractLsb' 0 4,
      obs := (Config.freeDword (s.free * 2 ^ 64 + 2 ^ 48)).extractLsb' 4 4, word := c.word, baddr := c.baddr, addr := 0, detail := 0,
      info := 0, iss := 0, lost := [], lines := [] }
  let s := s.writeMcinfo t
  { s with sys := { s.sys with engine := some (14, BitVec.ofNat 64 engine) } }

/-- A matrix command completes (R235), or its step fails twice: then the engine stops, and the main context traps
with cause 14 when it next issues (R164). Its tiles are read as they stood at its start or as they stand now (R194). -/
def State.completeMatrix (s : State) (id : Nat) (bad : MatrixFault) : State :=
  match s.runningCmd id with
  | none => s
  | some r =>
    if r.cmd.engine ≠ .matrix ∨ r.ended then s
    else if bad.repeated then (s.putRunning { r with due := none, ended := true }).engineCheck r.cmd 1
    else
      let now := s.matrixEffect s.performed.mem r.cmd r.kept
      let read := if Config.freeBit (s.free * 2 ^ 64 + 2 ^ 62 + 2 ^ 20) then r.eff else now
      let e := if bad.segments.isEmpty then read else s.spoilEffect r.cmd bad.segments read
      let s := (s.engineStore (s.lastStores r e.stores) e.poison).applyZ e.z
      let s := match e.spool with | some (k, bs, p) => s.fillSpool k bs p | none => s
      (s.endTiles r.cmd).dropRunning id

/-! ## Instructions (major 0x22) -/

/-- A 128 × 128 tile of a type (R235). -/
def TileEntry.square (e : TileEntry) (t : BitVec 3) : Bool := e.rowsM1 == 127 && e.colsM1 == 127 && e.type == t

/-- A tile operand must be 128 × 128 and of a type; DETAIL holds its number. -/
def State.needSquare (s : State) (n : TileNo) (t : BitVec 3) : State :=
  if (s.tile n).square t then s else s.illegalOperand (BitVec.ofNat 64 n)

/-- A scale tail of n bytes must lie in the scratchpad (R236). -/
def State.needTail (s : State) (n : TileNo) (size : Nat) : State :=
  if (s.tile n).base.toNat + (s.tile n).footprint + size ≤ 0x200000 then s else s.illegalOperand (BitVec.ofNat 64 n)

/-- mma and mmas. -/
def State.issueMma (s : State) (z : BitVec 6) (a b : BitVec 8) (scaled : Bool) : State :=
  let ty := fmtMtype s.core.regs.fmt
  let ta := s.readTile a
  let s := (s.claimRead a).needSquare ta ty
  let tb := s.readTile b
  let s := (s.claimRead b).needSquare tb ty
  let s := if scaled then (s.needTail ta 512).needTail tb 4 else s
  s.command 0 { reads := [ta, tb], pops := popsOf a ta ++ popsOf b tb, writes := [], z := some z.toNat }
    (.mma z.toNat ta tb scaled)

def execMma (z : BitVec 6) (a b : BitVec 8) (s : State) : Result := plainOp s fun s => s.issueMma z a b false

def execMmas (z : BitVec 6) (a b : BitVec 8) (s : State) : Result := plainOp s fun s => s.issueMma z a b true

def execMzero (z : BitVec 6) (s : State) : Result :=
  plainOp s fun s => s.command 0 { noTiles with z := some z.toNat } (.mzero z.toNat)

/-- mdrain writes tile T or the next spool slot, in the type of FMT.DTYPE (R237). -/
def execMdrain (d : BitVec 6) (t : BitVec 8) (p : BitVec 1) (c : BitVec 5) (z : BitVec 1) (s : State) : Result :=
  plainOp s fun s =>
    let ty := fmtDtype s.core.regs.fmt
    let scale := (s.rs c).extractLsb' 0 32
    if p = 1 then
      let id := s.core.nextId
      (s.reserveSpool id ty).command 0 { noTiles with z := some d.toNat } (.mdrain d.toNat none id scale (z == 1))
    else
      let n := s.writeTile t
      ((s.claimWrite t).needSquare n ty).command 0 { noTiles with writes := [n], z := some d.toNat }
        (.mdrain d.toNat (some n) 0 scale (z == 1))

/-- mload copies an f32 tile (R238). -/
def execMload (d : BitVec 6) (t : BitVec 8) (s : State) : Result :=
  plainOp s fun s =>
    let n := s.readTile t
    ((s.claimRead t).needSquare n 0).command 0
      { reads := [n], pops := popsOf t n, writes := [], z := some d.toNat } (.mload d.toNat n)

/-- mwait is held while ZB is set (R238). -/
def execMwait (d : BitVec 6) (s : State) : Result :=
  plainOp s fun s => holdIf (s.zb d.toNat) 3 s

end Sys2Proof.Machine
end

