-- ==== Sys2Proof/Machine/Shuttle.lean ====
section
/-! DEFINITION. The shuttle: routes (R250), collectives and their order of addition (R253 to R257), deliveries (R252),
majors 0x25 and 0x26 (R258 to R265). -/

namespace Sys2Proof.Machine

/-! ## Groups as collectives use them -/

/-- This core is the member of a rank. -/
def State.isMember (s : State) (g : Group) (rank : Nat) : Bool :=
  match g.members.toArray[rank]? with
  | some m => m.die == s.id.die && m.core == s.id.core
  | none => false

def Group.size (g : Group) : Nat := g.members.length

/-- Package of a rank's die. -/
def Group.package (g : Group) (r : Nat) : Nat :=
  match g.members.toArray[r]? with | some m => m.die.toNat / 8 | none => 0

/-- Packages that hold members, Q of R254, and members of each, Pp: only when every package holds as many and their
ranks are consecutive. -/
def Group.shape (g : Group) : Nat × Nat :=
  let p := g.size
  let q := (dedup ((List.range p).map g.package)).length
  let pp := if q = 0 then p else p / q
  if q ≠ 0 ∧ pp * q = p ∧ ((List.range p).all fun r => g.package r == g.package (r / pp * pp)) then (q, pp) else (1, p)

/-- The ranks in the order of R254: for each package, from the owner's, its ranks from the owner's position. -/
def Group.order (g : Group) (c : Nat) : List (List Nat) :=
  let (q, pp) := g.shape
  let lo := c % pp
  let po := c / pp % q
  (List.range q).map fun i => (List.range pp).map fun j => (po + i) % q * pp + (lo + j) % pp

/-- The owner of chunk c (R254). -/
def Group.owner (g : Group) (c : Nat) : Nat :=
  match g.order c with
  | (r :: _) :: _ => r
  | _ => 0

/-! ## Reductions (R254 to R256) -/

def foldAdd : List Nat → Nat
  | [] => 0
  | x :: r => r.foldl addF32 x

/-- The FP32-mode sum of one element, contributions by rank. -/
def Group.sumElem (g : Group) (c : Nat) (x : Nat → Nat) : Nat :=
  foldAdd ((g.order c).map fun rs => foldAdd (rs.map x))

/-- The FAC-mode sum of one element. -/
def Group.facElem (g : Group) (x : Nat → Nat) : FacCell :=
  (List.range g.size).foldl (fun c r => c.add g.facb (x r)) { n := 0, sat := false, nan := false }

/-- An element widened exactly to FP32. -/
def widen (t : BitVec 3) (x : Nat) : Nat := if t = 0 then x else (f32.round .rne false ((typeFmt t).decode x)).1

/-- An FP32 element as a tile's type receives it (R257). -/
def narrow (t : BitVec 3) (x : Nat) : Nat :=
  if t = 0 then x else ((typeFmt t).round .rne true (f32.decode x)).1

/-- Members of major 0x25 by minor: 1 ar, 2 rs, 3 ar.fac, 4 rs.fac, 5 gath, 6 bcast, 7 a2a, 8 rot (with bit 4 of the
argument for dn). -/
def isReduce (minor : Nat) : Bool := decide (1 ≤ minor ∧ minor ≤ 4)
def isFac (minor : Nat) : Bool := minor == 3 || minor == 4
def isScatter (minor : Nat) : Bool := minor == 2 || minor == 4

/-- T of R254 for every element: the words, whether a cell had SAT or NAN, and the poisoned elements. -/
def Group.reduce (g : Group) (minor c : Nat) (parts : List CollPart) : List (BitVec 32) × Bool × List Nat :=
  let data : Nat → Array (BitVec 32) := fun r =>
    match parts.find? (fun p => p.rank == r) with | some p => p.data.toArray | none => #[]
  let at_ := fun (e r : Nat) => ((data r).getD e 0#32).toNat
  let bad := dedup (parts.flatMap (·.bad))
  if isFac minor then
    let cells := (List.range 16384).map fun e => g.facElem (at_ e)
    (cells.map fun c => BitVec.ofNat 32 (c.read g.facb), cells.any fun c => c.sat || c.nan, bad)
  else ((List.range 16384).map fun e => BitVec.ofNat 32 (g.sumElem c (at_ e)), false, bad)

/-! ## Deliveries (R252, R261) -/

/-- A tile operand of a delivery: for this core's own command the tile itself, otherwise coded as R234. -/
def State.deliveryTile (s : State) (d : Delivery) : TileNo :=
  if d.own.isNone && isRing d.tile then (s.core.regs.rq (ringOf d.tile)).tailTile else d.tile.toNat

/-- WB of a tile by a writer other than a command. -/
def State.wbOther (s : State) (n : TileNo) (own : Option Nat) : Bool :=
  (s.core.queued.any fun c => c.writes.contains n && some c.id != own) ||
    (s.running.any fun r => r.cmd.writes.contains n && some r.cmd.id != own) || s.xtrOn n

/-- RB of a tile, commands of every bundle counted. -/
def State.rbAny (s : State) (n : TileNo) : Bool :=
  (s.core.queued.any fun c => c.reads.contains n) || s.running.any fun r => !r.srcRead && r.cmd.reads.contains n

/-- The tile of a delivery is writable. -/
def State.deliverable (s : State) (d : Delivery) : Bool :=
  let n := s.deliveryTile d
  let st := (s.tile n).state
  (if d.own.isNone && isRing d.tile then st == 0 else st == 0 || st == 2) && !s.rbAny n && !s.wbOther n d.own

/-- A byte of which the manual states no value. -/
def freeByte (free i : Nat) : Byte := (Config.freeDword (free * 2 ^ 64 + i)).extractLsb' 0 8

/-- The code of a delivery that its receiver can take: 4 when a packet of it failed its check (R252, R261). -/
def deliveryCode (d : Delivery) : BitVec 4 := if d.err = 0 ∧ !d.failed.isEmpty then 4 else d.err

/-- What a delivery writes at a tile: its bytes, the lines that were poisoned or whose packet failed its check, and its code. A
reduction into a tile that does not hold 128 × 128 elements writes bytes of which the manual states no value (log entry 15). -/
def State.deliveryCells (s : State) (n : TileNo) (d : Delivery) : List Host.Cell × List Nat × BitVec 4 :=
  let e := s.tile n
  let base := s.tileBase n
  let code := deliveryCode d
  if code ≠ 0 ∧ code ≠ 4 then ([], [], code)
  else
    match d.body with
    | .nothing => ([], [], code)
    | .bytes bs bad =>
      if bs.length ≠ e.footprint then ([], [], 1)
      else (cellsAt base bs, (dedup (bad ++ d.failed)).map (base / 64 + ·), code)
    | .reduced els _ bad =>
      let w := e.bytesPer
      if els.length ≠ e.rows * e.cols then
        (cellsAt base ((List.range e.footprint).map fun i => freeByte s.free (n * 2 ^ 21 + i)), [], code)
      else
        (cellsAt base (els.flatMap fun x => leBytes w (narrow e.type x.toNat)),
         (dedup ((bad ++ d.failed).map fun i => w * i / 64)).map (base / 64 + ·), code)

/-- ERR of sh.stat takes the code of a failure. -/
def State.shuttleError (s : State) (code : BitVec 4) : State :=
  if code = 0 then s else { s with sys := { s.sys with shErr := code } }


/-- The first byte of a delivery lands: its tile is filling, and through a ring the tail is claimed. -/
def State.beginDelivery (s : State) (d : Delivery) : State :=
  let n := s.deliveryTile d
  let c := s.deliveryCells n d
  let s := if d.own.isNone && isRing d.tile then
      s.mapRegs fun r => r.wq (ringOf d.tile) (r.rq (ringOf d.tile)).pushed
    else s
  let s := s.tilesTo [n] 1
  { s with arriving := s.arriving ++
      [{ delivery := d, tile := n, start := s.clock, flowed := [], cells := c.1, bad := c.2.1, err := c.2.2 }] }

/-! ## Commands of the shuttle -/

/-- What a collective command of this core is. -/
structure Coll where
  minor : Nat
  gid   : Nat
  rank  : Nat
  cseq  : BitVec 16
  arg   : Nat
  spool : Nat
  dst   : TileNo

def Cmd.coll? (c : Cmd) : Option Coll :=
  match c.op with
  | .coll m g r q a sp d => some ⟨m, g, r, q, a, sp, d⟩
  | _ => none

/-- Parts of an instance that the fabric holds. -/
def State.partsOf (s : State) (gid : Nat) (cseq : BitVec 16) : List CollPart :=
  match s.colls.find? (fun i => i.gid == gid && i.cseq == cseq) with
  | some i => i.parts
  | none => []

def State.setParts (s : State) (gid : Nat) (cseq : BitVec 16) (ps : List CollPart) : State :=
  let rest := s.colls.filter fun i => !(i.gid == gid && i.cseq == cseq)
  { s with colls := if ps.isEmpty then rest else rest ++ [{ gid := gid, cseq := cseq, parts := ps }] }

/-- The tiles of this member that an instance of p members reads or writes: one for each rank, the root's tile, or the two of a
rotation. -/
def Coll.tiles (k : Coll) (p : Nat) : List TileNo :=
  match k.minor with
  | 5 | 7 => (List.range p).map (k.dst + ·)
  | 6 => [k.dst]
  | 8 => [k.dst, k.dst + 1]
  | _ => []

/-- This core's word of a command to the other members, without data: by it the members of an instance find that they
disagree, or that the footprints of sender and receiver differ, also when a command is over (R253, R261; log entry 66). -/
def State.wordOf (s : State) (k : Coll) : CollPart :=
  let p := match s.group k.gid with | some g => g.size | none => 0
  { gid := k.gid, cseq := k.cseq, rank := k.rank, minor := BitVec.ofNat 4 k.minor, arg := k.arg, data := [], bad := [], failed := [],
    feet := (k.tiles p).map fun n => (s.tile n).footprint }

/-- A running command that has nothing left to do is over. -/
def State.settle (s : State) (id : Nat) : State :=
  match s.runningCmd id with
  | some r =>
    if r.srcRead && r.cmd.writes.isEmpty then
      match r.cmd.coll? with
      | some k =>
        (s.setParts k.gid k.cseq [((s.partsOf k.gid k.cseq).find? fun p => p.rank == k.rank).getD (s.wordOf k)]).dropRunning id
      | none => s.dropRunning id
    else s
  | none => s

/-- The last byte of a delivery has landed: its tile is ready, and then its counter increases. -/
def State.endDelivery (s : State) (a : Arriving) : State :=
  let d := a.delivery
  let s := { s with arriving := s.arriving.erase a }
  let s := (s.engineStore (s.notFlowed a.flowed [a.cells]) a.bad).tilesTo [a.tile] 2
  let s := match d.body with
    | .reduced _ true _ => { s with sys := { s.sys with shSat := true } }
    | _ => s
  let s := (s.arrive d.ac (a.err != 0)).shuttleError a.err
  match d.own with
  | none => s
  | some id =>
    match s.runningCmd id with
    | none => s
    | some r => (s.putRunning { r with cmd := { r.cmd with writes := r.cmd.writes.erase a.tile } }).settle id

/-- A step of a delivery (R252): it waits while its tile is not writable, then lands. -/
def State.stepDelivery (s : State) (d : Delivery) : State :=
  let alive := match d.own with | none => true | some id => (s.runningCmd id).isSome
  if !alive then s
  else
    match s.arriving.find? (fun a => a.delivery == d) with
    | some a => s.endDelivery a
    | none =>
      if s.deliverable d then (s.beginDelivery d).onWire (s.clock + 1) (.shuttleDelivery d)
      else s.onWire (s.clock + 1) (.shuttleDelivery d)

/-- A command's counter counts the end of its read (R260). -/
def readCounts (c : Cmd) : Bool :=
  match c.coll? with
  | none => true
  | some k => !isReduce k.minor || (isScatter k.minor && c.writes.isEmpty)

/-- A command fails (R261): its increments that are still to come carry the error, and the tiles it should have written
become ready with their bytes unchanged. -/
def State.failCommand (s : State) (r : Running) (code : BitVec 4) : State :=
  let c := r.cmd
  let n := (if readCounts c && !r.srcRead then 1 else 0) + c.writes.length
  let s := match c.op with
    | .send none sp _ => s.freeSpool sp
    | .coll m _ _ _ _ sp _ => if isReduce m then s.freeSpool sp else s
    | _ => s
  let s := { s with arriving := s.arriving.filter fun a => a.delivery.own != some c.id }
  let s := (s.tilesTo c.writes 2).tilesTo c.pops 0
  let s := (List.range n).foldl (fun s _ => s.arrive c.ac true) s
  (s.dropRunning c.id).shuttleError code

/-- The tile of this core that a part from a rank goes to. -/
def Coll.target (k : Coll) (rank : Nat) : TileNo :=
  if k.minor = 5 ∨ k.minor = 7 then k.dst + rank else if k.minor = 8 then k.dst + 1 else k.dst

/-- The data of a part as bytes. -/
def partBytes (p : CollPart) : List Byte := p.data.flatMap fun x => leBytes 4 x.toNat

/-- The footprints of a tile that rank a sends and of that which rank b writes it to differ, in a group of p members (R259,
R261). -/
def feetDiffer (p : Nat) (a b : CollPart) : Bool :=
  match a.minor.toNat with
  | 5 => a.feet[a.rank]? != b.feet[a.rank]?
  | 6 => a.rank == a.arg && a.feet[0]? != b.feet[0]?
  | 7 => a.feet[b.rank]? != b.feet[a.rank]?
  | 8 => (a.rank + (if a.arg = 0 then 1 else p - 1)) % p == b.rank && a.feet[0]? != b.feet[1]?
  | _ => false

/-- Two members of a group of p disagree on the member of major 0x25 or on its argument (R253), or have tiles of different
footprints (R261). -/
def partsDisagree (p : Nat) (a b : CollPart) : Bool :=
  a.minor != b.minor || (a.arg != b.arg && (isReduce a.minor.toNat || a.minor == 6 || a.minor == 8)) ||
    (a.rank != b.rank && (feetDiffer p a b || feetDiffer p b a))

/-- Poisoned elements, or lines, of what the members sent, and those of packets that failed their check. -/
def failedOf (ps : List CollPart) : List Nat := dedup (ps.flatMap (·.failed))

/-- Delivers to this core's command what its instance has ready (R253, R254). -/
def State.advance (s : State) (r : Running) (k : Coll) (g : Group) : State :=
  let all := s.partsOf k.gid k.cseq
  let ps := all.filter fun p => !p.data.isEmpty
  if all.any (partsDisagree g.size (s.wordOf k)) then (s.setParts k.gid k.cseq []).failCommand r 1
  else if isReduce k.minor then
    if !r.cmd.writes.isEmpty && (List.range g.size).all fun x => ps.any fun p => p.rank == x then
      let t := g.reduce k.minor k.arg ps
      (s.setParts k.gid k.cseq []).onWire (s.clock + 1) (.shuttleDelivery
        { tile := BitVec.ofNat 8 k.dst, ac := r.cmd.ac, own := some r.cmd.id, body := .reduced t.1 t.2.1 t.2.2,
          failed := failedOf ps, err := 0 })
    else s
  else
    ps.foldl (fun s p =>
      if r.cmd.writes.contains (k.target p.rank) then
        s.onWire (s.clock + 1) (.shuttleDelivery
          { tile := BitVec.ofNat 8 (k.target p.rank), ac := r.cmd.ac, own := some r.cmd.id,
            body := .bytes (partBytes p) p.bad, failed := p.failed, err := 0 })
      else s) (s.setParts k.gid k.cseq [])

/-- The running command of this core in an instance goes on, if it has started. -/
def State.advanceInstance (s : State) (gid : Nat) (cseq : BitVec 16) : State :=
  match s.running.find? (fun r => match r.cmd.coll? with | some k => k.gid == gid && k.cseq == cseq | none => false),
        s.group gid with
  | some r, some g => match r.cmd.coll? with | some k => s.advance r k g | none => s
  | _, _ => s

/-- A part of a collective instance reaches this core's die. Of an instance that is over here it can only show that the members
disagree (R261). -/
def State.takePart (s : State) (p : CollPart) : State :=
  let mine := fun (c : Cmd) => match c.coll? with | some k => k.gid == p.gid && k.cseq == p.cseq | none => false
  let open_ := s.core.queued.any mine || s.running.any fun r => mine r.cmd
  let ahead := s.core.regs.g.toList.any fun g => g.v && g.gid.toNat == p.gid && decide ((p.cseq - g.cseq).toNat < 2 ^ 15)
  if open_ || ahead then
    (s.setParts p.gid p.cseq (s.partsOf p.gid p.cseq ++ [p])).advanceInstance p.gid p.cseq
  else if (s.partsOf p.gid p.cseq).any (partsDisagree (match s.group p.gid with | some g => g.size | none => 0) p) then s.shuttleError 1
  else s

/-! ## Routes (R250) -/

/-- The hops of a route list in the core's scratchpad, none where the list is bad (R261, code 3). -/
def State.route (s : State) (m : Memory) (off : Nat) : Option (List Nat) :=
  let head := leNat (m.bytes (s.pad off) 8)
  let n := head % 32
  if 0x200000 < off + 8 ∨ n = 0 ∨ 16 < n ∨ head / 32 ≠ 0 ∨ 0x200000 < off + 8 + 8 * n then none
  else
    let hops := (List.range n).map fun i => leNat (m.bytes (s.pad (off + 8 + 8 * i)) 8)
    let last := match hops.getLast? with | some h => h / 2 ^ 61 | none => 0
    if hops.all hopOk && (last == 3 || last == 4) then some hops else none
where
  hopOk (h : Nat) : Bool :=
    let op := h / 2 ^ 61
    (op == 0 || op == 3 || op == 4) && h / 2 ^ 45 % 4 != 3 && h % 2 ^ 15 == 0

def hopDie (h : Nat) : Nat := h / 2 ^ 51 % 2 ^ 10

/-- The ring that DIR names, none for the routing weights. -/
def hopDir (h : Nat) : Option Bool :=
  let d := h / 2 ^ 45 % 4
  if d = 1 then some true else if d = 2 then some false else none

/-- The unit that a hop is addressed to: a core for DLV, otherwise the shuttle of its die. -/
def hopUnit (h : Nat) : BitVec 7 := if h / 2 ^ 61 = 3 then BitVec.ofNat 7 (80 + h / 2 ^ 47 % 16) else 96

def hopCores (h : Nat) : List Nat :=
  match h / 2 ^ 61 with
  | 3 => [h / 2 ^ 47 % 16]
  | 4 => (List.range 16).filter fun i => h / 2 ^ (15 + i) % 2 == 1
  | _ => []

/-- A hop stays in the partition (R261, code 5): it owns something on the hop's die, and every core that the hop names. -/
def State.hopInside (s : State) (h : Nat) : Bool :=
  decide (hopDie h < 576) && s.ownsOn s.id.part.toNat (hopDie h) &&
    (hopCores h).all fun c => s.ownsQuad s.id.part.toNat (hopDie h) (c / 4)

/-- This core's own part in an instance, while the fabric holds it: its share of the die's reduce buffer (R250). -/
def State.ownPart (s : State) (gid : Nat) (cseq : BitVec 16) : Option CollPart :=
  match s.group gid with
  | some g => (s.partsOf gid cseq).find? fun p => s.isMember g p.rank && !p.data.isEmpty
  | none => none

/-- RADD or RFAC: a partial sum takes in what the reduce buffer holds (R250, R255). -/
def State.addHere (s : State) (fac : Bool) (x : PartialSum) : PartialSum :=
  match s.ownPart x.gid x.cseq, s.group x.gid with
  | some p, some g =>
    let bad := dedup (x.bad ++ p.bad)
    let failed := dedup (x.failed ++ p.failed)
    if fac then
      { x with
        bad := bad
        failed := failed
        cells := (x.cells.zip p.data).map fun c =>
          let y := ({ n := c.1.1, sat := c.1.2.1, nan := c.1.2.2 } : FacCell).add g.facb c.2.toNat
          (y.n, y.sat, y.nan) }
    else { x with bad := bad, failed := failed, words := (x.words.zip p.data).map fun c => BitVec.ofNat 32 (addF32 c.1.toNat c.2.toNat) }
  | _, _ => x

/-- The elements of a sum that is complete, and whether a cell had SAT or NAN. -/
def State.sumOf (s : State) (x : PartialSum) : List Word × Bool :=
  let facb := match s.group x.gid with | some g => g.facb | none => 0
  if x.cells.isEmpty then (x.words, false)
  else (x.cells.map fun c => BitVec.ofNat 32 (({ n := c.1, sat := c.2.1, nan := c.2.2 } : FacCell).read facb),
        x.cells.any fun c => c.2.1 || c.2.2)

/-- What a slot delivers to this core at a hop, none where the core awaits no such sum. -/
def State.hopDelivery (s : State) (p : RingSlot) (h : Nat) : Option Delivery :=
  match p.body with
  | .move bs bad =>
    some { tile := BitVec.ofNat 8 (h / 2 ^ 31), ac := BitVec.ofNat 6 (h / 2 ^ 39), own := none, body := .bytes bs bad,
           failed := failedLines p, err := 0 }
  | .reduce x =>
    match s.running.find? (fun r => !r.cmd.writes.isEmpty &&
        match r.cmd.coll? with | some k => k.gid == x.gid && k.cseq == x.cseq | none => false) with
    | some r =>
      let t := s.sumOf x
      some { tile := BitVec.ofNat 8 (r.cmd.writes.headD 0), ac := r.cmd.ac, own := some r.cmd.id, body := .reduced t.1 t.2 x.bad,
             failed := dedup (x.failed ++ failedElems p), err := 0 }
    | none => none
  | _ => none

/-- A hop at this die cannot take the slot at once (R252, R287): its delivery to this core, or its reduce buffer, is not ready. -/
def State.hopRefuses (s : State) (p : RingSlot) (h : Nat) : Bool :=
  match h / 2 ^ 61, p.body with
  | 0, _ => false
  | 1, .reduce x | 2, .reduce x => (s.ownPart x.gid x.cseq).isNone
  | 1, _ | 2, _ => false
  | _, _ => (hopCores h).contains s.ownCore && (match s.hopDelivery p h with | some d => !s.deliverable d | none => true)

/-- A packet that this core sends to another core of its die leaves for that core's unit; one from elsewhere is not this core's
(R259; log entry 1). -/
def State.handOver (s : State) (first : Bool) (p : RingSlot) (h : Nat) (core : Nat) : State :=
  let unit := BitVec.ofNat 7 (80 + core)
  if first then
    s.launchSlot { p with
      ddie := s.id.die, dunit := unit, via := s.id.die, dir := none, hops := [h], lap := false, bnc := false,
      seq := s.seqTo p.score s.id.die unit }
  else s

/-- A hop of a packet acts at this die (R250). An element of a partial sum whose packet fails its check stays marked, and the
receiver reports it (R252). -/
def State.actHop (s : State) (first : Bool) (p : RingSlot) (h : Nat) : State × RingSlot :=
  match h / 2 ^ 61, p.body with
  | 0, _ => (s, p)
  | 1, .reduce x => (s, { p with body := .reduce (s.addHere false { x with failed := dedup (x.failed ++ failedElems p) }) })
  | 2, .reduce x => (s, { p with body := .reduce (s.addHere true { x with failed := dedup (x.failed ++ failedElems p) }) })
  | 1, _ | 2, _ => (s, p)
  | _, _ =>
    let s := ((hopCores h).filter (· != s.ownCore)).foldl (fun s c => s.handOver first p h c) s
    if (hopCores h).contains s.ownCore then
      match s.hopDelivery p h with
      | some d =>
        let s := match p.body with | .reduce x => s.setParts x.gid x.cseq [] | _ => s
        (s.onWire (s.clock + 1) (.shuttleDelivery d), p)
      | none => (s, p)
    else (s, p)

/-- A packet goes along its route: the hops at this die act, and it leaves for the die of the first one that lies on another. Bytes
keep their check field; a partial sum has one for what it then is. -/
def State.routeOn (s : State) (first : Bool) (p : RingSlot) : List Nat → State
  | [] => s
  | h :: r =>
    if hopDie h = s.ownDie then
      let t := s.actHop first p h
      t.1.routeOn first t.2 r
    else
      let d := BitVec.ofNat 10 (hopDie h)
      let q := { p with
        ddie := d, dunit := hopUnit h, via := d, dir := hopDir h, hops := h :: r, lap := false, bnc := false
        gcrc := match p.body with | .reduce _ => granuleCrcs (slotPayload p.body) | _ => p.gcrc }
      if first then s.launchSlot { q with seq := s.seqTo q.score q.ddie q.dunit } else (slotsOf q).foldl State.depart s

/-- A part of this core in a collective leaves for a member on another core, or for the shuttle of its die. -/
def State.sendCollPart (s : State) (p : CollPart) (die unit : Nat) : State := s.post s.id.core s.id.part.toNat die unit (.coll p)

/-- This core's word of a collective goes to every other member. -/
def State.tellMembers (s : State) (g : Group) (k : Coll) : State :=
  ((List.range g.members.length).zip g.members).foldl (fun s m =>
    if m.1 = k.rank then s else s.sendCollPart (s.wordOf k) m.2.die.toNat (80 + m.2.core.toNat)) s

/-- A tile goes to the member of a rank, unless that is this core. -/
def State.sendTile (s : State) (g : Group) (k : Coll) (rank : Nat) (bs : List Byte) (bad : List Nat) : State :=
  match g.members.toArray[rank]? with
  | some m =>
    if rank = k.rank then s
    else s.sendCollPart { s.wordOf k with data := groupBytes 4 (bs.length / 4) bs |>.map fun x => BitVec.ofNat 32 x, bad := bad }
      m.die.toNat (80 + m.core.toNat)
  | none => s

/-- A contribution goes to the shuttles of the other dies that reduce its chunk: the owner's for the scatter forms, otherwise
every member's (R254, R259; log entry 66). -/
def State.sendContribution (s : State) (g : Group) (k : Coll) (p : CollPart) : State :=
  let dies := if isScatter k.minor then ((g.members.toArray[g.owner k.arg]?).toList.map (·.die.toNat)) else g.members.map (·.die.toNat)
  ((dedup dies).filter (· != s.ownDie)).foldl (fun s d => s.sendCollPart p d 96) s

/-! ## Starting and reading -/

/-- The shuttle starts the head of its queue (R50, R259). -/
def State.startShuttle (s : State) : State :=
  match s.core.startable .shuttle with
  | none => s
  | some c =>
    let s := (s.takeHead .shuttle).tilesTo c.pops 3
    let idle := match c.op with | .coll minor _ rank _ arg _ _ => minor == 6 && rank != arg | _ => false
    let r := { Running.begin c s.clock none Effect.nothing with srcRead := idle }
    match c.op with
    | .send _ _ off =>
      match s.route s.performed.mem off with
      | none => s.failCommand r 3
      | some hops =>
        if hops.all s.hopInside then
          { s with running := s.running ++ [{ r with route := hops }] }
        else s.failCommand r 5
    | .coll minor gid rank cseq arg sp dst =>
      match s.group gid with
      | none => s.failCommand r 2
      | some g =>
        if g.broken then s.failCommand r 2
        else
          let k : Coll := ⟨minor, gid, rank, cseq, arg, sp, dst⟩
          let held := (s.partsOf gid cseq).filter fun p => p.rank != rank
          let s : State := { s with running := s.running ++ [r] }
          ((s.setParts gid cseq held).tellMembers g k).advanceInstance gid cseq
    | _ => s

/-- The bytes and poisoned lines of a tile. -/
def State.tileBytes (s : State) (m : Memory) (n : TileNo) : List Byte × List Nat :=
  let len := (s.tile n).footprint
  let base := s.tileBase n
  (m.bytes base len, (List.range (len / 64)).filter fun i => m.badAt (base + 64 * i))

/-- What a spool slot holds, once its mdrain has completed. -/
def State.spoolData (s : State) (id : Nat) : Option (BitVec 3 × List Byte × List Nat) :=
  match s.core.spool.find? (fun x => x.id == id) with
  | some x => x.data.map fun d => (x.type, d.1, d.2)
  | none => none

/-- What an sh.send has read goes along its route. -/
def State.sendRoute (s : State) (hops : List Nat) (bs : List Byte) (bad : List Nat) : State :=
  s.routeOn true (s.slotFor s.id.core s.id.part.toNat s.ownDie 96 (.move bs bad)) hops

/-- The ranks that a collective of a group of p sends a tile to, with the tile (R259). -/
def Coll.sends (k : Coll) (p : Nat) : List (Nat × TileNo) :=
  match k.minor with
  | 5 => (List.range p).map fun j => (j, k.dst + k.rank)
  | 6 => if k.rank = k.arg then (List.range p).map fun j => (j, k.dst) else []
  | 7 => (List.range p).map fun j => (j, k.dst + j)
  | _ => [((k.rank + (if k.arg = 0 then 1 else p - 1)) % p, k.dst)]

/-- The contribution of this core to a reduction: its spool tile widened (R256). A poisoned line marks its elements. -/
def spoolPart (k : Coll) (t : BitVec 3) (bs : List Byte) (lines : List Nat) : CollPart :=
  let w := typeWidth t / 8
  { gid := k.gid, cseq := k.cseq, rank := k.rank, minor := BitVec.ofNat 4 k.minor, arg := k.arg,
    data := (groupBytes w 16384 bs).map fun x => BitVec.ofNat 32 (widen t x),
    bad := (List.range 16384).filter fun e => lines.contains (w * e / 64), failed := [], feet := [] }

/-- A collective's read of its own tiles has ended: the counter counts it where R260 says so. -/
def State.readOver (s : State) (r : Running) : State :=
  let s := (s.putRunning { r with srcRead := true }).tilesTo r.cmd.pops 0
  (if readCounts r.cmd then s.arrive r.cmd.ac false else s).settle r.cmd.id

/-- The shuttle has read a command's source (R248, R260). -/
def State.sourceRead (s : State) (id : Nat) : State :=
  match s.runningCmd id with
  | none => s
  | some r =>
    if r.srcRead then s
    else
      match r.cmd.op with
      | .send (some n) _ _ =>
        let d := s.tileBytes s.performed.mem n
        (s.sendRoute r.route d.1 d.2).readOver r
      | .send none sp _ =>
        match s.spoolData sp with
        | none => s
        | some d => ((s.sendRoute r.route d.2.1 d.2.2).freeSpool sp).readOver r
      | .coll minor gid rank cseq arg sp dst =>
        let k : Coll := ⟨minor, gid, rank, cseq, arg, sp, dst⟩
        match s.group gid, isReduce minor, s.spoolData sp with
        | some g, true, some d =>
          let p := spoolPart k d.1 d.2.1 d.2.2
          let s := s.setParts gid cseq (s.partsOf gid cseq ++ [p])
          (((s.sendContribution g k p).freeSpool sp).readOver r).advanceInstance gid cseq
        | some g, false, _ =>
          let m := s.performed.mem
          let s := if minor == 8 && g.size == 1 then
              let d := s.tileBytes m dst
              s.onWire (s.clock + 1) (.shuttleDelivery
                { tile := BitVec.ofNat 8 (dst + 1), ac := r.cmd.ac, own := some id, body := .bytes d.1 d.2, failed := [], err := 0 })
            else
              (k.sends g.size).foldl (fun s x => let d := s.tileBytes m x.2; s.sendTile g k x.1 d.1 d.2) s
          s.readOver r
        | _, _, _ => s
      | _ => s

/-! ## Instructions of major 0x25 -/

/-- Claims the oldest reservation for the next command: its identifier (R247). -/
def State.oldestUnclaimed (s : State) : Option Nat :=
  match s.spoolUnclaimed with | x :: _ => some x.id | [] => none

/-- sh.send (R259). -/
def execShSend (t : BitVec 8) (p : BitVec 1) (a : BitVec 4) (k : BitVec 6) (s : State) : Result :=
  plainOp s fun s =>
    let o := s.ra a
    let s := if o.toNat % 8 ≠ 0 then s.illegalOperand o else s
    if p = 1 then
      match s.oldestUnclaimed with
      | none => s.illegalOperand 0
      | some id => (s.claimSpool id s.core.nextId).command k noTiles (.send none id o.toNat)
    else
      let n := s.readTile t
      (s.claimRead t).command k { noTiles with reads := [n], pops := popsOf t n } (.send (some n) 0 o.toNat)

/-- The number of a collective instance: CSEQ of the slot, which then steps (R253, R304). -/
def State.stepCseq (s : State) (g : BitVec 5) : State :=
  let x := s.core.regs.rg g
  { s with core := { s.core with regs := s.core.regs.wg g { x with cseq := x.cseq + 1 } } }

/-- The group that a collective names, checked (R259). -/
def State.collGroup (s : State) (g : BitVec 5) : Option Group :=
  let x := s.core.regs.rg g
  if !x.v then none
  else
    match s.group x.gid.toNat with
    | some d => if s.isMember d x.rank.toNat then some d else none
    | none => none

/-- A tile type into which R257 defines a conversion. -/
def State.floatTarget (s : State) (d : BitVec 8) : Bool :=
  if isRing d then (s.core.regs.rq (ringOf d)).tiles.all fun n => isFloat (s.tile n).type else isFloat (s.tile d.toNat).type

/-- sh.red in its four forms (R259). -/
def State.issueReduce (s : State) (minor : Nat) (g : BitVec 5) (d : BitVec 8) (k : BitVec 6) (c : BitVec 2) : State :=
  match s.collGroup g with
  | none => s.illegalOperand (g.setWidth 64)
  | some gr =>
    let x := s.core.regs.rg g
    let chunk := (s.plainField c).1
    let mine := !isScatter minor || gr.owner chunk == x.rank.toNat
    let s := if s.floatTarget d then s else s.illegalOperand (d.setWidth 64)
    match s.oldestUnclaimed with
    | none => s.illegalOperand 0
    | some id =>
      let n := s.writeTile d
      let s := if mine then s.claimWrite d else s
      ((s.claimSpool id s.core.nextId).command k { noTiles with writes := if mine then [n] else [] }
        (.coll minor x.gid.toNat x.rank.toNat x.cseq chunk id n)).stepCseq g

def execShRedAr (g : BitVec 5) (d : BitVec 8) (k : BitVec 6) (c : BitVec 2) (s : State) : Result :=
  plainOp s fun s => s.issueReduce 1 g d k c

def execShRedRs (g : BitVec 5) (d : BitVec 8) (k : BitVec 6) (c : BitVec 2) (s : State) : Result :=
  plainOp s fun s => s.issueReduce 2 g d k c

def execShRedArFac (g : BitVec 5) (d : BitVec 8) (k : BitVec 6) (c : BitVec 2) (s : State) : Result :=
  plainOp s fun s => s.issueReduce 3 g d k c

def execShRedRsFac (g : BitVec 5) (d : BitVec 8) (k : BitVec 6) (c : BitVec 2) (s : State) : Result :=
  plainOp s fun s => s.issueReduce 4 g d k c

/-- A collective that moves bytes: the tiles it reads and writes are held and marked (R259). -/
def State.issueMove (s : State) (minor : Nat) (g : BitVec 5) (d : BitVec 8) (k : BitVec 6) (arg : Nat)
    (reads writes : List TileNo) : State :=
  let x := s.core.regs.rg g
  let s := reads.foldl State.holdRead s
  let s := writes.foldl State.holdWrite s
  (s.command k { noTiles with reads := reads, writes := writes }
    (.coll minor x.gid.toNat x.rank.toNat x.cseq arg 0 d.toNat)).stepCseq g

/-- The other ranks of a group of p. -/
def otherRanks (p r : Nat) : List Nat := (List.range p).filter (· != r)

/-- sh.gath: every member sends t(D + r). -/
def execShGath (g : BitVec 5) (d : BitVec 8) (k : BitVec 6) (s : State) : Result :=
  plainOp s fun s =>
    match s.collGroup g with
    | none => s.illegalOperand (g.setWidth 64)
    | some gr =>
      let r := (s.core.regs.rg g).rank.toNat
      if 247 < d.toNat + gr.size - 1 then s.illegalOperand (d.setWidth 64)
      else s.issueMove 5 g d k 0 [d.toNat + r] ((otherRanks gr.size r).map (d.toNat + ·))

/-- sh.bcast: the root sends tD. -/
def execShBcast (g : BitVec 5) (d : BitVec 8) (k : BitVec 6) (c : BitVec 2) (s : State) : Result :=
  plainOp s fun s =>
    match s.collGroup g with
    | none => s.illegalOperand (g.setWidth 64)
    | some gr =>
      let r := (s.core.regs.rg g).rank.toNat
      let root := (s.plainField c).1
      if gr.size ≤ root then s.illegalOperand (BitVec.ofNat 64 root)
      else if r = root then s.issueMove 6 g d k root [d.toNat] []
      else s.issueMove 6 g d k root [] [d.toNat]

/-- sh.a2a: t(D + j) goes to member j, and t(D + r) of member j comes from rank j into t(D + j). -/
def execShA2a (g : BitVec 5) (d : BitVec 8) (k : BitVec 6) (s : State) : Result :=
  plainOp s fun s =>
    match s.collGroup g with
    | none => s.illegalOperand (g.setWidth 64)
    | some gr =>
      let r := (s.core.regs.rg g).rank.toNat
      let ts := (otherRanks gr.size r).map (d.toNat + ·)
      if 247 < d.toNat + gr.size - 1 then s.illegalOperand (d.setWidth 64)
      else s.issueMove 7 g d k 0 ts ts

/-- sh.rot: tS goes to the next rank up or down, which writes t(S + 1). -/
def execShRot (g : BitVec 5) (t : BitVec 8) (k : BitVec 6) (r : BitVec 1) (s : State) : Result :=
  plainOp s fun s =>
    match s.collGroup g with
    | none => s.illegalOperand (g.setWidth 64)
    | some _ =>
      if 247 < t.toNat + 1 then s.illegalOperand (t.setWidth 64)
      else s.issueMove 8 g t k r.toNat [t.toNat] [t.toNat + 1]

/-- sh.stat (R262). -/
def execShStat (d : BitVec 5) (s : State) : Result :=
  plainOp s fun s =>
    let w := s.sys.shErr.toNat * 2 ^ 16 + (if s.sys.shSat then 2 ^ 14 else 0) + s.core.shuttleQ.length * 2 ^ 10 +
      s.spoolUnclaimed.length * 2 ^ 5 + s.spoolFree
    s.emit 2 (.s d (BitVec.ofNat 64 w))

/-! ## Arrival counters (major 0x26) -/

/-- acset (R263). -/
def execAcset (k : BitVec 6) (a : BitVec 5) (p : BitVec 3) (s : State) : Result :=
  predOp p s fun s => s.emit 1 (.acset k ((s.rs a).extractLsb' 0 32))

/-- acadd (R263). -/
def execAcadd (k : BitVec 6) (p : BitVec 3) (i : BitVec 9) (s : State) : Result :=
  predOp p s fun s => s.emit 1 (.acadd k ((s.signedField i).extractLsb' 0 32))

/-- acrd returns the count, with the error bit in bit 32 (R263). -/
def execAcrd (k : BitVec 6) (d : BitVec 5) (p : BitVec 3) (s : State) : Result :=
  predOp p s fun s =>
    let a := s.core.regs.rac k
    s.emit 2 (.s d (BitVec.ofNat 64 ((if a.err then 2 ^ 32 else 0) + a.count.toNat)))

/-- The test of an acwait. -/
def ArrivalCounter.passes (a : ArrivalCounter) (n : Nat) : Bool := decide (n ≤ a.count.toNat) || a.err

/-- A timed wait of the slot that executes. -/
def State.waitSlot (s : State) : Nat := if s.isMain then s.slot.val else 4

def State.waitHere (s : State) (kind : Nat) : Option TimedWait :=
  s.hold.waits.find? fun w => w.slot == s.waitSlot && w.kind == kind

/-- A wait goes on: its first held cycle sets its limit, where it has one (R264, R329). -/
def State.waitOn (s : State) (kind limit what need : Nat) : State :=
  let s := if limit = 0 ∨ (s.waitHere kind).isSome then s
    else { s with hold := { s.hold with waits := s.hold.waits ++
            [{ slot := s.waitSlot, kind := kind, since := s.ptimeNs, limit := limit, expired := false,
               what := what, need := need }] } }
  s.holdOn 7

/-- acwait (R264): held until it passes or its time runs out; the lining never waits. -/
def execAcwait (k : BitVec 6) (t : BitVec 5) (p : BitVec 3) (n : BitVec 9) (s : State) : Result :=
  plainOp s fun s =>
    let a := s.core.regs.rac k
    let need := (s.plainField n).1
    let ok := decide (need ≤ a.count.toNat) && !a.err
    let out := match s.waitHere 0 with | some w => w.expired | none => false
    if out then s.emit 1 (.p p false)
    else if !s.isMain || a.passes need then s.emit 1 (.p p ok)
    else s.waitOn 0 (s.rs t).toNat k.toNat need

/-- A write of a counter that is due in this running cycle. -/
def countsNow (run : Nat) (f : Flight) : Bool :=
  decide (f.due ≤ run) && match f.land with | .acset _ _ => true | .acadd _ _ => true | _ => false

/-- The counters with the writes of the frozen cycle landed, as the test of each cycle finds them (R264). -/
def State.countersNow (s : State) : Regs := (s.core.flights.filter (countsNow s.run)).foldl (fun r f => s.landed f r) s.core.regs

/-- The waits of a kind whose time has come run out, unless an acwait's test passes by then (R264). -/
def State.expireWaits (s : State) (kind : Nat) : State :=
  let late := fun (w : TimedWait) => w.kind == kind && waitOver s w &&
    !(kind == 0 && (s.countersNow.rac (BitVec.ofNat 6 w.what)).passes w.need)
  { s with hold := { s.hold with waits := s.hold.waits.map fun w => if late w then { w with expired := true } else w } }

end Sys2Proof.Machine
end

