-- ==== Sys2Proof/Machine/Agree.lean ====
section
/-! DEFINITION. Agreement: major 0x12 at the core (R311 to R318), the combiner root (R306 to R310), seams (R171) and
notches (R168, R169). -/

namespace Sys2Proof.Machine

/-! ## Descriptor images (R305) -/

/-- The group that a descriptor image lays out, none for one that breaks the limits. -/
def Group.ofImage (gid : Nat) (bs : List Byte) : Option Group :=
  let at_ := fun (o n : Nat) => leNat ((bs.drop o).take n)
  let p := at_ 0 2
  let ms := (List.range p).map fun r => at_ (0x10 + 2 * r) 2
  if p = 0 ∨ 9216 < p ∨ bs.length ≠ 0x10 + 2 * p ∨ at_ 2 1 = 0 ∨ 64 ≤ at_ 2 1 ∨ 2 ≤ at_ 3 1 ∨ at_ 4 4 = 0 ∨ at_ 8 4 % 16 ≠ 0 ∨
      !fetchable (at_ 8 4) ∨ at_ 0xE 2 ≠ 0 ∨ (ms.any fun m => decide (576 * 16 ≤ m)) ∨ (dedup ms).length ≠ p then none
  else
    some
      { gid := gid, ops := BitVec.ofNat 6 (at_ 2 1), present := at_ 3 1 == 1, late := at_ 4 4, handler := at_ 8 4,
        facb := (BitVec.ofNat 16 (at_ 0xC 2)).toInt,
        members := ms.map fun m => { die := BitVec.ofNat 10 (m / 16), core := BitVec.ofNat 4 m, current := true },
        pending := [], resolved := [], deadNext := false, next := 0, broken := false, launched := [] }

/-- This core's job lives and was launched with a group, whose descriptor is then fixed (R266). -/
def State.groupFixed (s : State) (g : Group) : Bool := s.jobLives && g.launched.contains s.ownCore

/-- A core of this die is launched with a group: the GPM has installed the group's descriptor, anew when the core has been
released since the last time, or a member died (R261), unless this core's job holds it fixed; none when the image is rejected
(log entry 68). -/
def State.joinLaunch (s : State) (core gid : Nat) : Option State :=
  match (s.group gid).filter fun g => s.groupFixed g || (!g.broken && !g.launched.contains core) with
  | some g => some (s.putGroup { g with launched := g.launched ++ [core] })
  | none => (Group.ofImage gid (Config.groupImage (s.free * 2 ^ 64 + gid))).map fun g =>
      { s with groups := (s.groups.filter fun x => x.gid != gid) ++ [{ g with launched := [core] }] }

/-! ## Run-ahead (R314) -/

/-- Instructions that are held during run-ahead whatever their operands (R314). Multicast stores are held where they go
out, and what would trap where the bundle ends. -/
def heldAhead (w : Word) (i : Instr) : Bool :=
  match i with
  | .tack | .seam _ | .notch _ | .ifence | .halt _ | .idle _ | .bswap _ _ | .ist _ _ _ _ | .mtsr _ _ _ _ _ => true
  | .shStat _ | .clRd _ _ | .clMask _ _ | .clLvl _ _ | .mwait _ => false
  | _ =>
    let m := majorOf w
    m == 0x12 || m == 0x1F || (m == 0x22 && decide (bits w.toNat 22 3 ≤ 4)) || m == 0x24 || m == 0x25 || m == 0x27 || m == 0x28 || m == 0x29

/-- A bundle holds one of them. -/
def bundleHeldAhead (words : Vector Word 4) : Bool :=
  ([0, 1, 2, 3] : List Cl).any fun k =>
    match slotInstr (wordAt words k) with
    | some i => heldAhead (wordAt words k) i
    | none => false

/-! ## The group slot and the report store (R304, R308, R317) -/

def State.report (s : State) (n : Nat) : Report :=
  match s.sys.reports.find? (fun x => x.1 == n) with
  | some x => x.2
  | none => { tags := [], members := 0 }

def State.setReport (s : State) (n : Nat) (r : Report) : State :=
  { s with sys := { s.sys with reports := (s.sys.reports.filter fun x => x.1 != n) ++ [(n, r)] } }

/-- Doubleword W of a mask of ranks. -/
def maskWord (m w : Nat) : Dword := BitVec.ofNat 64 (m / 2 ^ (64 * w))

/-- What agst returns (R317). -/
def agstValue (g : GroupSlot) (r : Report) (a : Dword) : Dword :=
  let w := a.toNat / 2 ^ 10 % 2 ^ 14
  if a.getLsbD 25 then g.word
  else if a.getLsbD 24 then maskWord r.members w
  else
    match r.tags.find? (fun x => x.1 == a.extractLsb' 0 10) with
    | some x => maskWord x.2 w
    | none => 0

/-! ## agr, agv, agj, agst -/

/-- The agreement header of the bundle: target offset in bundles, and site tag (R20). -/
def State.agreeHeader (s : State) : Int × BitVec 10 :=
  match s.bundle.header with
  | some h => ((h.extractLsb' 0 14).toInt, h.extractLsb' 14 10)
  | none => (0, 0)

/-- Issues an agreed branch (R311, R313): it traps, or acts as a tack, steps ASEQ, and forms its contribution. -/
def State.issueAgreed (s : State) (n : BitVec 5) (kind : AgreeKind) (x ref : Word) (op cc : BitVec 3) (hint : Nat) (nr : Bool) : State :=
  let g := s.core.regs.rg n
  let (off, tag) := s.agreeHeader
  let s := if tag = 1023 ∨ !g.v ∨ !g.ops.getLsbD op.toNat then s.illegalOperand (s.opword.setWidth 64) else s
  let isAgr := match kind with | .agr => true | _ => false
  let target : Int := (s.here : Int) + 16 * (if isAgr then off else 0)
  let s := if s.validTarget target then s else s.illegalTarget (BitVec.ofInt 64 target)
  let s := s.actAsTack
  let s := s.emit 1 (.aseq n (g.aseq + 1))
  let i := s.iss
  let part : Contribution :=
    { gid := g.gid.toNat, rank := g.rank.toNat, die := s.id.die, core := s.id.core, seq := g.aseq, tag := tag,
      agv := !isAgr, op := op, cc := cc, value := x, ref := ref }
  let a : AgreeWait :=
    { slot := n, kind := kind, gid := g.gid.toNat, seq := g.aseq, tag := tag, baddr := s.bundle.addr,
      target := target.toNat, ahead := if hint = 1 then some true else if hint = 2 then some false else none,
      part := some part, nr := nr, limit := s.save.nextId, iss := s.run, after := s.core.regs }
  s.setIss { i with flow := if hint = 1 then .arm target.toNat else i.flow, agree := some a }

/-- agr (R313). -/
def execAgr (g x y : BitVec 5) (o c : BitVec 3) (h : BitVec 2) (n : BitVec 1) (s : State) : Result :=
  plainOp s fun s =>
    s.issueAgreed g .agr ((s.rs x).extractLsb' 0 32) ((s.rs y).extractLsb' 0 32) o c h.toNat (n == 1)

/-- agv (R313). -/
def execAgv (g d x : BitVec 5) (o : BitVec 3) (n : BitVec 1) (s : State) : Result :=
  plainOp s fun s => s.issueAgreed g (.agv d) ((s.rs x).extractLsb' 0 32) 0 o 0 0 (n == 1)

/-- agj (R316): the request leaves when the bundle commits, and the next bundle waits. -/
def execAgj (g : BitVec 5) (s : State) : Result :=
  plainOp s fun s =>
    let x := s.core.regs.rg g
    if !x.v then s.illegalOperand (s.opword.setWidth 64)
    else
      let i := s.iss
      let a : AgreeWait :=
        { slot := g, kind := .agj, gid := x.gid.toNat, seq := x.aseq, tag := 0, baddr := s.bundle.addr, target := s.here,
          ahead := none, part := none, nr := true, limit := 0, iss := s.run, after := s.core.regs }
      s.setIss { i with agree := some a }

/-- agst (R317). -/
def execAgst (g d a : BitVec 5) (s : State) : Result :=
  plainOp s fun s =>
    let x := s.rs a
    if x.toNat / 2 ^ 26 ≠ 0 ∨ (x.getLsbD 24 && x.getLsbD 25) then s.illegalOperand x
    else s.emit 2 (.s d (agstValue (s.core.regs.rg g) (s.report g.toNat) x))

/-! ## Seams (R171) -/

/-- The number of seam d at its issue; with PEND clear an entry that the table lacks has a free number (log entry 16). -/
def State.seamNumber (s : State) (d : Nat) : Word :=
  match s.sys.seams.toArray[d]? with
  | some e =>
    let base := e.extractLsb' 32 32
    if e.getLsbD 13 then base + BitVec.ofNat 32 (e.toNat / 2 ^ 16 % 2 ^ 16) * (s.core.regs.loop (e.toNat / 2 ^ 10 % 8)).index
    else base
  | none => (Config.freeDword (2 ^ 80 + d)).extractLsb' 0 32

/-- CUTV and CUT of SEAMREQ (R170). -/
def State.cutKnown (s : State) : Bool := s.sys.seamreq.getLsbD 62
def State.cutValue (s : State) : Nat := s.sys.seamreq.toNat % 2 ^ 32

/-- The core passes a seam, or stops at it. Seam numbers are compared without a sign (DESIGN CHOICE; log entry 74). -/
def State.reachSeam (s : State) (d : BitVec 16) (n : Word) : State :=
  let i := s.iss
  if s.sys.seamreq.getLsbD 63 ∧ s.cutValue ≤ n.toNat then s.setIss { i with stop := some (.seam d), seam := some n }
  else s.setIss { i with seam := some n }

/-- seam: with PEND set, an entry beyond the table traps (R370), and while the cut is unknown the core contributes once and
waits (R171). -/
def execSeam (d : BitVec 16) (s : State) : Result :=
  plainOp s fun s =>
    let n := s.seamNumber d.toNat
    if s.sys.seamreq.getLsbD 63 && decide (s.sys.seams.length ≤ d.toNat) then s.illegalOperand (d.setWidth 64)
    else if !s.sys.seamreq.getLsbD 63 || s.cutKnown then s.reachSeam d n
    else
      match s.sys.cut with
      | .answered => s.reachSeam d n
      | .sent _ => ({ s with sys := { s.sys with cut := CutState.sent true } } : State).holdOn 7
      | .fresh =>
        let g := s.groupSlot s.sgrp
        if !g.v || !g.ops.getLsbD 4 then s.illegalOperand (s.opword.setWidth 64) else (s.sendCut n true).holdOn 7

/-! ## Notches (R168, R169) -/

/-- Late limit of the partners' group, zero without one; free, from 1 ns to 2^32 - 1 ns, where this die holds no descriptor of
it (log entry 56). -/
def State.notchLimit (s : State) : Nat :=
  let g := s.groupSlot s.pgrp
  if !g.v then 0
  else match s.group g.gid.toNat with
    | some d => d.late
    | none => 1 + (Config.freeDword (2 ^ 81 + g.gid.toNat)).toNat % (2 ^ 32 - 1)

/-- notch: held while a partner's hold is pending below it (R168); the trap of R169 when the hold lasts too long. -/
def execNotch (n : BitVec 16) (s : State) : Result :=
  plainOp s fun s =>
    let held := s.sys.holds.any fun h => decide (h.carried.toNat < n.toNat ∧ h.passed.toNat < n.toNat)
    let i := s.iss
    if !held then s.setIss { i with notch := some n }
    else
      match s.waitHere 2 with
      | some w => if w.expired then s.trapOn 12 (n.setWidth 64) else s.waitOn 2 s.notchLimit 0 0
      | none => s.waitOn 2 s.notchLimit 0 0

/-- A notch hold has lasted its time. -/
def execNotchHoldTimeout (s : State) : Result := .next (s.expireWaits 2)

/-- A partner's hold, or its release, reaches this core; the release of an eret carries the highest notch. -/
def execNotchHoldArrival (h : HoldMsg) (s : State) : Result :=
  let hs := s.sys.holds
  let new := if h.set then (hs.filter fun x => x.rank != h.rank) ++ [{ rank := h.rank, carried := h.notch, passed := h.notch }]
    else (hs.map fun x => if x.rank = h.rank ∧ x.passed.toNat < h.notch.toNat then { x with passed := h.notch } else x).filter
      fun x => x.passed != 0xFFFF
  .next { s with sys := { s.sys with holds := new } }

/-! ## The combiner root -/

/-- The combined value of a list of INT32 values (R307). -/
def combine (op : BitVec 3) (vs : List Word) : Word :=
  match op.toNat with
  | 0 => if vs.all (· != 0) then 1 else 0
  | 1 => if vs.any (· != 0) then 1 else 0
  | 2 => vs.foldl (· + ·) 0
  | 3 => least (fun a b => a.slt b) vs
  | 4 => least (fun a b => b.slt a) vs
  | _ => match vs with | [] => 1 | x :: r => if r.all (· == x) then 1 else 0
where
  least (lt : Word → Word → Bool) : List Word → Word
    | [] => 0
    | x :: r => r.foldl (fun m y => if lt y m then y else m) x

/-- Two contributions agree in what R308 compares. -/
def sameSite (a b : Contribution) : Bool :=
  a.tag == b.tag && a.agv == b.agv && a.op == b.op && a.cc == b.cc && a.ref == b.ref

/-- The core of a rank is a current member. -/
def Group.isCurrent (g : Group) (rank : Nat) (die : BitVec 10) (core : BitVec 4) : Bool :=
  match g.members.toArray[rank]? with
  | some m => m.current && m.die == die && m.core == core
  | none => false

/-- Ranks of the current members. -/
def Group.currentRanks (g : Group) : List Nat :=
  ((List.range g.members.length).zip g.members).filterMap fun x => if x.2.current then some x.1 else none

def Group.setCurrent (g : Group) (ranks : List Nat) (c : Bool) : Group :=
  { g with members := ((List.range g.members.length).zip g.members).map fun x =>
      if ranks.contains x.1 then { x.2 with current := c } else x.2 }

/-- A mask of ranks. -/
def rankMask (rs : List Nat) : Nat := (dedup rs).foldl (fun m r => m + 2 ^ r) 0

/-- Tags in rising order, each once, four at most, with the ranks that contributed under each (R308). -/
def reportTags (parts : List Contribution) : List (BitVec 10 × Nat) :=
  let tags := (parts.map fun p => p.tag.toNat).foldl setPut []
  (tags.take 4).map fun t => (BitVec.ofNat 10 t, rankMask ((parts.filter fun p => p.tag.toNat == t).map (·.rank)))

/-- An outcome for a member. -/
def Resolved.message (r : Resolved) (g : Group) (tag : BitVec 10) : OutcomeMsg :=
  { gid := g.gid, tag := tag, seq := r.seq, outcome := r.outcome, late := r.late, dead := r.dead, value := r.value,
    report := r.report, handler := g.handler, poisoned := false }

/-- The outcome and value of contributions that are all in (R308). -/
def settleParts (parts : List Contribution) : BitVec 3 × Word :=
  match parts with
  | [] => (1, 0)
  | p :: r =>
    if !r.all (sameSite p) then (3, 0)
    else
      let v := combine p.op (parts.map (·.value))
      if p.agv then (1, v) else (if compareBy p.cc.toNat v p.ref then 1 else 2, v)

/-- Resolution of an instance (R308): the group after it, and what is stored. -/
def Group.resolve (g : Group) (i : Instance) : Group × Resolved :=
  let here := g.currentRanks
  let parts := i.parts.filter fun p => here.contains p.rank
  let absent := here.filter fun r => !parts.any fun p => p.rank == r
  let strict := !absent.isEmpty && !g.present
  let g1 := if absent.isEmpty || strict then g else g.setCurrent absent false
  let o : BitVec 3 × Word := if strict then (3, 0) else settleParts parts
  let res : Resolved :=
    { seq := i.seq, outcome := o.1, late := !absent.isEmpty, dead := i.dead || g.deadNext, value := o.2,
      report := { tags := reportTags parts, members := rankMask g1.currentRanks } }
  ({ g1 with pending := g1.pending.filter fun x => x.seq != i.seq, resolved := (res :: g1.resolved).take 4, deadNext := false }, res)

/-- The root answers a core: an outcome for this core is on its way, one for another core leaves (R306). -/
def State.answer (s : State) (c : Contribution) (o : OutcomeMsg) : State :=
  if c.die = s.id.die ∧ c.core = s.id.core then s.onWire (s.legEnd c.gid) (.agreementOutcome o)
  else
    let part := match s.rooted c.gid with | some g => s.partOfGroup g | none => s.id.part.toNat
    s.postMember part c.die c.core (.outcome o)

/-- Resolves an instance and sends the outcome to every current member that contributed. -/
def State.resolveInstance (s : State) (g : Group) (i : Instance) : State :=
  let (g1, r) := g.resolve i
  i.parts.foldl (fun s p => if g1.isCurrent p.rank p.die p.core then s.answer p (r.message g p.tag) else s) (s.putGroup g1)

/-- Every current member has contributed. -/
def Group.complete (g : Group) (i : Instance) : Bool :=
  g.currentRanks.all fun r => i.parts.any fun p => p.rank == r

/-- Resolves the pending instances of a group that meet a test, the oldest first. -/
def State.resolveWhere (s : State) (gid : Nat) (f : Group → Instance → Bool) : State :=
  match s.group gid with
  | none => s
  | some g =>
    (g.pending.filter (f g)).foldl (fun s i =>
      match s.group gid with
      | some g => s.resolveInstance g i
      | none => s) s

/-- a comes before b among numbers modulo 2^16. -/
def seqBefore (a b : BitVec 16) : Bool := a != b && decide ((b - a).toNat < 2 ^ 15)

/-- The answer EXCLUDED to a contribution (R309). -/
def excludedMsg (c : Contribution) (handler : Nat) : OutcomeMsg :=
  { gid := c.gid, tag := c.tag, seq := c.seq, outcome := 4, late := false, dead := false, value := 0,
    report := { tags := [], members := 0 }, handler := handler, poisoned := false }

/-- A contribution enters its instance. -/
def Group.addPart (g : Group) (now : Nat) (c : Contribution) : Group :=
  let g1 := if g.pending.any fun i => i.seq == c.seq then
      { g with pending := g.pending.map fun i =>
          if i.seq == c.seq then { i with parts := (i.parts.filter fun p => p.rank != c.rank) ++ [c] } else i }
    else { g with pending := g.pending ++ [{ seq := c.seq, since := now, dead := false, parts := [c] }] }
  if seqBefore c.seq g1.next then g1 else { g1 with next := c.seq + 1 }

/-- A contribution reaches the root (R306, R309). A number without a group there has no members, and its handler is a free value
(log entry 56). -/
def State.contribute (s : State) (c : Contribution) : State :=
  match s.rooted c.gid with
  | none => s.answer c (excludedMsg c (16 * ((Config.freeDword (2 ^ 84 + c.gid)).toNat % 2 ^ 12)))
  | some g =>
    if !g.isCurrent c.rank c.die c.core then s.answer c (excludedMsg c g.handler)
    else
      match g.resolved.find? (fun r => r.seq == c.seq) with
      | some r =>
        if r.report.members.testBit c.rank then s.answer c (r.message g c.tag) else s.answer c (excludedMsg c g.handler)
      | none =>
        if (g.pending.any fun i => i.seq == c.seq) || g.resolved.length < 4 || !(g.resolved.all fun r => seqBefore c.seq r.seq) then
          (s.putGroup (g.addPart s.ptimeNs c)).resolveWhere c.gid fun g i => i.seq == c.seq && g.complete i
        else (s.putGroup (g.setCurrent [c.rank] false)).answer c (excludedMsg c g.handler)

/-- A contribution of this die has reached its root, or the station, from which it leaves for a root on another die. -/
def execAgreementContribution (c : Contribution) (s : State) : Result :=
  .next (if c.die == s.id.die && (s.rooted c.gid).isNone then s.postRoot c.gid (.contribute c) else s.contribute c)

/-- The late limit of a group's pending instances runs out (R306, R308). -/
def execLateLimitExpiry (gid : Nat) (s : State) : Result :=
  .next (s.resolveWhere gid fun g i => decide (i.since + g.late ≤ s.ptimeNs))

/-- Removal of a dead die's members from a group (R310). -/
def Group.bury (g : Group) (die : Nat) : Group :=
  let gone := ((List.range g.members.length).zip g.members).filterMap fun x =>
    if x.2.current && x.2.die.toNat == die then some x.1 else none
  if gone.isEmpty then g
  else
    let held := g.pending.any fun i => !i.parts.isEmpty
    { g.setCurrent gone false with
      pending := g.pending.map fun i =>
        { i with dead := i.dead || !i.parts.isEmpty, parts := i.parts.filter fun p => !gone.contains p.rank },
      deadNext := g.deadNext || !held }

/-- A group that names a core of a dead die serves no collective any more (R261, R293). -/
def Group.onDeath (g : Group) (die : Nat) : Group :=
  let named := g.members.any fun m => m.die.toNat == die
  { g.bury die with broken := g.broken || named }

/-- A death report reaches the roots (R279, R293, R310). -/
def State.buryMembers (s : State) (die : Nat) : State :=
  let t : State := { s with groups := s.groups.map fun g => g.onDeath die }
  t.groups.foldl (fun s g => s.resolveWhere g.gid fun g i => g.complete i) s

/-- A join request reaches the root (R316). -/
def State.join (s : State) (j : JoinMsg) : State :=
  let reply := fun (s : State) (part : Nat) (a : JoinAnswer) =>
    if j.die = s.id.die ∧ j.core = s.id.core then s.onWire (s.legEnd j.gid) (.joinReply a)
    else s.postMember part j.die j.core (.joined a)
  let no : JoinAnswer := { gid := j.gid, ok := false, j := j.aseq, members := 0, handler := 0 }
  match s.rooted j.gid with
  | none => reply s s.id.part.toNat { no with handler := 16 * ((Config.freeDword (2 ^ 84 + j.gid)).toNat % 2 ^ 12) }
  | some g =>
    let part := s.partOfGroup g
    let listed := match g.members.toArray[j.rank]? with | some m => m.die == j.die && m.core == j.core | none => false
    if s.deadDies.contains j.die.toNat || !listed then reply s part { no with handler := g.handler }
    else if g.isCurrent j.rank j.die j.core then
      reply s part { gid := j.gid, ok := true, j := j.aseq, members := g.currentRanks.length, handler := g.handler }
    else
      let g1 := g.setCurrent [j.rank] true
      reply (s.putGroup g1) part { gid := j.gid, ok := true, j := g.next, members := g1.currentRanks.length, handler := g.handler }

/-- A join request has reached its root, or the station, from which it leaves for a root on another die. -/
def execJoinRequest (j : JoinMsg) (s : State) : Result :=
  .next (if j.die == s.id.die && (s.rooted j.gid).isNone then s.postRoot j.gid (.join j) else s.join j)

/-! ## The outcome at the core (R315, R318) -/

/-- AGSTAT (R318). -/
def agstatWord (outcome : BitVec 3) (late dead : Bool) (slot : BitVec 5) (tag : BitVec 10) (seq : BitVec 16) (value : Word) : Dword :=
  outcome ++ BitVec.ofBool late ++ BitVec.ofBool dead ++ slot ++ tag ++ seq.extractLsb' 0 12 ++ value

/-- The sequencer goes on from registers after a bundle that waited; flow as R52 and R16 say. -/
def State.goOn (s : State) (r : Regs) (addr : Nat) (f : Flow) : State :=
  let q := sequence r addr f
  let c := s.core
  { s with core := { c with
      regs := q.regs, backs := (match q.back with | some l => [l] | none => []), offEnd := q.off,
      group := if q.brk then [] else c.group, lbuf := if q.moved then [] else c.lbuf, agree := none } }

/-- A wrong prediction or a handler (R315): run-ahead is discarded, the panel's gated stores and held commands with it,
and the state is that left by the agreed branch; freeze cause 9 holds for eight cycles from this one. The group ends
(DEDUCED; log entry 16). -/
def State.discardAhead (s : State) (a : AgreeWait) (f : Flow) : State :=
  let kept := s.core.flights.filter fun g => decide (g.iss ≤ a.iss)
  let run := s.core.flights.filter fun g => decide (a.iss < g.iss)
  let s0 : State := { s with core := { s.core with flights := run } }
  let s1 := s0.emptyPipelines
  let c := s1.core
  let clear := fun (p : Panel) => { p with gates := [], replay := false }
  let s2 : State := { s1 with core := { c with
    flights := kept, panel := c.panel.map clear, slot := 0, iss := Issue.start,
    landed := false, lbuf := if sameLoop c.regs a.after then c.lbuf else [] } }
  let s3 := s2.goOn a.after a.baddr.toNat f
  { s3 with
    core := { s3.core with group := [] },
    rewind := some { until_ := s.clock + 8, after := RewindAfter.arm },
    hold := Hold.start 9 s.liningWaits }

/-- What an agreed branch does with its outcome (R315). -/
def State.settleAgreed (s : State) (a : AgreeWait) (o : OutcomeMsg) : State :=
  if o.outcome.toNat ≥ 3 then s.discardAhead a (.arm o.handler)
  else
    let taken := o.outcome == 1
    let flow : Flow := match a.kind with | .agr => if taken then .arm a.target else .none | _ => .none
    match a.kind, a.ahead with
    | .agv d, _ => s.goOn (s.core.regs.setS 0 d (sx32 o.value)) a.baddr.toNat .none
    | _, none => s.goOn s.core.regs a.baddr.toNat flow
    | _, some t => if t = taken then { s with core := { s.core with agree := none } } else s.discardAhead a flow

/-- The slot that an outcome is recorded for: that of the branch that waits, SGRP for the cut, or the first slot that
holds the group. -/
def State.outcomeSlot (s : State) (o : OutcomeMsg) (mine : Option AgreeWait) : BitVec 5 :=
  match mine with
  | some a => a.slot
  | none =>
    if o.tag = 1023 then BitVec.ofNat 5 s.sgrp
    else BitVec.ofNat 5 ((s.core.regs.g.toList.findIdx? fun g => g.v && g.gid.toNat == o.gid).getD 0)

/-- The cut is known, or its handler runs in place of the seam that the core is held at (R171; log entry 16). -/
def State.takeCut (s : State) (o : OutcomeMsg) : State :=
  let held := match s.sys.cut with | .sent h => h | _ => false
  let s := { s with sys := { s.sys with cut := CutState.answered } }
  if o.outcome.toNat < 3 then
    let v := s.sys.seamreq
    if v.getLsbD 63 then { s with sys := { s.sys with seamreq := BitVec.ofNat 64 (v.toNat / 2 ^ 32 % 2 ^ 30 * 2 ^ 32 + 2 ^ 62 + 2 ^ 63 + o.value.toNat) } }
    else s
  else if held && s.status == .running then
    { s with core := { s.core with group := [], regs := { s.core.regs with pc := BitVec.ofNat 17 o.handler } } }
  else s

/-- An outcome comes as poison: it establishes no edge (R276). The core rolls back to its agreed branch, which contributes again,
and a part in a cut goes out again; the root answers either under R309. -/
def State.poisonedOutcome (s : State) (o : OutcomeMsg) (mine : Option AgreeWait) : State :=
  match mine with
  | some a =>
    s.rollback { cause := 3, smask := 1, slot := 0, lane := 0, exp := 0, obs := 0, word := s.imem.word ((s.imem.key a.baddr.toNat).getD 0),
                 baddr := a.baddr,
                 addr := 0, detail := 0, info := 0, iss := a.iss, lost := [], lines := [] }
  | none =>
    if o.tag = 1023 then s.onWire (s.toRoot o.gid) (.agreementContribution (s.cutPart o.seq o.value)) else s

/-- An outcome reaches this core: AGSTAT and the report store are written, and what waited for it goes on. -/
def execAgreementOutcome (o : OutcomeMsg) (s : State) : Result :=
  let mine := match s.core.agree with
    | some a => (match a.kind with
        | .agj => none
        | _ => if a.gid = o.gid ∧ a.seq = o.seq ∧ o.tag ≠ 1023 then some a else none)
    | none => none
  if o.poisoned then .next (s.poisonedOutcome o mine)
  else
    let slot := s.outcomeSlot o mine
    let s := { s with sys := { s.sys with agstat := agstatWord o.outcome o.late o.dead slot o.tag o.seq o.value } }
    let s := s.setReport slot.toNat o.report
    .next (match mine with
      | some a => s.settleAgreed a o
      | none => if o.tag = 1023 then s.takeCut o else s)

/-- The answer to agj (R316): the core goes on with the instance that it names, or enters the handler. -/
def execJoinReply (r : JoinAnswer) (s : State) : Result :=
  match s.core.agree with
  | some a =>
    if a.kind = .agj ∧ a.gid = r.gid then
      let s := { s with sys := { s.sys with
        agstat := agstatWord (if r.ok then 1 else 4) false false a.slot 0 r.j (if r.ok then BitVec.ofNat 32 r.members else 0) } }
      let s := s.setReport a.slot.toNat { tags := [], members := 0 }
      let regs := s.core.regs
      if r.ok then .next (s.goOn (regs.wg a.slot { regs.rg a.slot with aseq := r.j }) a.baddr.toNat .none)
      else .next (s.goOn regs a.baddr.toNat (.arm r.handler))
    else .next s
  | none => .next s

end Sys2Proof.Machine
end

