-- ==== Sys2Proof/Machine/LoadStore.lean ====
section
/-! DEFINITION. Loads, stores, instruction writes, local atomics, drains and handle instructions: majors 0x1B to
0x20 (R106, R215 to R230). -/

namespace Sys2Proof.Machine

/-! ## Offsets -/

/-- O := (a + imm × U) mod 2^64 (R215); the immediate is widenable. -/
def State.offsetImm (s : State) (a : BitVec 4) (i : BitVec 9) (unit : Nat) : Nat :=
  (s.ra a + s.signedField i * BitVec.ofNat 64 unit).toNat

/-- One part at an offset, for forms that are not lane-wise. -/
def onePart (o : Nat) : List (Nat × Nat) := [(0, o)]

/-! ## Scalar forms (R217, R218) -/

/-- Access size of a width code. -/
def widthBytes (w : BitVec 3) : Nat := 2 ^ (w.toNat % 4)

/-- ld (R217): codes 0 to 2 sign-extend, 4 to 6 do not. -/
def execLd (d : BitVec 5) (h a : BitVec 4) (w : BitVec 3) (i : BitVec 9) (s : State) : Result :=
  plainOp s fun s =>
    let n := widthBytes w
    let o := s.offsetImm a i n
    let hd := s.rh h
    let r := s.checkAccess h hd (onePart o) n n [.r] .read false false
    if r.2 then r.1.sendLoad hd (s.accessLatency hd) (.scalar d (decide (w.toNat < 4))) [⟨0, hd.at o, n⟩] false
    else r.1

/-- st (R218). -/
def execSt (d : BitVec 5) (h a : BitVec 4) (w : BitVec 3) (i : BitVec 9) (s : State) : Result :=
  plainOp s fun s =>
    let n := widthBytes w
    let o := s.offsetImm a i n
    let hd := s.rh h
    let r := s.checkAccess h hd (onePart o) n n hd.storePerms .store true false
    if r.2 then r.1.sendStore hd (s.accessLatency hd) (cellsAt (hd.at o) (leBytes n (s.rs d).toNat))
    else r.1

/-! ## Vector and mask forms (R219 to R224) -/

/-- Enabled lanes of n, with the offset of each. -/
def laneParts (n : Nat) (m : Mask) (f : Nat → Nat) : List (Nat × Nat) :=
  ((List.range n).filter fun j => m.getLsbD j).map fun j => (j, f j)

/-- The accesses of lanes, w bytes each. -/
def laneAccesses (h : Handle) (w : Nat) (parts : List (Nat × Nat)) : List Access :=
  parts.map fun x => ⟨x.1, h.at x.2, w⟩

/-- The cells that lanes of a vector store, the lowest lane first, so that a higher lane's value is kept (R224). -/
def laneCells (h : Handle) (w : Nat) (v : Vec) (parts : List (Nat × Nat)) : List Host.Cell :=
  parts.flatMap fun x => cellsAt (h.at x.2) (leBytes w (v.toNat / 2 ^ (8 * w * x.1)))

def execVld (d : BitVec 5) (h a : BitVec 4) (m : BitVec 3) (i : BitVec 9) (s : State) : Result :=
  plainOp s fun s =>
    let o := s.offsetImm a i 64
    let hd := s.rh h
    let r := s.checkAccess h hd (onePart o) 2048 64 [.r] .read false false
    if r.2 then
      r.1.sendLoad hd (s.accessLatency hd + 2) (.vec d)
        (laneAccesses hd 4 (laneParts 512 (s.rm m) fun j => o + 4 * j)) false
    else r.1

def execVst (d : BitVec 5) (h a : BitVec 4) (m : BitVec 3) (i : BitVec 9) (s : State) : Result :=
  plainOp s fun s =>
    let o := s.offsetImm a i 64
    let hd := s.rh h
    let r := s.checkAccess h hd (onePart o) 2048 64 hd.storePerms .store true false
    if r.2 then
      r.1.sendStore hd (s.accessLatency hd + 2) (laneCells hd 4 (s.rv d) (laneParts 512 (s.rm m) fun j => o + 4 * j))
    else r.1

/-- Offset of lane j of the strided forms (R221). -/
def strideOffset (x : Dword) (j : Nat) : Nat :=
  (BitVec.ofNat 64 (x.toNat % 2 ^ 32) + BitVec.ofNat 64 j * (x.extractLsb' 32 32).signExtend 64).toNat

/-- Element bytes of the W field (R220). -/
def strideWidth (w : BitVec 2) : Nat :=
  match w.toNat with | 0 => 4 | 1 => 2 | _ => 1

def execVlds (d : BitVec 5) (n : BitVec 4) (m : BitVec 3) (x : BitVec 5) (w : BitVec 2) (s : State) : Result :=
  plainOp s fun s =>
    let b := strideWidth w
    let hd := s.rh n
    let parts := laneParts (2048 / b) (s.rm m) (strideOffset (s.rs x))
    let r := s.checkAccess n hd parts b b [.r] .read false true
    if r.2 then r.1.sendLoad hd (s.accessLatency hd + 2) (.vec d) (laneAccesses hd b parts) false else r.1

def execVsts (d : BitVec 5) (n : BitVec 4) (m : BitVec 3) (x : BitVec 5) (w : BitVec 2) (s : State) : Result :=
  plainOp s fun s =>
    let b := strideWidth w
    let hd := s.rh n
    let parts := laneParts (2048 / b) (s.rm m) (strideOffset (s.rs x))
    let r := s.checkAccess n hd parts b b hd.storePerms .store true true
    if r.2 then r.1.sendStore hd (s.accessLatency hd + 2) (laneCells hd b (s.rv d) parts) else r.1

/-- Lane offsets of an index vector (R222). -/
def indexOffset (v : Vec) (j : Nat) : Nat := v.toNat / 2 ^ (32 * j) % 2 ^ 32

def execVgath (d : BitVec 5) (n : BitVec 4) (m : BitVec 3) (x : BitVec 5) (s : State) : Result :=
  plainOp s fun s =>
    let hd := s.rh n
    let parts := laneParts 512 (s.rm m) (indexOffset (s.rv x))
    let r := s.checkAccess n hd parts 4 4 [.r] .read false true
    if r.2 then r.1.sendLoad hd (s.accessLatency hd + 2) (.vec d) (laneAccesses hd 4 parts) true else r.1

def execVscat (d : BitVec 5) (n : BitVec 4) (m : BitVec 3) (x : BitVec 5) (s : State) : Result :=
  plainOp s fun s =>
    let hd := s.rh n
    let parts := laneParts 512 (s.rm m) (indexOffset (s.rv x))
    let r := s.checkAccess n hd parts 4 4 hd.storePerms .store true true
    if r.2 then r.1.sendStore hd (s.accessLatency hd + 2) (laneCells hd 4 (s.rv d) parts) else r.1

/-- mld reads 256 bytes into a mask (R223). -/
def execMld (d : BitVec 5) (n : BitVec 4) (x : BitVec 5) (s : State) : Result :=
  plainOp s fun s =>
    let hd := s.rh n
    let o := (s.rs x).toNat
    let r := s.checkAccess n hd (onePart o) 256 64 [.r] .read false false
    if r.2 then r.1.sendLoad hd (s.accessLatency hd + 2) (.mask (d.extractLsb' 0 3)) [⟨0, hd.at o, 256⟩] false
    else r.1

def execMst (d : BitVec 5) (n : BitVec 4) (x : BitVec 5) (s : State) : Result :=
  plainOp s fun s =>
    let hd := s.rh n
    let o := (s.rs x).toNat
    let r := s.checkAccess n hd (onePart o) 256 64 hd.storePerms .store true false
    if r.2 then
      r.1.sendStore hd (s.accessLatency hd + 2) (cellsAt (hd.at o) (leBytes 256 (s.rm (d.extractLsb' 0 3)).toNat))
    else r.1

/-! ## Instruction writes (R106) -/

/-- ist writes an instruction word six running cycles after issue; into the idle half it stays uncovered until an
ifence (R107). -/
def execIst (d : BitVec 5) (a : BitVec 4) (p : BitVec 3) (i : BitVec 9) (s : State) : Result :=
  predOp p s fun s =>
    let addr := s.offsetImm a i 4
    if addr % 4 ≠ 0 ∨ 0x12000 ≤ addr then s.illegalTarget (BitVec.ofNat 64 addr)
    else
      let s := s.noteSum none addr
      let c := s.core
      { s with core := { c with
          ists := c.ists ++ [{ addr := addr, word := (s.rs d).extractLsb' 0 32, due := s.run + 6, iss := s.run }],
          loose := if addr < 0x10000 then c.loose ++ [s.run] else c.loose } }

/-! ## Local atomics (R225 to R227) -/

/-- A line on which the open panel holds gated bytes (R226). The panel that the bundle's own mark opens holds none (R105). -/
def State.gatesLine (s : State) (lines : List Nat) : Bool :=
  match s.iss.tack, s.core.panel with
  | none, some p => (p.gates.flatMap (·.cells)).any fun c => lines.contains (lineOf c.1)
  | _, _ => false

/-- The atomic goes out (R226). -/
def State.sendAtomic (s : State) (h : BitVec 4) (hd : Handle) (d : BitVec 5) (op : AtomicOp) (n : Nat)
    (perm : Perm) : State :=
  let r := s.checkAccess h hd (onePart op.off) n n [perm] .atomic false false
  if !r.2 then r.1
  else if s.isMain && s.gatesLine (atomicLines s.performed.mem op) then r.1.illegalOperand (BitVec.ofNat 64 op.off)
  else
    let t := r.1.emit (s.accessLatency hd) (.atomic d op) .no (s.mayBeLate hd false)
    let i := t.iss
    if op.minor = 11 || !s.isMain then t else t.setIss { i with irrev := true }

def atomicOf (s : State) (minor : BitVec 4) (w : BitVec 1) (hd : Handle) (a : BitVec 4) (b c : Dword) : AtomicOp :=
  { minor := minor, wide := w == 1#1, addr := hd.at (s.ra a).toNat, off := (s.ra a).toNat, opnd := b, cmp := c }

def execLamOp (d : BitVec 5) (h a : BitVec 4) (b : BitVec 5) (w : BitVec 1) (o : BitVec 4) (s : State) : Result :=
  plainOp s fun s =>
    let hd := s.rh h
    s.sendAtomic h hd d (atomicOf s o w hd a (s.rs b) 0) (if w = 1 then 8 else 4) .a

/-- lam.cas compares with s_d. -/
def execLamCas (d : BitVec 5) (h a : BitVec 4) (b : BitVec 5) (w : BitVec 1) (s : State) : Result :=
  plainOp s fun s =>
    let hd := s.rh h
    s.sendAtomic h hd d (atomicOf s 9 w hd a (s.rs b) (s.rs d)) (if w = 1 then 8 else 4) .a

/-- O is the address of an existing cell of a well-formed FAC page of CLASS 2 (R227). -/
def facCellExists (m : Memory) (base size : Nat) (cls : BitVec 2) (o : Nat) : Bool :=
  let celloff := leNat (m.bytes (base + 4) 4)
  let clean := leNat (m.bytes (base + 2) 2) == 0 && leNat (m.bytes (base + 8) 56) == 0
  let i := (o - celloff) / 16
  cls == 2 && clean && celloff % 64 == 0 && decide (128 ≤ celloff) && decide (celloff ≤ o) && (o - celloff) % 16 == 0 &&
    decide (o + 16 ≤ size) && decide (64 + i / 4 < celloff)

def State.facAtomic (s : State) (minor : BitVec 4) (d : BitVec 5) (h a : BitVec 4) (b : Dword) (perm : Perm) : State :=
  let hd := s.rh h
  let op := atomicOf s minor 0 hd a b 0
  let bad := hd.valid && s.kindAllowed h hd .atomic false && (hd.fault op.off 16 [perm]).isNone &&
    !facCellExists s.performed.mem hd.pbase.toNat (spanSize hd.ps) hd.cls op.off
  if bad then s.illegalOperand (BitVec.ofNat 64 op.off) else s.sendAtomic h hd d op 16 perm

def execLamFac (d : BitVec 5) (h a : BitVec 4) (b : BitVec 5) (s : State) : Result :=
  plainOp s fun s => s.facAtomic 10 d h a (s.rs b) .a

def execLamFacRd (d : BitVec 5) (h a : BitVec 4) (s : State) : Result :=
  plainOp s fun s => s.facAtomic 11 d h a 0 .r

/-! ## Drains and handles (R228 to R230) -/

/-- drain is due one cycle after issue; its acknowledgement comes when the accesses it covers have performed. -/
def execDrain (sc : BitVec 2) (s : State) : Result :=
  plainOp s fun s => s.emit 1 (.drain sc) .no true

/-- xlat (R206, R208). -/
def execXlat (h : BitVec 4) (a : BitVec 5) (s : State) : Result :=
  plainOp s fun s =>
    let va := s.rs a
    if va.toNat / 2 ^ 57 ≠ 0 then s.pageFault va
    else
      let r := s.lookup s.id.part va
      match r.2 with
      | some l =>
        match r.1.handleOf s.id.part l with
        | some hd => r.1.emit 16 (.h h hd)
        | none => r.1.pageFault va
      | none =>
        if s.walkFaulted va then s.pageFault va
        else (s.askWalk va).holdOn 5

/-- What hstat returns of a handle (R214, R230). -/
def handleWord (h : Handle) : Dword :=
  BitVec.ofNat 64 ((if h.valid then 2 ^ 63 else 0) + h.inst.toNat * 2 ^ 61 + h.ps.toNat * 2 ^ 59 + h.rwam.toNat * 2 ^ 55 +
    h.cls.toNat * 2 ^ 53 + h.gen.toNat * 2 ^ 37 + h.region * 2 ^ 30 + h.die * 2 ^ 16 + h.mask.toNat)

def execHstat (d : BitVec 5) (h : BitVec 4) (s : State) : Result :=
  plainOp s fun s => s.emit 1 (.s d (handleWord (s.rh h)))

def execHdrop (h : BitVec 4) (s : State) : Result :=
  plainOp s fun s => s.emit 1 (.hdrop h)

end Sys2Proof.Machine
end

