-- ==== Sys2Proof/Machine/Clause.lean ====
section
/-! DEFINITION. The clause array: rounds and reports (R336 to R341), images (R344, R345, R348), and major 0x29 (R342 to
R352). -/

namespace Sys2Proof.Machine

/-! ## The array (R332, R333) -/

def State.clauseMode (s : State) : Nat := s.clause.split.toNat % 4

/-- Columns of an instance. -/
def State.ncol (s : State) : Nat := 8192 / 2 ^ s.clauseMode

/-- Partition that owns an instance. -/
def ClauseArray.owner (a : ClauseArray) (i : Nat) : Nat := a.split.toNat / 2 ^ (16 + 6 * i) % 64

def State.clauseInst (s : State) (i : Nat) : ClauseInst := s.clause.inst.toArray.getD i (ClauseInst.empty .free)

def State.putInst (s : State) (i : Nat) (x : ClauseInst) : State :=
  { s with clause := { s.clause with inst := s.clause.inst.setIfInBounds i x } }

/-- The instance that is bound to a core. -/
def State.boundTo (s : State) (core : BitVec 4) : Option Nat :=
  (List.range 4).find? fun i => (s.clauseInst i).binding.holder == some core

def State.myInst (s : State) : Option Nat := s.boundTo s.id.core

def Binding.isFailed : Binding → Bool
  | .failed _ => true
  | _ => false

/-! ## Rows and trail (R334, R338, R339) -/

def ClauseInst.entry (x : ClauseInst) (row : Nat) : Option TrailEntry := x.trail.find? fun e => e.row.toNat == row

/-- A row's state: 0 U, 1 F, 2 T. -/
def ClauseInst.row (x : ClauseInst) (row : Nat) : Nat :=
  match x.entry row with
  | none => 0
  | some e => if e.val then 2 else 1

/-- A trail entry as 64 bits. -/
def TrailEntry.word (e : TrailEntry) : Nat :=
  e.round.toNat * 2 ^ 48 + e.reason.toNat * 2 ^ 32 + e.level.toNat * 2 ^ 16 + (if e.val then 2 ^ 11 else 0) + e.row.toNat

def TrailEntry.ofWord (w : Nat) : TrailEntry :=
  { round := BitVec.ofNat 16 (w / 2 ^ 48), reason := BitVec.ofNat 13 (w / 2 ^ 32), level := BitVec.ofNat 8 (w / 2 ^ 16),
    val := w / 2 ^ 11 % 2 == 1, row := BitVec.ofNat 11 w }

/-- A row as 64 bits. -/
def ClauseInst.rowWord (x : ClauseInst) (row : Nat) : Nat :=
  match x.entry row with
  | none => row
  | some e => e.reason.toNat * 2 ^ 32 + e.level.toNat * 2 ^ 16 + (if e.val then 2 else 1) * 2 ^ 12 + row

/-! ## Columns (R336, R349) -/

def ClauseInst.column (x : ClauseInst) (c : Nat) : ClauseColumn :=
  match x.cols.find? (fun k => k.num == c) with
  | some k => k
  | none => { num := c, en := false, lits := [] }

/-- The columns with one put in: by rising number, and none that is disabled and empty. -/
def putColumn : List ClauseColumn → ClauseColumn → List ClauseColumn
  | [], k => if k.en || !k.lits.isEmpty then [k] else []
  | y :: r, k =>
    if k.num < y.num then (if k.en || !k.lits.isEmpty then k :: y :: r else y :: r)
    else if k.num = y.num then (if k.en || !k.lits.isEmpty then k :: r else r)
    else y :: putColumn r k

/-- What a column is under the assignment: 0 open, 1 satisfied, 2 UNIT, 3 FALSE; and its unassigned literal when it is
UNIT. A column without literals counts as satisfied. -/
def ClauseInst.state (x : ClauseInst) (k : ClauseColumn) : Nat × Option Lit :=
  let isTrue := fun (l : Lit) => x.row l.row.toNat == (if l.pos then 2 else 1)
  let open_ := k.lits.filter fun l => x.row l.row.toNat == 0
  if k.lits.isEmpty || k.lits.any isTrue then (1, none)
  else match open_ with
    | [] => (3, none)
    | [l] => (2, some l)
    | _ => (0, none)

/-- A column word (R349). -/
def ClauseInst.columnWord (x : ClauseInst) (c : Nat) : Nat :=
  let k := x.column c
  let st := x.state k
  (if k.en then 2 ^ 63 else 0) + st.1 * 2 ^ 60 + k.lits.length * 2 ^ 32 + (match st.2 with | some l => l.row.toNat | none => 0)

/-! ## A round (R336, R337, R340) -/

/-- What a round found: FALSE columns, and every literal forced with its column, columns rising. -/
structure RoundView where
  falses : List Nat
  forced : List (Lit × Nat)

def ClauseInst.view (x : ClauseInst) : RoundView :=
  let on := x.cols.filter (·.en)
  { falses := (on.filter fun k => (x.state k).1 == 3).map (·.num),
    forced := on.filterMap fun k => (x.state k).2.map fun l => (l, k.num) }

/-- The lowest column forcing a row to a value. -/
def RoundView.forcing (r : RoundView) (row : Nat) (pos : Bool) : Option Nat :=
  (r.forced.find? fun f => f.1.row.toNat == row && f.1.pos == pos).map (·.2)

/-- Forced rows in rising order, and those forced both ways. -/
def RoundView.rows (r : RoundView) : List Nat := (r.forced.map fun f => f.1.row.toNat).foldl setPut []
def RoundView.opposed (r : RoundView) : List Nat :=
  r.rows.filter fun v => (r.forcing v true).isSome && (r.forcing v false).isSome

def leastOf (l : List Nat) : Nat := match l with | [] => 0 | x :: r => r.foldl min x

/-- Report words 0 to 2 of a conflict. -/
def RoundView.words (r : RoundView) : Nat × Nat × Nat :=
  let opp := r.opposed
  let kind := (if r.falses.isEmpty then 0 else 1) + (if opp.isEmpty then 0 else 2)
  let fcol := leastOf r.falses
  let cols := (if r.falses.isEmpty then [] else [fcol]) ++
    opp.flatMap fun v => (r.forcing v true).toList ++ (r.forcing v false).toList
  (kind * 2 ^ 60 + min r.falses.length 0xFFFF * 2 ^ 32 + fcol * 2 ^ 16 + leastOf cols,
   (match opp with
    | [] => 0
    | v :: _ => (r.forcing v false).getD 0 * 2 ^ 32 + (r.forcing v true).getD 0 * 2 ^ 16 + v),
   min opp.length 0xFFFF)

/-- The trail entries that a round of a number appends. -/
def ClauseInst.newEntries (x : ClauseInst) (r : RoundView) (round : Nat) : List TrailEntry :=
  r.rows.map fun v =>
    let t := r.forcing v true
    let reason := match t with | some c => c | none => (r.forcing v false).getD 0
    { round := BitVec.ofNat 16 (min round 0xFFFF), reason := BitVec.ofNat 13 reason, level := x.level, val := t.isSome,
      row := BitVec.ofNat 11 v }

/-- The end of a cl.prop: RES and the report words (R340). -/
def ClauseInst.finishProp (x : ClauseInst) (res : BitVec 2) (w : Nat × Nat × Nat) (assigned rounds : Nat) : ClauseInst :=
  { x with res := res, report := #v[BitVec.ofNat 64 w.1, BitVec.ofNat 64 w.2.1, BitVec.ofNat 64 w.2.2,
                                    BitVec.ofNat 64 (assigned * 2 ^ 32 + rounds % 2 ^ 32)] }

/-! ## CLSTAT (R341) -/

/-- A clause command of this core is held, queued or running. -/
def State.clauseBusy (s : State) : Bool := !s.core.clauseQ.isEmpty || s.running.any fun r => r.cmd.engine == .clause

def clstatWord (x : ClauseInst) (i err : Nat) (busy : Bool) : Nat :=
  x.res.toNat * 2 ^ 62 + x.report[0].toNat / 2 ^ 60 % 4 * 2 ^ 60 + err * 2 ^ 56 + x.level.toNat * 2 ^ 48 +
    x.trail.length % 2 ^ 12 * 2 ^ 32 + i * 2 ^ 30 + (if busy then 2 ^ 28 else 0) + x.report[0].toNat % 2 ^ 13

def State.clstat (s : State) : Dword :=
  match s.myInst with
  | none => BitVec.ofNat 64 (s.sys.clErr.toNat * 2 ^ 56 + 2 ^ 29)
  | some i => BitVec.ofNat 64 (clstatWord (s.clauseInst i) i s.sys.clErr.toNat s.clauseBusy)

/-! ## Context images (R348) -/

def contextSize (ncol : Nat) : Nat := 0x10000 + 512 * ncol

def sizeCode (ncol : Nat) : Nat := if ncol = 8192 then 0 else if ncol = 4096 then 1 else 2

/-- The cell code of a row in a column. -/
def cellCode (k : ClauseColumn) (row : Nat) : Nat :=
  match k.lits.find? (fun l => l.row.toNat == row) with
  | some l => if l.pos then 1 else 2
  | none => 0

/-- Byte b of an image. -/
def ClauseInst.imageByte (x : ClauseInst) (i ncol b : Nat) : Byte :=
  let word := fun (w : Nat) => BitVec.ofNat 8 (w / 256 ^ (b % 8))
  if b < 8 then word (2 ^ 63 + sizeCode ncol * 2 ^ 61 + x.level.toNat * 2 ^ 48 + x.trail.length % 2 ^ 12 * 2 ^ 32)
  else if b < 0x10 then word (clstatWord x i 0 false)
  else if b < 0x30 then word (x.report.toArray.getD (b / 8 - 2) 0).toNat
  else if b < 0x40 then 0
  else if b < 0x40 + ncol / 8 then
    BitVec.ofNat 8 ((List.range 8).foldl (fun a j => a + (if (x.column (8 * (b - 0x40) + j)).en then 2 ^ j else 0)) 0)
  else if b < 0x800 then 0
  else if b < 0x4800 then word (x.rowWord ((b - 0x800) / 8))
  else if b < 0x8800 then word (match x.trail.toArray[(b - 0x4800) / 8]? with | some e => e.word | none => 0)
  else if b < 0x10000 then 0
  else
    let k := x.column ((b - 0x10000) / 512)
    let r := 4 * ((b - 0x10000) % 512)
    BitVec.ofNat 8 (cellCode k r + 4 * cellCode k (r + 1) + 16 * cellCode k (r + 2) + 64 * cellCode k (r + 3))

/-- An image as cells at an address. -/
def ClauseInst.image (x : ClauseInst) (i ncol a : Nat) : List Host.Cell :=
  (List.range (contextSize ncol)).map fun b => (a + b, x.imageByte i ncol b)

/-- The literals of a column of an image, none where a cell holds code 3. -/
def imageLits (get : Nat → Byte) (c : Nat) : Option (List Lit) :=
  (List.range 2048).foldr (fun v acc =>
    match acc with
    | none => none
    | some l =>
      match (get (0x10000 + 512 * c + v / 4)).toNat / 4 ^ (v % 4) % 4 with
      | 0 => some l
      | 1 => some ({ row := BitVec.ofNat 11 v, pos := true } :: l)
      | 2 => some ({ row := BitVec.ofNat 11 v, pos := false } :: l)
      | _ => none) (some [])

/-- Entries of a trail whose stamps never fall, whose rows differ, and whose last stamp does not pass a level. -/
def trailOk (level : Nat) : List TrailEntry → Bool
  | [] => true
  | [e] => decide (e.level.toNat ≤ level)
  | e :: f :: r => decide (e.level.toNat ≤ f.level.toNat) && !((f :: r).any fun g => g.row == e.row) && trailOk level (f :: r)

/-- The instance that an image holds, none for an invalid one. -/
def readImage (get : Nat → Byte) (ncol : Nat) (b : Binding) : Option ClauseInst :=
  let dw := fun (o : Nat) => leNat ((List.range 8).map fun j => get (o + j))
  let h := dw 0
  let tlen := h / 2 ^ 32 % 2 ^ 12
  let level := h / 2 ^ 48 % 2 ^ 8
  let trailWords := (List.range tlen).map fun i => dw (0x4800 + 8 * i)
  let cols := (List.range ncol).map fun c =>
    (imageLits get c).map fun l => ({ num := c, en := (get (0x40 + c / 8)).getLsbD (c % 8), lits := l } : ClauseColumn)
  let x : ClauseInst :=
    { binding := b, job := 0, cols := (cols.filterMap id).foldl putColumn [], level := BitVec.ofNat 8 level,
      trail := trailWords.map TrailEntry.ofWord, res := BitVec.ofNat 2 (dw 8 / 2 ^ 62),
      report := #v[BitVec.ofNat 64 (dw 0x10), BitVec.ofNat 64 (dw 0x18), BitVec.ofNat 64 (dw 0x20), BitVec.ofNat 64 (dw 0x28)] }
  let header := h == 2 ^ 63 + sizeCode ncol * 2 ^ 61 + level * 2 ^ 48 + tlen * 2 ^ 32
  let trail := decide (tlen ≤ 2048) && (trailWords.all fun w => (TrailEntry.ofWord w).word == w) && trailOk level x.trail
  let rows := (List.range 2048).all fun v => dw (0x800 + 8 * v) == x.rowWord v
  if header && trail && rows && cols.all (·.isSome) then some x else none

/-! ## Clause images (R344) -/

/-- A column of a clause image: its literals and the halfwords it took, or the code of its error. -/
inductive ColumnRead where
  | ok (lits : List Lit) (halfwords : Nat)
  | bad (code : Nat)
deriving DecidableEq, Repr

/-- Literals by rising row, each once. -/
def putLit : List Lit → Lit → List Lit
  | [], l => [l]
  | y :: r, l => if l.row.toNat < y.row.toNat then l :: y :: r else if l.row = y.row then y :: r else y :: putLit r l

/-- Reads the column at a cursor; `fuel` halfwords fit before the page ends. -/
def readColumn (get : Nat → Byte) (bad : Nat → Bool) : Nat → Nat → List Lit → Nat → ColumnRead
  | 0, _, _, _ => .bad 6
  | fuel + 1, cur, lits, n =>
    if bad cur then .bad 7
    else
      let h := (get cur).toNat + 256 * (get (cur + 1)).toNat
      let v := h % 2 ^ 12
      if h = 0 then (if lits.isEmpty then .bad 4 else .ok lits (n + 1))
      else if h / 2 ^ 12 % 8 ≠ 0 ∨ v = 0 ∨ 2048 < v then .bad 4
      else
        let l : Lit := { row := BitVec.ofNat 11 (v - 1), pos := h / 2 ^ 15 == 0 }
        if lits.any fun y => y.row == l.row && y.pos != l.pos then .bad 4
        else readColumn get bad fuel (cur + 2) (putLit lits l) (n + 1)

/-! ## Starting a command (R342, R343, R352) -/

/-- What the way to another die and back adds to a reply time, in core-clock cycles: twice the one-way latency of R303, which
gives 20 ns and 25 ns for each hop of the package ring; to another package a free value (R391; DEDUCED, log entry 81). -/
def State.dieDelay (s : State) (die : Nat) : Nat :=
  let n := (die + 8 - s.ownDie % 8) % 8
  if die = s.ownDie then 0
  else if die / 8 = s.ownDie / 8 then (18 * (20 + 25 * min n (8 - n)) + 4) / 5
  else (Config.freeDword (2 ^ 84 + 2 ^ 60 + die)).toNat

/-- Reply time of the first line of an image, in core-clock cycles (R352, R391). -/
def State.imageDelay (s : State) (a : Nat) : Nat :=
  match regionOf a with
  | 0 => 216 + s.dieDelay (dieOf a)
  | 1 => (if offsetOf a / 2 ^ 28 = s.ownQuad then 20 else 48) + s.dieDelay (dieOf a)
  | _ => 0

/-- A field of an operand that must be zero. -/
def zeroBits (v lo hi : Nat) : Bool := v / 2 ^ lo % 2 ^ (hi - lo + 1) == 0

/-- FIRST and COUNT of cl.clr and cl.col, none where they are invalid. -/
def State.columnSpan (s : State) (v : Nat) : Option (Nat × Nat) :=
  let first := v % 2 ^ 13
  let count := v / 2 ^ 16 % 2 ^ 13
  if zeroBits v 13 15 && zeroBits v 29 30 && zeroBits v 32 63 && count != 0 && decide (first + count ≤ s.ncol) then some (first, count)
  else none

/-- The code with which a cl.bind ends (R335, R343). -/
def State.bindCode (s : State) (v : Nat) : Nat :=
  let i := v % 4
  if v / 8 ≠ 0 ∨ (v / 4 = 1 ∧ i ≠ 0) then 5
  else if v / 4 = 1 then 0
  else if 2 ^ s.clauseMode ≤ i ∨ s.clause.owner i ≠ s.id.part.toNat then 1
  else
    match (s.clauseInst i).binding with
    | .free => 0
    | .bound c => if c = s.id.core then 0 else 2
    | .failed c => if c = s.id.core then 0 else 2
    | .resident => 2

/-- A command with the bytes and marks of its image as they stand now, from its address to the end of the handle's page. -/
def Running.withImage (r : Running) (m : Memory) (h : Handle) (off : Nat) : Running :=
  let a := h.pbase.toNat + off
  let stop := h.pbase.toNat + spanSize h.ps
  { r with
    image := m.cells.filter fun c => decide (a ≤ c.1 ∧ c.1 < stop),
    eff := { Effect.nothing with poison := m.poison.filter fun l => decide (a / 64 ≤ l ∧ l < stop / 64) } }

/-- Byte b of a running command's image: as it stood at the start, or as it stands now (R271, L5). -/
def State.imageGet (s : State) (r : Running) (a b : Nat) : Byte :=
  let old := cellsGet r.image (a + b)
  if Config.freeBit (s.free * 2 ^ 64 + 2 ^ 54 + b) then old else s.performed.mem.byte (a + b)

/-- A line of an image that is poisoned, or that a wipe under way has not given back yet (R199, R201; log entry 39). -/
def State.imageBad (s : State) (r : Running) (a b : Nat) : Bool := r.eff.poison.contains (lineOf (a + b)) || s.inWipe (a + b) 1

/-- Address of the image of a cl.ld or cl.st, and the bytes from it to the end of its page. -/
def imagePlace (c : Cmd) : Nat × Nat :=
  match c.op with
  | .clause _ v h => (h.pbase.toNat + v.toNat, spanSize h.ps - v.toNat)
  | _ => (0, 0)

/-- The next column of a clause image. -/
def State.nextColumn (s : State) (r : Running) : ColumnRead :=
  let p := imagePlace r.cmd
  readColumn (fun b => s.imageGet r p.1 b) (fun b => s.imageBad r p.1 b) ((p.2 - r.left) / 2) r.left [] 0

def columnCycles : ColumnRead → Nat
  | .ok _ n => n
  | .bad _ => 0

/-- A running command whose end, or next step, comes in some cycles with a code. -/
def Running.endIn (r : Running) (clock n code : Nat) : Running :=
  { r with due := some (clock + n), ended := true, eff := { r.eff with code := code } }

/-- A context image that a cl.ld reads is checked as it starts. -/
def State.checkImage (s : State) (c : Cmd) : State :=
  match c.op with
  | .clause 1 v h =>
    let a := h.pbase.toNat + v.toNat
    if leNat (s.performed.mem.bytes a 8) / 2 ^ 63 = 1 then s.checkWhole (wholeGranules a (contextSize s.ncol)) else s
  | _ => s

/-- The start of a cl.ld: a context image, a clause image with its header, or an invalid one. -/
def State.startLoad (s : State) (r : Running) (h : Handle) (v : Nat) : Running :=
  let m := s.performed.mem
  let a := h.pbase.toNat + v
  let r := r.withImage m h v
  let d := s.imageDelay a
  let head := leNat (m.bytes a 8)
  if m.badAt a || s.inWipe a 8 then r.endIn s.clock (d + 5) 7
  else if head / 2 ^ 63 = 1 then
    let size := contextSize s.ncol
    let n := d + (size + 63) / 64 + 8
    if head / 2 ^ 61 % 4 ≠ sizeCode s.ncol then r.endIn s.clock n 4
    else if spanSize h.ps < v + size then r.endIn s.clock n 6
    else if s.inWipe a size || r.eff.poison.any fun l => decide (l < (a + size + 63) / 64) then r.endIn s.clock n 7
    else r.endIn s.clock n 0
  else
    let first := head % 2 ^ 13
    let count := head / 2 ^ 16 % 2 ^ 13
    if count = 0 ∨ s.ncol < first + count ∨ !zeroBits head 13 15 ∨ !zeroBits head 29 63 then r.endIn s.clock (d + 5) 4
    else
      let r := { r with eff := { r.eff with addr := BitVec.ofNat 64 head }, left := 8 }
      { r with due := some (s.clock + d + 5 + columnCycles (s.nextColumn r)) }

/-- How a command starts on an instance: when it ends, and with which code. -/
def State.beginClause (s : State) (i : Nat) (c : Cmd) : Running :=
  let r := Running.begin c s.clock none Effect.nothing
  let x := s.clauseInst i
  match c.op with
  | .clause minor a h =>
    let v := a.toNat
    match minor with
    | 1 => s.startLoad r h v
    | 2 =>
      if v / 2 ^ 31 % 2 = 1 then r.endIn s.clock 20 (if v = 2 ^ 31 then 0 else 5)
      else r.endIn s.clock 4 (if (s.columnSpan v).isSome then 0 else 5)
    | 3 => r.endIn s.clock 2 (if v / 2 ^ 12 = 0 ∧ x.row (v % 2 ^ 11) = 0 ∧ x.level ≠ 255 then 0 else 5)
    | 4 => if v / 2 ^ 32 ≠ 0 then r.endIn s.clock 2 5 else { r with due := some (s.clock + 2) }
    | 5 => r.endIn s.clock 2 (if v / 2 ^ 8 = 0 ∧ v ≤ x.level.toNat then 0 else 5)
    | 6 =>
      let size := contextSize s.ncol
      let at_ := h.pbase.toNat + v
      let r := r.endIn s.clock (s.imageDelay at_ + (size + 63) / 64 + 8) (if s.inWipe at_ size then 7 else 0)
      if s.inWipe at_ size then r else { r with eff := { Effect.nothing with stores := [x.image i s.ncol at_] } }
    | _ => r.endIn s.clock 4 (if (s.columnSpan (v % 2 ^ 31 + v / 2 ^ 32 * 2 ^ 32)).isSome then 0 else 5)
  | _ => r.endIn s.clock 0 5

/-- The cycles of a command that ends at once with an error: those that R352 gives it, of no round and of no byte. -/
def plainCycles (minor v : Nat) : Nat :=
  if minor = 3 ∨ minor = 5 ∨ minor = 4 then 2
  else if minor = 1 ∨ minor = 6 then 8
  else if minor = 2 ∧ v / 2 ^ 31 % 2 = 1 then 20
  else 4

/-- The code of a cl.bind as it starts: with a failed instance only a bind of that instance again is served (R342). -/
def State.bindEnds (s : State) (v : Nat) : Nat :=
  match s.myInst with
  | some i => if (s.clauseInst i).binding.isFailed && v != i then 8 else s.bindCode v
  | none => s.bindCode v

/-- The array starts the head of the core's queue: its binding is judged now (R342). -/
def State.startClause (s : State) : State :=
  if s.running.any fun r => r.cmd.engine == .clause then s
  else
    match s.core.startable .clause with
    | none => s
    | some c =>
      let s := (s.takeHead .clause).checkImage c
      let r := Running.begin c s.clock none Effect.nothing
      let run : Running := match c.op with
        | .clause 0 v _ => r.endIn s.clock 20 (s.bindEnds v.toNat)
        | .clause minor v _ =>
          let plain := r.endIn s.clock (plainCycles minor v.toNat)
          if c.revoked then plain 6
          else
            match s.myInst with
            | none => plain 3
            | some i => if (s.clauseInst i).binding.isFailed then plain 8 else s.beginClause i c
        | _ => r.endIn s.clock 0 5
      { s with running := s.running ++ [run] }

/-! ## What a command does -/

/-- Releases this core's binding; the contents stay. -/
def State.unbind (s : State) : State :=
  match s.myInst with
  | some i => s.putInst i { s.clauseInst i with binding := .free }
  | none => s

/-- The effect of a command that completes with code 0, but for cl.prop and a clause image. -/
def State.clauseEffect (s : State) (r : Running) (minor v : Nat) : State × Nat :=
  match minor with
  | 0 =>
    if v / 4 = 1 then (s.unbind, 0)
    else (s.unbind.putInst (v % 4) { ClauseInst.empty (.bound s.id.core) with job := s.id.job }, 0)
  | _ =>
    match s.myInst with
    | none => (s, 3)
    | some i =>
      let x := s.clauseInst i
      match minor with
      | 1 =>
        let p := imagePlace r.cmd
        match readImage (fun b => s.imageGet r p.1 b) s.ncol x.binding with
        | some y => (s.putInst i { y with job := x.job }, 0)
        | none => (s, 4)
      | 2 =>
        if v / 2 ^ 31 % 2 = 1 then (s.putInst i { ClauseInst.empty x.binding with cols := x.cols, job := x.job }, 0)
        else
          match s.columnSpan v with
          | some (first, count) =>
            (s.putInst i { x with cols := x.cols.filter fun k => decide (k.num < first ∨ first + count ≤ k.num) }, 0)
          | none => (s, 5)
      | 3 =>
        let e : TrailEntry :=
          { round := 0, reason := 0, level := x.level + 1, val := v / 2 ^ 11 % 2 == 1, row := BitVec.ofNat 11 v }
        (s.putInst i { x with level := x.level + 1, trail := x.trail ++ [e] }, 0)
      | 5 =>
        (s.putInst i { x with level := BitVec.ofNat 8 v, trail := x.trail.filter fun e => decide (e.level.toNat ≤ v) }, 0)
      | 6 =>
        let stores := s.lastStores r r.eff.stores
        if stores.flatten.any fun c => s.inWipe c.1 1 then (s, 7)
        else (s.engineStore stores [], if mergeFails s.mem stores then 7 else 0)
      | _ =>
        match s.columnSpan (v % 2 ^ 31 + v / 2 ^ 32 * 2 ^ 32) with
        | some (first, count) =>
          let en := v / 2 ^ 31 % 2 == 1
          let cols := (List.range count).foldl (fun cs j => putColumn cs { x.column (first + j) with en := en }) x.cols
          (s.putInst i { x with cols := cols }, 0)
        | none => (s, 5)

/-- A command is over: ERR, then its counter (R342). -/
def State.endClause (s : State) (r : Running) (code : Nat) : State :=
  let s1 : State := { s with sys := { s.sys with clErr := BitVec.ofNat 4 code } }
  (s1.dropRunning r.cmd.id).arrive r.cmd.ac (code != 0)

/-- An instance fails (R347): the lining is told, and the health window counts it. -/
def State.failInst (s : State) (i : Nat) : State :=
  ((s.putInst i { s.clauseInst i with binding := Binding.failed s.id.core }).count 347).liningEvent 6 i

/-- A cl.prop has run its last round: it ends two cycles later, and writes its result and the report then (R340, R352). Its
result waits in the field of the effect that no clause command has, the rows it assigned in `left`. -/
def State.lastRound (s : State) (r : Running) (res : BitVec 2) (assigned rounds : Nat) : State :=
  let e := r.endIn s.clock 2 0
  s.putRunning { e with rounds := rounds, left := assigned, eff := { e.eff with addr := res.setWidth 64 } }

/-- A round of a running cl.prop (R337), or of its repetition after a failed one (R347). -/
def State.propRound (s : State) (r : Running) (i limit : Nat) : State :=
  let x := s.clauseInst i
  let n := r.rounds + 1
  let view := x.view
  if !view.falses.isEmpty || !view.opposed.isEmpty then s.lastRound r 2 r.left n
  else
    let es := x.newEntries view n
    let t := s.putInst i { x with trail := x.trail ++ es }
    if es.isEmpty then s.lastRound r 1 r.left n
    else if limit ≠ 0 ∧ n = limit then t.lastRound r 3 (r.left + es.length) n
    else t.putRunning { r with rounds := n, left := r.left + es.length, srcRead := false, due := some (s.clock + 2) }

/-- A cl.prop ends: its result and report, from the rounds that it ran (R340). A conflict round applies nothing, so the array
still shows it. -/
def State.endProp (s : State) (r : Running) (res : BitVec 2) : State :=
  match s.myInst with
  | none => s
  | some i =>
    let x := s.clauseInst i
    s.putInst i (x.finishProp res (if res = 2 then x.view.words else (0, 0, 0)) r.left r.rounds)

/-- The granules that the next n halfwords of a clause image complete, of those that lie whole in it. -/
def columnGranules (a cur n : Nat) : List Nat :=
  (wholeGranules a (cur + 2 * n)).filter fun g => decide (a + cur < 256 * (g + 1))

/-- A column of a running cl.ld (R344). -/
def State.loadColumn (s : State) (r : Running) (i : Nat) : State :=
  let head := r.eff.addr.toNat
  match s.nextColumn r with
  | .bad code => s.endClause r code
  | .ok lits n =>
    let gs := columnGranules (imagePlace r.cmd).1 r.left n
    let bad := gs.any s.mem.broken.contains
    let s := s.checkWhole gs
    if bad then s.endClause r 7
    else
    let x := s.clauseInst i
    let s := s.putInst i { x with cols := putColumn x.cols { num := head % 2 ^ 13 + r.rounds, en := true, lits := lits } }
    let r := { r with rounds := r.rounds + 1, left := r.left + 2 * n }
    if r.rounds = head / 2 ^ 16 % 2 ^ 13 then s.endClause r 0
    else s.putRunning { r with due := some (s.clock + columnCycles (s.nextColumn r)) }

/-- Window operations that waited for the command that is over start (R354). -/
def State.freeWindows (before s : State) : State :=
  let win := s.clause.win.mapIdx fun i w => if before.clauseRuns i && !s.clauseRuns i then { w with since := s.clock } else w
  { s with clause := { s.clause with win := win } }

/-- A running command reaches its due cycle: a round or a column is done, or it completes. A round that failed its check
runs again, and after a second failure the instance is failed (R347) and the report is that of the rounds before it (DESIGN
CHOICE; log entry 82). -/
def State.stepClause (s : State) (id : Nat) (bad : ArrayFault) : State :=
  match s.runningCmd id with
  | none => s
  | some r =>
    match r.cmd.op with
    | .clause minor a _ =>
      if r.ended then
        if r.eff.code ≠ 0 then s.endClause r r.eff.code
        else if minor = 4 then (s.endProp r (r.eff.addr.setWidth 2)).endClause r 0
        else
          let e := s.clauseEffect r minor a.toNat
          e.1.endClause r e.2
      else
        match s.myInst with
        | none => s.endClause r 3
        | some i =>
          if minor = 4 then
            if bad = .failed then
              if r.srcRead then ((s.endProp r 0).failInst i).endClause r 8
              else s.putRunning { r with srcRead := true, due := some (s.clock + 2) }
            else s.propRound r i (a.toNat % 2 ^ 32)
          else s.loadColumn r i
    | _ => s

/-- The end of a command, or of a step of it; a corrected bit is counted (R347). -/
def State.completeClause (s : State) (id : Nat) (bad : ArrayFault) : State :=
  let s := if bad = .corrected then s.count 347 else s
  s.freeWindows (s.stepClause id bad)

/-! ## Instructions (major 0x29) -/

/-- A command with a scalar operand. -/
def State.issueClause (s : State) (minor : Nat) (a : BitVec 5) (k : BitVec 6) : State :=
  s.command k noTiles (.clause minor (s.rs a) Handle.reset)

def execClBind (a : BitVec 5) (k : BitVec 6) (s : State) : Result := plainOp s fun s => s.issueClause 0 a k
def execClClr (a : BitVec 5) (k : BitVec 6) (s : State) : Result := plainOp s fun s => s.issueClause 2 a k
def execClDec (a : BitVec 5) (k : BitVec 6) (s : State) : Result := plainOp s fun s => s.issueClause 3 a k
def execClProp (a : BitVec 5) (k : BitVec 6) (s : State) : Result := plainOp s fun s => s.issueClause 4 a k
def execClBt (a : BitVec 5) (k : BitVec 6) (s : State) : Result := plainOp s fun s => s.issueClause 5 a k
def execClCol (a : BitVec 5) (k : BitVec 6) (s : State) : Result := plainOp s fun s => s.issueClause 8 a k

/-- cl.ld and cl.st: the checks of R344 and R345. -/
def State.issueImage (s : State) (minor : Nat) (h a : BitVec 4) (k : BitVec 6) (n : Nat) (perm : Perm) : State :=
  let hd := s.rh h
  let o := s.ra a
  let near := ((hd.region == 0 || hd.region == 1) && hd.die == s.ownDie) || s.isOwnScratch hd
  if hd.valid && !near then s.illegalOperand (h.setWidth 64)
  else
    match hd.fault o.toNat n [perm] with
    | some reason => s.handleFault h.toNat hd o.toNat reason .command
    | none =>
      if o.toNat % 8 ≠ 0 then s.illegalOperand o
      else (s.noteSum none (hd.at o.toNat)).command k noTiles (.clause minor o hd)

def execClLd (h a : BitVec 4) (k : BitVec 6) (s : State) : Result := plainOp s fun s => s.issueImage 1 h a k 8 .r
def execClSt (h a : BitVec 4) (k : BitVec 6) (s : State) : Result :=
  plainOp s fun s => s.issueImage 6 h a k (contextSize s.ncol) .w

/-- What cl.rd returns (R349), none for a selector word with a non-zero bit that must be zero. -/
def ClauseInst.read (x : ClauseInst) (ncol v : Nat) : Option Nat :=
  let low := v % 2 ^ 12
  match v / 2 ^ 12 % 4 with
  | 0 => if v / 2 ^ 14 ≠ 0 then none else some (match x.trail.toArray[low]? with | some e => e.word | none => 0)
  | 1 => if v / 2 ^ 14 ≠ 0 ∨ v / 2 ^ 11 % 2 = 1 then none else some (x.rowWord low)
  | 2 => if v / 2 ^ 14 ≠ 0 ∨ v / 4 % 2 ^ 10 ≠ 0 then none else some (x.report.toArray.getD low 0).toNat
  | _ =>
    if v / 2 ^ 29 ≠ 0 ∨ v / 2 ^ 14 % 4 ≠ 0 ∨ low ≠ 0 then none
    else
      let c := v / 2 ^ 16 % 2 ^ 13
      some (if ncol ≤ c then 0 else x.columnWord c)

/-- The synchronous forms read the bound instance (R351); without one they trap. -/
def State.onInst (s : State) (f : ClauseInst → State) : State :=
  match s.myInst with
  | none => s.illegalOperand 0
  | some i => f (s.clauseInst i)

def execClRd (d a : BitVec 5) (s : State) : Result :=
  plainOp s fun s => s.onInst fun x =>
    match x.read s.ncol (s.rs a).toNat with
    | some w => s.emit 2 (.s d (BitVec.ofNat 64 w))
    | none => s.illegalOperand (s.rs a)

/-- A mask with bit j set where row j meets a test. -/
def rowsMask (f : Nat → Bool) : Mask := BitVec.ofNat 2048 ((List.range 2048).foldl (fun m j => m + (if f j then 2 ^ j else 0)) 0)

/-- cl.mask (R350). -/
def execClMask (d : BitVec 3) (sel : BitVec 2) (s : State) : Result :=
  plainOp s fun s => s.onInst fun x =>
    s.emit 4 (.m d (BitVec.allOnes 2048) (rowsMask fun j =>
      match sel.toNat with
      | 0 => x.row j == 2
      | 1 => x.row j == 1
      | 2 => x.row j == 0
      | _ => match x.entry j with | some e => e.round != 0 | none => false))

/-- cl.lvl (R350). -/
def execClLvl (d : BitVec 3) (a : BitVec 5) (s : State) : Result :=
  plainOp s fun s => s.onInst fun x =>
    let v := (s.rs a).toNat
    if v / 2 ^ 8 ≠ 0 then s.illegalOperand (s.rs a)
    else
      s.emit 4 (.m d (BitVec.allOnes 2048) (rowsMask fun j =>
        match x.entry j with | some e => decide (v ≤ e.level.toNat) | none => false))

end Sys2Proof.Machine
end

