-- ==== Sys2Proof/Machine/System.lean ====
section
/-! DEFINITION. The system instructions: major 0x11 (R111 to R120). -/

namespace Sys2Proof.Machine

/-- The main context is stopped (R57). -/
def State.stopped (s : State) : Bool :=
  match s.status with
  | .running => false
  | .halting _ => false
  | _ => true

/-- fmt writes the format register, in effect after four cycles (R55, R113). -/
def execFmt (v : BitVec 10) (p : BitVec 3) (s : State) : Result :=
  predOp p s fun s => if s.isMain then s.emit 4 (.fmt (v.setWidth 32)) else s.illegalOperand (v.setWidth 64)

def execFmtr (d : BitVec 5) (p : BitVec 3) (s : State) : Result :=
  predOp p s fun s =>
    if s.isMain then s.emit 1 (.s d (s.core.regs.fmt.setWidth 64)) else s.illegalOperand 0

/-- Commands that the open panel holds, in all queues (R163). -/
def heldCommands (c : Core) : Nat :=
  ((c.copyQ ++ c.matrixQ ++ c.shuttleQ ++ c.outboxQ ++ c.clauseQ).filter (·.held)).length

/-- TACKSTAT (R163). PENTRY is a free value while no panel is open (log entry 7). -/
def State.tackstat (s : State) : Dword :=
  let c := s.core
  let (irrev, retry, tb, entry) : Nat × Nat × Nat × Nat := match c.panel with
    | some p => (if p.irrev then 1 else 0, p.retry, (gateLines p.gates).length, p.entryPc.toNat)
    | none => (0, 0, 0, (Config.freeDword (s.free * 2 ^ 64 + 2 ^ 46)).toNat % 2 ^ 17)
  BitVec.ofNat 64 (s.sys.notch.toNat * 2 ^ 48 + irrev * 2 ^ 47 + retry % 4 * 2 ^ 45 + heldCommands c * 2 ^ 38 +
    tb * 2 ^ 27 + entry)

/-- LSHARE (R60). FCAUSE is the code that holds in the lining's cycle; the main context reads it only in a running cycle,
in which no cause holds. -/
def State.lshare (s : State) : Dword :=
  let fcause := if s.isMain then 0 else s.hold.cause % 16
  BitVec.ofNat 64 (fcause * 2 ^ 28 + s.lin.wdexp.toNat * 2 ^ 16 + s.lin.charge % 256 * 2 ^ 8 + s.lin.share.toNat)

/-- A system register as it reads (R114). -/
def State.readSys (s : State) (n : Nat) : Dword :=
  match n with
  | 0x000 => s.core.regs.fmt.setWidth 64
  | 0x005 => s.lshare
  | 0x006 => BitVec.ofNat 64 s.ptimeNs
  | 0x008 => s.sys.trapinfo0
  | 0x009 => s.sys.trapinfo1
  | 0x00A => s.sys.mcinfo0
  | 0x00B => s.sys.mcinfo1
  | 0x00C => s.sys.mcinfo2
  | 0x00D => s.sys.mcinfo3
  | 0x00E => s.sys.agstat
  | 0x00F => s.sys.seamreq
  | 0x010 => s.tackstat
  | 0x011 => s.sys.handleinfo
  | 0x012 => s.clstat
  | 0x013 => s.sys.inject
  | 0x014 => s.lin.evinfo
  | n => if 1 ≤ n ∧ n ≤ 4 then (s.core.regs.cluster (BitVec.toFin (BitVec.ofNat 2 (n - 1)))).fp.setWidth 64 else 0

/-- Registers that a context may read, and write, with C = 0 (R114). -/
def mayRead (c : Ctx) (n : Nat) : Bool :=
  match c with
  | .main => n ≤ 6 || (0xE ≤ n && n ≤ 0x12)
  | .lining => n == 5 || n == 6 || (8 ≤ n && n ≤ 0x14)

def mayWrite (c : Ctx) (n : Nat) : Bool :=
  match c with
  | .main => n ≤ 4
  | .lining => n == 5 || (8 ≤ n && n ≤ 0xF) || n == 0x11 || n == 0x13

/-- The fields that a value must keep clear or in range to be written (R60, R68, R112, R119, R150, R162, R170,
R210, R318). -/
def injectLegal (v : Dword) : Bool :=
  let k := v.toNat / 2 ^ 60 % 8
  let d := v.toNat / 2 ^ 56 % 16
  decide (k < 4) && (k != 0 || (d != 0 && d != 15)) && v.toNat / 2 ^ 32 % 4 == 0

def sysLegal (n : Nat) (v : Dword) : Bool :=
  let f := fun lo len => v.toNat / 2 ^ lo % 2 ^ len == 0
  match n with
  | 0x000 => fmtLegal (v.toNat % 2 ^ 32)
  | 0x001 | 0x002 | 0x003 | 0x004 => f 5 27
  | 0x005 => f 21 7
  | 0x008 => f 17 22
  | 0x00A => f 32 1
  | 0x00B => f 49 15 && f 17 15
  | 0x00F => f 48 3
  | 0x011 => f 48 6
  | 0x013 => injectLegal v
  | _ => true

/-- mfsr (R115, R116). -/
def execMfsr (d : BitVec 5) (r : BitVec 10) (p : BitVec 3) (c : BitVec 1) (k : BitVec 2) (s : State) : Result :=
  predOp p s fun s =>
    if c = 1 then
      if !s.isMain && s.stopped then s.emit 1 (.s d (s.core.regs.readContext r.toNat k.toFin))
      else s.illegalOperand (r.setWidth 64)
    else if mayRead s.ctx r.toNat then s.emit 1 (.s d (s.readSys r.toNat))
    else s.illegalOperand (r.setWidth 64)

/-- The latency of a write of a system register: FMT takes effect after four cycles (R55, R115). -/
def sysLatency (n : Nat) : Nat := if n = 0 then 4 else 1

/-- mtsr (R115, R116). A value that the register's layout forbids is the illegal-operand trap. -/
def execMtsr (a : BitVec 5) (r : BitVec 10) (p : BitVec 3) (c : BitVec 1) (k : BitVec 2) (s : State) : Result :=
  predOp p s fun s =>
    let v := s.rs a
    let n := r.toNat
    if c = 1 then
      if !s.isMain && s.stopped then
        if (n = 0x51 && !sysLegal 0 v) || (n = 0x28 && !sysLegal 1 v) then s.illegalOperand v
        else s.emit 1 (.ctxReg r k v)
      else s.illegalOperand v
    else if !mayWrite s.ctx n || !sysLegal n v then s.illegalOperand v
    else if n = 0 then s.emit 4 (.fmt (v.extractLsb' 0 32))
    else s.emit (sysLatency n) (.sys n v)

/-- eret (R117). -/
def execEret (c : BitVec 10) (p : BitVec 3) (s : State) : Result :=
  predOp p s fun s =>
    if s.isMain then s.illegalOperand (c.setWidth 64)
    else if s.status = .trapped ∨ s.status = .idle then
      match s.resume c.toNat with
      | some t => t
      | none => s.illegalTarget s.sys.trapinfo0
    else s.illegalOperand (c.setWidth 64)

/-- lyield (R118). -/
def execLyield (p : BitVec 3) (s : State) : Result :=
  predOp p s fun s =>
    if s.isMain then s.illegalOperand 0 else { s with lin := { s.lin with yielded := true } }

/-- inject (R120). -/
def execInject (a : BitVec 5) (p : BitVec 3) (s : State) : Result :=
  predOp p s fun s =>
    let v := s.rs a
    if s.isMain || !injectLegal v then s.illegalOperand v
    else { s with sys := { s.sys with inject := v ||| 0x8000000000000000#64 } }

end Sys2Proof.Machine
end

