-- ==== Sys2Proof/Machine/Thimble.lean ====
section
/-! DEFINITION. Thimbles and mailboxes: majors 0x27 and 0x28 (R319 to R329), packets and their order (R272, R297), the
built-in routines (R298, R299, R322 to R325), and user routines (R300, R301). -/

namespace Sys2Proof.Machine

/-! ## Thimbles (R185, R296) -/

/-- The interleave set that holds an HBM offset of a die. -/
def State.setAt (s : State) (die off : Nat) : Option InterleaveSet :=
  s.reg6.sets.find? fun x => x.die.toNat == die && decide (x.start ≤ off ∧ off < x.start + x.size)

/-- Channel of an offset in a set (R185). -/
def InterleaveSet.channel (x : InterleaveSet) (off : Nat) : Nat :=
  match x.channels.toArray[(off - x.start) / x.granule % x.channels.length]? with
  | some c => c.toNat
  | none => 0

/-- The die and number of the thimble that an address names, none where no thimble does. -/
def State.thimbleOf (s : State) (a : Nat) : Option (Nat × Nat) :=
  let off := offsetOf a
  match regionOf a with
  | 0 => (s.setAt (dieOf a) off).map fun x => (dieOf a, x.channel off)
  | 1 => if off < 2 ^ 30 then some (dieOf a, 64 + off / 2 ^ 28) else none
  | 5 => if off / 2 ^ 22 = 0 ∧ off / 2 ^ 15 < 68 ∧ off % 2 ^ 15 < 0x1000 then some (dieOf a, off / 2 ^ 15) else none
  | _ => none

/-- The thimble that takes a packet for an address: that of `thimbleOf`, and for region 5 also a store to a routine slot, which
is a packet too (R297). -/
def State.unitOf (s : State) (a : Nat) : Option (Nat × Nat) :=
  let off := offsetOf a
  if regionOf a = 5 ∧ off / 2 ^ 22 = 0 ∧ off / 2 ^ 15 < 68 then some (dieOf a, off / 2 ^ 15) else s.thimbleOf a

/-- Address of a cell, and of a word of a routine slot, of a thimble. -/
def cellAddr (die unit i : Nat) : Nat := physical 5 die (unit * 2 ^ 15 + 8 * i)
def routineAddr (die unit slot i : Nat) : Nat := physical 5 die (unit * 2 ^ 15 + 0x1000 + 0x100 * slot + 4 * i)

/-! ## Issue (R320, R327, R328, R329) -/

/-- The block offset of a command that step 3 of R320 admits. -/
def blockOk (b : Dword) : Bool := b.toNat % 64 == 0 && decide (b.toNat ≤ 0x1FFF80)

/-- Regions that a thimble command may name (R320, step 1). -/
def thimbleRegion (minor : Nat) (h : Handle) (o : Nat) : Bool :=
  h.region == 0 || h.region == 1 ||
    (h.region == 5 && decide (minor ≤ 1) && decide (offsetOf (h.pbase.toNat + o) % 2 ^ 15 < 0x1000))

/-- Issues a thimble command by its minor, with the permission of R322. -/
def State.issueThimble (s : State) (minor : Nat) (perm : Perm) (h a b : BitVec 4) (k : BitVec 6) : State :=
  let hd := s.rh h
  let o := s.ra a
  let blk := s.ra b
  if hd.valid && !thimbleRegion minor hd o.toNat then s.illegalOperand (h.setWidth 64)
  else
    match hd.fault o.toNat 8 [perm] with
    | some reason => s.handleFault h.toNat hd o.toNat reason .command
    | none =>
      if o.toNat % 8 ≠ 0 then s.illegalOperand o
      else if !blockOk blk then s.illegalOperand blk
      else (s.noteSum none (hd.at o.toNat)).command k noTiles (.thimble minor hd o blk)

def execThLd (h a b : BitVec 4) (k : BitVec 6) (s : State) : Result := plainOp s fun s => s.issueThimble 0 .r h a b k
def execThSt (h a b : BitVec 4) (k : BitVec 6) (s : State) : Result := plainOp s fun s => s.issueThimble 1 .w h a b k
def execThAmo (h a b : BitVec 4) (k : BitVec 6) (s : State) : Result := plainOp s fun s => s.issueThimble 2 .a h a b k
def execThCas (h a b : BitVec 4) (k : BitVec 6) (s : State) : Result := plainOp s fun s => s.issueThimble 3 .a h a b k
def execThEnq (h a b : BitVec 4) (k : BitVec 6) (s : State) : Result := plainOp s fun s => s.issueThimble 4 .a h a b k
def execThDeq (h a b : BitVec 4) (k : BitVec 6) (s : State) : Result := plainOp s fun s => s.issueThimble 5 .a h a b k
def execThChase (h a b : BitVec 4) (k : BitVec 6) (s : State) : Result := plainOp s fun s => s.issueThimble 6 .r h a b k
def execThClaim (h a b : BitVec 4) (k : BitVec 6) (s : State) : Result := plainOp s fun s => s.issueThimble 7 .a h a b k
def execThFac (h a b : BitVec 4) (k : BitVec 6) (s : State) : Result := plainOp s fun s => s.issueThimble 8 .a h a b k
def execThCall (h a b : BitVec 4) (k : BitVec 6) (s : State) : Result := plainOp s fun s => s.issueThimble 9 .a h a b k

/-- mb.post (R328). -/
def execMbPost (t : BitVec 5) (b : BitVec 4) (k : BitVec 6) (s : State) : Result :=
  plainOp s fun s =>
    let target := s.rs t
    let blk := s.ra b
    if target.toNat / 2 ^ 16 ≠ 0 then s.illegalOperand target
    else if !blockOk blk then s.illegalOperand blk
    else s.command k noTiles (.post target blk)

/-- A mailbox count (R326). -/
def State.mbc (s : State) (n : BitVec 2) : Nat := (vget (k := 2) s.core.regs.mbc n).toNat

def Regs.addMbc (r : Regs) (n : BitVec 2) (d : BitVec 16) : Regs := { r with mbc := vput (k := 2) r.mbc n (vget (k := 2) r.mbc n + d) }

/-- mb.take (R329): it takes a counted entry, or waits for a notice or its time-out. -/
def execMbTake (n : BitVec 2) (b : BitVec 4) (t : BitVec 5) (p : BitVec 3) (k : BitVec 6) (s : State) : Result :=
  plainOp s fun s =>
    let blk := s.ra b
    let out := match s.waitHere 1 with | some w => w.expired | none => false
    if !blockOk blk then s.illegalOperand blk
    else if 0 < s.mbc n then
      let s := { s with core := { s.core with regs := s.core.regs.addMbc n 0xFFFF } }
      (s.emit 1 (.p p true)).command k noTiles (.take n blk true)
    else if out then (s.emit 1 (.p p false)).command k noTiles (.take n blk false)
    else s.waitOn 1 (s.rs t).toNat n.toNat 1

/-- The time of a waiting mb.take has run out. -/
def execMbTakeTimeout (s : State) : Result := .next (s.expireWaits 1)

/-! ## The mailbox descriptors (R326) -/

/-- Offset in region 6 of the descriptor of a mailbox of a core. -/
def mailboxReg (core n : Nat) : Nat := 0x700000 + 0x40 * core + 16 * n

structure Mailbox where
  tail : Nat
  head : Nat
  en   : Bool
  cap  : Nat
  base : Nat

def State.mailbox (s : State) (core n : Nat) : Mailbox :=
  let lo := leNat (cellsRead s.reg6.cells (mailboxReg core n) 8)
  { tail := leNat (cellsRead s.reg6.cells (mailboxReg core n + 8) 8), head := lo / 2 ^ 48, en := lo / 2 ^ 47 % 2 == 1,
    cap := lo / 2 ^ 28 % 2 ^ 12 + 1, base := lo % 2 ^ 28 }

/-- Entries posted and not taken. -/
def Mailbox.count (m : Mailbox) : Nat := (m.tail + 2 ^ 16 - m.head) % 2 ^ 16

/-- Address of the entry of a number in the vault of a core's quad. -/
def State.entryAddr (s : State) (core : Nat) (m : Mailbox) (i : Nat) : Nat :=
  vaultBase s.ownDie (core / 4) + m.base + 64 * (i % m.cap)

def State.putMailbox (s : State) (core n : Nat) (m : Mailbox) : State :=
  let lo := m.head % 2 ^ 16 * 2 ^ 48 + (if m.en then 2 ^ 47 else 0) + (m.cap - 1) * 2 ^ 28 + m.base
  let bytes := leBytes 8 lo ++ leBytes 8 m.tail
  { s with reg6 := { s.reg6 with cells := cellsPutAll s.reg6.cells (cellsAt (mailboxReg core n) bytes) } }

/-! ## Packets leave the outbox (R272, R275, R321) -/

/-- Doublewords from an address. -/
def dwordsAt (m : Memory) (a n : Nat) : List Dword :=
  (List.range n).map fun i => BitVec.ofNat 64 (leNat (m.bytes (a + 8 * i) 8))

/-- The packet of a command, which reads its block now. -/
def State.packetOf (s : State) (m : Memory) (c : Cmd) : Option Packet :=
  let id := s.id
  match c.op with
  | .thimble minor h off blk =>
    let b := s.pad blk.toNat
    some { id := c.id, sdie := id.die, score := id.core, part := id.part, op := BitVec.ofNat 4 minor, addr := h.pbase + off.setWidth 52,
           base := h.pbase, size := spanSize h.ps, cls := h.cls, ctl := BitVec.ofNat 64 (leNat (m.bytes b 8)),
           data := dwordsAt m (b + 16) 8 }
  | .post t blk =>
    let die := t.toNat / 2 ^ 6 % 2 ^ 10
    let base := vaultBase die (t.toNat / 2 ^ 4 % 4)
    some { id := c.id, sdie := id.die, score := id.core, part := id.part, op := 10, addr := BitVec.ofNat 52 base, base := BitVec.ofNat 52 base,
           size := 2 ^ 28, cls := 0, ctl := t, data := dwordsAt m (s.pad blk.toNat) 7 }
  | .take n _ true =>
    let base := vaultBase s.ownDie s.ownQuad
    some { id := c.id, sdie := id.die, score := id.core, part := id.part, op := 11, addr := BitVec.ofNat 52 base, base := BitVec.ofNat 52 base,
           size := 2 ^ 28, cls := 0, ctl := n.setWidth 64, data := [] }
  | _ => none

/-- Offset of STATUS in a command's block (R321, R327). -/
def statusOff (c : Cmd) : Nat := match c.op with | .thimble _ _ _ _ => 8 | _ => 0x40

def blockOf (c : Cmd) : Nat :=
  match c.op with
  | .thimble _ _ _ b => b.toNat
  | .post _ b => b.toNat
  | .take _ b _ => b.toNat
  | _ => 0

/-- Codes that set the error bit of the counter (R325). -/
def errorCode (code : Nat) : Bool := code == 1 || code == 2 || code == 3 || code == 7

/-- A command of the outbox ends: its results and STATUS are written, then its counter increases (R321, R325). -/
def State.endPacket (s : State) (c : Cmd) (code : Nat) (data : List (Nat × Dword)) : State :=
  let b := s.pad (blockOf c)
  let at_ := match c.op with | .thimble _ _ _ _ => b + 16 | _ => b
  let results := if code = 7 then [] else data.flatMap fun x => cellsAt (at_ + 8 * x.1) (leBytes 8 x.2.toNat)
  let bad := if code ≠ 7 then []
    else match c.op with | .thimble _ _ _ _ => [lineOf (b + 0x40)] | _ => [lineOf b]
  let s := s.engineStore [results, cellsAt (b + statusOff c) (leBytes 8 code)] bad
  (s.dropRunning c.id).arrive c.ac (errorCode code)

/-- The outbox takes the head of its queue: the block is read, or the command ends without a packet. -/
def State.startOutbox (s : State) : State :=
  match s.core.startable .outbox with
  | none => s
  | some c =>
    let s := s.takeHead .outbox
    let r := Running.begin c s.clock none Effect.nothing
    if c.revoked then { s with running := s.running ++ [r] }.endPacket c 2 []
    else
      match s.packetOf s.performed.mem c with
      | none => { s with running := s.running ++ [r] }.endPacket c 5 []
      | some p => { s with running := s.running ++ [{ r with packet := some p, left := 1 }] }

/-- A reply for a command of this core, on its way, or one that leaves for another core. -/
def State.replyTo (s : State) (p : Packet) (code : Nat) (data : List (Nat × Dword)) : State :=
  let r : Reply := { id := p.id, code := BitVec.ofNat 4 code, data := data }
  if p.sdie = s.id.die ∧ p.score = s.id.core then s.onWire (s.clock + 1) (.thimbleReply r)
  else s.post p.score p.part.toNat p.sdie.toNat (80 + p.score.toNat) (.reply r)

/-- Scope that holds the poster and the mailbox (R275). -/
def State.postScope (s : State) (p : Packet) : Nat :=
  let d := dieOf p.addr.toNat
  scopeOf [s.ownDie, d] [(s.ownDie, s.ownQuad), (d, offsetOf p.addr.toNat / 2 ^ 28)]

/-- A post may leave: what its context did before it has performed, as far as the scope of R275 covers it. -/
def State.released (s : State) (r : Running) (p : Packet) : Bool :=
  p.op != 10 || (if r.cmd.lining then s.liningQuiet (s.postScope p) r.cmd.id else s.quiet (s.postScope p) s.run r.cmd.id)

/-- The ring slot of a packet for another die. A thimble that this die cannot name from its interleave sets has a free number
(log entry 1). -/
def State.packetSlot (s : State) (p : Packet) : RingSlot :=
  let unit := match s.unitOf p.addr.toNat with | some t => t.2 | none => s.freeWord (2 ^ 41) % 64
  s.slotFor p.score p.part.toNat (dieOf p.addr.toNat) unit (.request p)

/-- A packet for this die goes to its thimble. One for another leaves as a ring slot, none while no position of its partition
arrives empty (R286), and the thimble there gets it too, since the model holds the memory of every die; one that no leg leads to
ends as unreachable (R284). -/
def State.launchPacket (s : State) (p : Packet) : Option State :=
  if dieOf p.addr.toNat = s.ownDie then some { s with packets := s.packets ++ [p] }
  else
    let q := s.packetSlot p
    if (s.nextLeg q).isNone then some (s.replyTo p 3 [])
    else ((s.stepSeq q.score q.ddie q.dunit q.cnt).enter q).map fun t => { t with packets := t.packets ++ [p] }

/-- The oldest packet that has not left may leave: a post releases first (R275), and the target's window of 64 has
room (R272). -/
def State.sendable (s : State) : Option (Running × Packet) :=
  match s.running.find? (fun r => r.cmd.engine == .outbox && r.left == 1) with
  | none => none
  | some r =>
    match r.packet with
    | none => none
    | some p =>
      let window := (s.packets.filter fun q => q.sdie == p.sdie && q.score == p.score &&
        s.unitOf q.addr.toNat == s.unitOf p.addr.toNat).length
      if s.released r p && decide (window < 64) then some (r, p) else none

/-- A packet leaves for its thimble; to a die that is dead it ends with UNREACH (R293). -/
def State.sendPacket (s : State) : State :=
  match s.sendable with
  | none => s
  | some (r, p) =>
    let t := s.putRunning { r with left := 0 }
    if t.deadDies.contains (dieOf p.addr.toNat) then t.replyTo p 3 [] else (t.launchPacket p).getD s

def execPacketSend (s : State) : Result := .next s.sendPacket

/-! ## The built-in routines (R298) -/

/-- What a routine answers: its code, its results, and its stores in order. -/
structure Served where
  code   : Nat
  data   : List (Nat × Dword)
  stores : List (List Host.Cell)

def refuse (code : Nat) : Served := { code := code, data := [], stores := [] }
def served (data : List (Nat × Dword)) (stores : List (List Host.Cell)) : Served := { code := 0, data := data, stores := stores }

/-- Lines that n bytes from an address touch. -/
def linesOf (a n : Nat) : List Nat := (List.range ((a % 64 + n + 63) / 64)).map (lineOf a + ·)

/-- A line that the thimble of a packet serves, inside the page of its handle (R322). -/
def State.lineServed (s : State) (p : Packet) (l : Nat) : Bool :=
  decide (p.base.toNat ≤ 64 * l ∧ 64 * l + 64 ≤ p.base.toNat + p.size) &&
    (s.thimbleOf (64 * l)).isSome && s.thimbleOf (64 * l) == s.thimbleOf p.addr.toNat

/-- A line that a read finds poisoned; a memory that is being wiped answers every access so (R201). -/
def State.lineBad (s : State) (m : Memory) (l : Nat) : Bool := m.poison.contains l || s.inWipe (64 * l) 64

/-- Goes on when every line is served and none that is read is poisoned, otherwise FAULT or POISON (R325). -/
def State.onLines (s : State) (m : Memory) (p : Packet) (reads writes : List Nat) (k : Served) : Served :=
  if !(reads ++ writes).all (s.lineServed p) then refuse 2
  else if (reads.any (s.lineBad m)) || writes.any fun l => s.inWipe (64 * l) 64 then refuse 7
  else k

def dwordCells (a : Nat) (v : Dword) : List Host.Cell := cellsAt a (leBytes 8 v.toNat)

def dword (m : Memory) (a : Nat) : Dword := BitVec.ofNat 64 (leNat (m.bytes a 8))

/-- Results with their indices. -/
def indexed (l : List Dword) : List (Nat × Dword) := (List.range l.length).zip l

/-- th.ld and th.st: 1 to 8 doublewords of one line; a crossing of lines is ILLEGAL (DEDUCED; log entry 17). -/
def State.serveLoad (s : State) (m : Memory) (p : Packet) (write : Bool) : Served :=
  let n := p.ctl.toNat
  let a := p.addr.toNat
  if n = 0 ∨ 8 < n ∨ 64 < a % 64 + 8 * n then refuse 1
  else if write then
    s.onLines m p [] [lineOf a]
      (served [] ((List.range n).zip p.data |>.map fun x => dwordCells (a + 8 * x.1) x.2))
  else s.onLines m p [lineOf a] [] (served (indexed (dwordsAt m a n)) [])

/-- th.amo. -/
def State.serveAmo (s : State) (m : Memory) (p : Packet) : Served :=
  let c := p.ctl.toNat
  let op := c % 16
  let n := if c / 16 = 1 then 64 else 32
  let a := p.addr.toNat
  if 2 ≤ c / 16 ∨ 8 < op then refuse 1
  else
    let old := leNat (m.bytes a (n / 8))
    let new := atomicNew op n old ((p.data.headD 0).toNat % 2 ^ n) 0
    s.onLines m p [lineOf a] [lineOf a] (served [(0, sext64 n old)] [cellsAt a (leBytes (n / 8) new)])

/-- th.cas of 1 to 4 doublewords. -/
def State.serveCas (s : State) (m : Memory) (p : Packet) : Served :=
  let n := p.ctl.toNat
  let a := p.addr.toNat
  if n = 0 ∨ 4 < n then refuse 1
  else
    let old := dwordsAt m a n
    let ls := linesOf a (8 * n)
    s.onLines m p ls ls
      (if old = p.data.take n then
        served (indexed old) (((List.range n).zip (p.data.drop 4)).map fun x => dwordCells (a + 8 * x.1) x.2)
      else { code := 6, data := indexed old, stores := [] })

/-- th.enq and th.deq (R323). -/
def State.serveList (s : State) (m : Memory) (p : Packet) (enq : Bool) : Served :=
  let a := p.addr.toNat
  let head := dword m a
  let tail := dword m (a + 8)
  let cap := leNat (m.bytes (a + 0x10) 4)
  let edw := leNat (m.bytes (a + 0x14) 4)
  let clean := leNat (m.bytes (a + 0x18) 40) == 0
  if p.ctl ≠ 0 ∨ a % 64 ≠ 0 then refuse 1
  else
    s.onLines m p [lineOf a] [lineOf a]
      (if cap = 0 ∨ 2 ^ 20 < cap ∨ edw = 0 ∨ 8 < edw ∨ !clean then refuse 1
       else if enq then
        (if (tail - head).toNat = cap then refuse 4
         else
          let e := a + 64 + 64 * (tail.toNat % cap)
          s.onLines m p [] [lineOf e]
            (served [(0, tail)] ((((List.range edw).zip p.data).map fun x => dwordCells (e + 8 * x.1) x.2) ++ [dwordCells (a + 8) (tail + 1)])))
       else if tail = head then refuse 5
       else
        let e := a + 64 + 64 * (head.toNat % cap)
        s.onLines m p [lineOf e] [] (served (indexed (dwordsAt m e edw)) [dwordCells a (head + 1)]))

/-- th.chase (R324): at most n hops from an offset; the offset and the hops made, or a poisoned line. -/
def State.chase (s : State) (m : Memory) (p : Packet) (l : Nat) : Nat → Nat → Nat → Option (Nat × Nat)
  | 0, q, h => some (q, h)
  | n + 1, q, h =>
    let a := q + 8 * l
    if p.size < a + 8 ∨ !s.lineServed p (lineOf (p.base.toNat + a)) then some (q, h)
    else if s.lineBad m (lineOf (p.base.toNat + a)) then none
    else
      let q' := (dword m (p.base.toNat + a)).toNat
      if q' = 0 ∨ q' % 8 ≠ 0 then some (q', h + 1) else s.chase m p l n q' (h + 1)

def State.serveChase (s : State) (m : Memory) (p : Packet) : Served :=
  let c := p.ctl.toNat
  let n := c % 16
  if n = 0 ∨ 8 < n ∨ c / 16 % 16 ≠ 0 ∨ c / 2 ^ 11 ≠ 0 then refuse 1
  else
    match s.chase m p (c / 2 ^ 8) n (p.addr.toNat - p.base.toNat) 0 with
    | some r => served [(0, BitVec.ofNat 64 r.1), (1, BitVec.ofNat 64 r.2)] []
    | none => refuse 7

/-- Chunk of a claim (R299): remaining, part and least size. -/
def claimSize (remain part cmin : Nat) : Nat :=
  if remain = 0 then 0 else min remain (max ((remain + 2 * part - 1) / (2 * part)) (max cmin 1))

/-- th.claim. -/
def State.serveClaim (s : State) (m : Memory) (p : Packet) : Served :=
  let a := p.addr.toNat
  let next := dword m a
  let remain := (dword m (a + 8)).toNat
  let cmin := leNat (m.bytes (a + 0x10) 4)
  let part := leNat (m.bytes (a + 0x14) 4)
  if p.ctl ≠ 0 ∨ a % 32 ≠ 0 then refuse 1
  else
    s.onLines m p [lineOf a] [lineOf a]
      (if part = 0 ∨ dword m (a + 0x18) ≠ 0 then refuse 1
       else
        let g := BitVec.ofNat 64 (claimSize remain part cmin)
        served [(0, next), (1, g)]
          (if remain = 0 then [] else [dwordCells a (next + g), dwordCells (a + 8) (BitVec.ofNat 64 remain - g)]))

/-- The whole CLASS 2 page lies in one thimble's memory (R322). -/
def State.pageInOne (s : State) (p : Packet) : Bool :=
  match regionOf p.base.toNat with
  | 1 => true
  | _ => match s.setAt (dieOf p.base.toNat) (offsetOf p.base.toNat) with
    | some x => decide (p.size ≤ x.granule)
    | none => false

/-- th.fac: an add under R77, or a read-out under R78. -/
def State.serveFac (s : State) (m : Memory) (p : Packet) : Served :=
  let a := p.addr.toNat
  let base := p.base.toNat
  let off := a - base
  if 2 ≤ p.ctl.toNat ∨ p.cls ≠ 2 then refuse 1
  else if !s.pageInOne p then refuse 2
  else if s.lineBad m (lineOf base) then refuse 7
  else if !facCellExists m base p.size p.cls off then refuse 1
  else
    let (c, b, i) := facAt m base off
    let flags := lineOf (base + 64 + i / 4)
    if p.ctl = 1 then s.onLines m p [lineOf a, flags] [] (served [(0, BitVec.ofNat 64 (c.read b))] [])
    else
      let c' := c.add b ((p.data.headD 0).toNat % 2 ^ 32)
      s.onLines m p [lineOf a, flags] []
        (served [(0, BitVec.ofNat 64 ((if c'.sat then 1 else 0) + (if c'.nan then 2 else 0)))] [facCells m base off i c'])

/-- The routine that a packet of minors 0 to 8 calls. -/
def State.builtIn (s : State) (m : Memory) (p : Packet) : Served :=
  match p.op.toNat with
  | 0 => s.serveLoad m p false
  | 1 => s.serveLoad m p true
  | 2 => s.serveAmo m p
  | 3 => s.serveCas m p
  | 4 => s.serveList m p true
  | 5 => s.serveList m p false
  | 6 => s.serveChase m p
  | 7 => s.serveClaim m p
  | _ => s.serveFac m p

/-- A thimble's stores reach memory; a merge that fails gives POISON. -/
def State.serve (s : State) (p : Packet) (r : Served) : State :=
  if mergeFails s.mem r.stores then (s.engineStore r.stores []).replyTo p 7 []
  else (s.engineStore r.stores []).replyTo p r.code r.data

/-! ## Mailboxes at the thimble (R328, R329) -/

/-- An arrival notice for a core of this die. -/
def State.notify (s : State) (core n : Nat) : State :=
  if core = s.ownCore then s.onWire (s.clock + 1) (.mailboxNotice (BitVec.ofNat 2 n)) else s

/-- A post of seven doublewords and a poster, for a partition, reaches a mailbox: its status code. No die has a number from 576
on. The mailboxes of another die are not state of this one: the answer is free among those of R328, and so is the place in the
vault of the core's quad that the entry of a post takes (log entry 1). -/
def State.postEntry (s : State) (part die core n : Nat) (data : List Dword) (poster : Nat) : State × Nat :=
  if 576 ≤ die then (s, 1)
  else
    let put := fun (a : Nat) (done : State → State) =>
      let w := [cellsAt a ((data.take 7 ++ [BitVec.ofNat 64 poster]).flatMap fun x => leBytes 8 x.toNat)]
      if s.inWipe a 64 then (s, 7)
      else if mergeFails s.mem w then (s.engineStore w [], 7)
      else (done (s.engineStore w []), 0)
    if die ≠ s.ownDie then
      let c := (Config.freeDword (s.free * 2 ^ 64 + 2 ^ 56)).toNat
      if c % 3 = 0 then put (vaultBase die (core / 4) + c / 3 % 2 ^ 22 * 64) fun t => t else (s, if c % 3 = 1 then 1 else 4)
    else
      let m := s.mailbox core n
      if !m.en || !s.ownsCore part core then (s, 1)
      else if m.cap ≤ m.count then (s, 4)
      else put (s.entryAddr core m m.tail) fun t => (t.putMailbox core n { m with tail := (m.tail + 1) % 2 ^ 64 }).notify core n

/-- The entry of a post: the poster is a core, or a front end (R328, R374). -/
def State.postPacketEntry (s : State) (p : Packet) : State × Nat :=
  let t := p.ctl.toNat
  let poster := if frontEndPost p then p.sdie.toNat * 16 + 2 ^ 14 else p.sdie.toNat * 16 + p.score.toNat
  s.postEntry p.part.toNat (t / 2 ^ 6 % 2 ^ 10) (t / 4 % 16) (t % 4) p.data poster

def State.servePost (s : State) (p : Packet) : State :=
  let r := s.postPacketEntry p
  r.1.replyTo p r.2 []

/-- A take removes the entry at HEAD. -/
def State.serveTake (s : State) (p : Packet) : State :=
  let n := p.ctl.toNat % 4
  let core := p.score.toNat
  let m := s.mailbox core n
  let a := s.entryAddr core m (m.tail - m.count)
  let mem := s.performed.mem
  let s := s.putMailbox core n { m with head := (m.head + 1) % 2 ^ 16 }
  if s.lineBad mem (lineOf a) then s.replyTo p 7 [] else s.replyTo p 0 (indexed (dwordsAt mem a 8))

/-! ## Serving a packet (R297) -/

/-- Packets that may be served next: of each source, the first to each thimble. -/
def State.servable (s : State) : List Packet :=
  (List.range s.packets.length).filterMap fun i =>
    match s.packets.toArray[i]? with
    | none => none
    | some p =>
      if (s.packets.take i).any fun q => q.sdie == p.sdie && q.score == p.score && s.unitOf q.addr.toNat == s.unitOf p.addr.toNat
      then none else some p

/-- A lining store to a routine store (R296): slots 16 to 31 take it, anything else there is discarded and counted. -/
def State.storeRoutine (s : State) (p : Packet) : State :=
  let off := offsetOf p.addr.toNat % 2 ^ 15
  if off < 0x1000 ∨ (0x2000 ≤ off ∧ off < 0x3000) then
    s.engineStore [cellsAt p.addr.toNat (leBytes p.size (p.data.headD 0).toNat)] []
  else if off < 0x2000 then s.count 296
  else s

/-- A thimble serves a packet. A th.call of slots 16 to 31 starts its user routine. -/
def State.servePacket (s : State) (p : Packet) : State :=
  let s := { s with packets := s.packets.erase p }
  match p.op.toNat with
  | 9 =>
    if p.ctl.toNat < 16 ∨ 32 ≤ p.ctl.toNat then s.replyTo p 1 []
    else
      match s.thimbleOf p.addr.toNat with
      | none => s.replyTo p 2 []
      | some t =>
        let d := fun i => p.data.getD i 0
        let r : Routine :=
          { packet := p, die := t.1, unit := t.2, x := #v[p.addr.setWidth 64, d 0, d 1, d 2, 0, 0, 0, 0], pc := 0 }
        { s with routine := some r }
  | 10 => s.servePost p
  | 11 => s.serveTake p
  | 12 => s.storeRoutine p
  | _ => s.serve p (s.builtIn s.performed.mem p)

/-- A thimble takes a packet: which of those that may be next is its order of arrival (R297, R302). -/
def State.takePacket (s : State) : State :=
  let ps := s.servable
  match ps.toArray[(Config.freeDword (s.free * 2 ^ 64 + 2 ^ 55)).toNat % ps.length]? with
  | some p => s.servePacket p
  | none => s

def execThimblePacket (s : State) : Result := .next s.takePacket

/-- A reply reaches the outbox (R321). -/
def execThimbleReply (r : Reply) (s : State) : Result :=
  match s.runningCmd r.id with
  | some x => if x.cmd.engine = .outbox then .next (s.endPacket x.cmd r.code.toNat r.data) else .next s
  | none => .next s

/-- An arrival notice (R328): the count steps, and the core leaves idle (R85). -/
def execMailboxNotice (n : BitVec 2) (s : State) : Result :=
  let s := s.mapRegs fun r => r.addMbc n 1
  .next (match s.status with | .idle => s.wake | _ => s)

/-! ## User routines (R300, R301) -/

/-- The routine in progress ends with a code and its results. -/
def State.endRoutine (s : State) (r : Routine) (code : Nat) (data : List (Nat × Dword)) : State :=
  { s with routine := none }.replyTo r.packet code data

/-- An illegal word: the routine ends with the illegal status. -/
def illegalRoutineWord (s : State) : Result :=
  match s.routine with
  | some r => .next (s.endRoutine r 1 [])
  | none => .next s

def Routine.get (r : Routine) (i : BitVec 3) : Dword := vget (k := 3) r.x i
def Routine.put (r : Routine) (i : BitVec 3) (v : Dword) : Routine := { r with x := vput (k := 3) r.x i v }

/-- The routine goes on at a word; past word 63 it ends with the illegal status. -/
def State.routineAt (s : State) (r : Routine) (pc : Nat) : State :=
  if pc < 64 then { s with routine := some { r with pc := pc } } else s.endRoutine r 1 []

/-- One word of the routine in progress; without one there is nothing to run. -/
def routineOp (s : State) (f : Routine → State) : Result :=
  match s.routine with
  | some r => .next (f r)
  | none => .next s

/-- A word that writes xd and goes on. -/
def routineSet (s : State) (d : BitVec 3) (f : Routine → Dword) : Result :=
  routineOp s fun r => s.routineAt (r.put d (f r)) (r.pc + 1)

/-- end: statuses 0 and 8 to 15. -/
def execRoutineEnd (_d _a _b : BitVec 3) (i : BitVec 17) (s : State) : Result :=
  routineOp s fun r =>
    let st := i.toInt
    if st = 0 ∨ (8 ≤ st ∧ st ≤ 15) then s.endRoutine r st.toNat [(0, r.get 0), (1, r.get 1)] else s.endRoutine r 1 []

/-- A place that ld and st may name: aligned, in the thimble's own memory and in the page of the handle (R301). -/
def State.routinePlace (s : State) (r : Routine) (a : Dword) : Bool :=
  let n := a.toNat
  n % 8 == 0 && decide (r.packet.base.toNat ≤ n ∧ n + 8 ≤ r.packet.base.toNat + r.packet.size) &&
    (regionOf n == 0 || regionOf n == 1) && s.thimbleOf n == some (r.die, r.unit)

def execRoutineLd (d a _b : BitVec 3) (i : BitVec 17) (s : State) : Result :=
  routineOp s fun r =>
    let p := r.get a + i.signExtend 64
    let m := s.performed.mem
    if !s.routinePlace r p then s.endRoutine r 2 []
    else if s.lineBad m (lineOf p.toNat) then s.endRoutine r 7 []
    else s.routineAt (r.put d (dword m p.toNat)) (r.pc + 1)

def execRoutineSt (_d a b : BitVec 3) (i : BitVec 17) (s : State) : Result :=
  routineOp s fun r =>
    let p := r.get a + i.signExtend 64
    let w := [dwordCells p.toNat (r.get b)]
    if !s.routinePlace r p then s.endRoutine r 2 []
    else if s.inWipe p.toNat 8 then s.endRoutine r 7 []
    else if mergeFails s.mem w then (s.engineStore w []).endRoutine r 7 []
    else (s.engineStore w []).routineAt r (r.pc + 1)

/-- The cell that ldc and stc name. -/
def Routine.cell (r : Routine) (a : BitVec 3) (i : BitVec 17) : Nat :=
  cellAddr r.die r.unit ((r.get a + i.signExtend 64).toNat % 512)

def execRoutineLdc (d a _b : BitVec 3) (i : BitVec 17) (s : State) : Result :=
  routineSet s d fun r => dword s.performed.mem (r.cell a i)

def execRoutineStc (_d a b : BitVec 3) (i : BitVec 17) (s : State) : Result :=
  routineOp s fun r => (s.engineStore [dwordCells (r.cell a i) (r.get b)] []).routineAt r (r.pc + 1)

/-- A member of R86 in its 64-bit form. -/
def routineAlu (f : Member) (d a b : BitVec 3) (s : State) : Result :=
  routineSet s d fun r => aluResult f 0 (r.get a) (r.get b)

def execRoutineAdd (d a b : BitVec 3) (_i : BitVec 17) (s : State) : Result := routineAlu memAdd d a b s
def execRoutineSub (d a b : BitVec 3) (_i : BitVec 17) (s : State) : Result := routineAlu memSub d a b s
def execRoutineAnd (d a b : BitVec 3) (_i : BitVec 17) (s : State) : Result := routineAlu memAnd d a b s
def execRoutineOr (d a b : BitVec 3) (_i : BitVec 17) (s : State) : Result := routineAlu memOr d a b s
def execRoutineXor (d a b : BitVec 3) (_i : BitVec 17) (s : State) : Result := routineAlu memXor d a b s
def execRoutineMin (d a b : BitVec 3) (_i : BitVec 17) (s : State) : Result := routineAlu memMin d a b s
def execRoutineMax (d a b : BitVec 3) (_i : BitVec 17) (s : State) : Result := routineAlu memMax d a b s
def execRoutineMinn (d a b : BitVec 3) (_i : BitVec 17) (s : State) : Result := routineAlu memMinn d a b s
def execRoutineMaxn (d a b : BitVec 3) (_i : BitVec 17) (s : State) : Result := routineAlu memMaxn d a b s
def execRoutineShl (d a b : BitVec 3) (_i : BitVec 17) (s : State) : Result := routineAlu memShl d a b s
def execRoutineShr (d a b : BitVec 3) (_i : BitVec 17) (s : State) : Result := routineAlu memShr d a b s

def execRoutineAddi (d a _b : BitVec 3) (i : BitVec 17) (s : State) : Result :=
  routineSet s d fun r => r.get a + i.signExtend 64

def execRoutineMovi (d _a _b : BitVec 3) (i : BitVec 17) (s : State) : Result :=
  routineSet s d fun _ => i.signExtend 64

/-- A branch: n of 1 to 63 and a target up to word 63, whether or not its condition holds (R301). -/
def routineBranch (s : State) (i : BitVec 17) (c : Routine → Bool) : Result :=
  routineOp s fun r =>
    let n := i.toInt
    if n < 1 ∨ 63 < n ∨ 63 < r.pc + 1 + n.toNat then s.endRoutine r 1 []
    else s.routineAt r (if c r then r.pc + 1 + n.toNat else r.pc + 1)

def execRoutineBeq (_d a b : BitVec 3) (i : BitVec 17) (s : State) : Result :=
  routineBranch s i fun r => r.get a == r.get b
def execRoutineBne (_d a b : BitVec 3) (i : BitVec 17) (s : State) : Result :=
  routineBranch s i fun r => r.get a != r.get b
def execRoutineBlt (_d a b : BitVec 3) (i : BitVec 17) (s : State) : Result :=
  routineBranch s i fun r => (r.get a).slt (r.get b)
def execRoutineBltn (_d a b : BitVec 3) (i : BitVec 17) (s : State) : Result :=
  routineBranch s i fun r => (r.get a).ult (r.get b)

end Sys2Proof.Machine
end

