-- ==== Sys2Proof/Machine/Registers.lean ====
section
/-! DEFINITION. Writes of the die's control registers (R381): the plain registers, invalidation (R211, R212), multicast
control (R187), patrol scrubbers (R200), wipes (R201), the clause array's split word and windows (R333, R354). -/

namespace Sys2Proof.Machine

/-! ## Plain registers -/

/-- Bits lo to hi of a word are not all zero. -/
def fieldSet (w lo hi : Nat) : Bool := !zeroBits w lo hi

/-- A routing-weight word (R284). -/
def weightWrite (old v : Nat) : Nat :=
  if fieldSet v 21 31 || fieldSet v 8 15 then old
  else if 16 < v / 2 ^ 16 % 32 then v % 2 ^ 16 + 16 * 2 ^ 16 else v

/-- Rack selections: values above 2 are ignored (R291). -/
def State.writeRack (s : State) (off n v : Nat) : State :=
  (List.range n).foldl (fun s i =>
    let b := v / 2 ^ (8 * i) % 256
    if b ≤ 2 ∧ within (off + i) 0x320000 72 then s.putReg (off + i) [BitVec.ofNat 8 b] else s) s

/-- The owners that a reservation table gives the positions of a ring. -/
def State.tableBytes (s : State) (rack : Bool) : List Byte := (List.range 64).map fun i => BitVec.ofNat 8 (s.getReg (tableBase rack + i) 1)

/-- A station takes a table for a later frame (R285, R290). -/
def State.takeTable (s : State) (rack : Bool) (frame : Nat) (owners : List Byte) : State :=
  let t := (frame, cellsAt (tableBase rack) owners)
  let f := s.fabric
  { s with fabric := if rack then { f with rackTables := f.rackTables ++ [t] } else { f with tables := f.tables ++ [t] } }

/-- A reservation table: what is written in frame k takes effect at frame k + 2, at this station and at those to which position 0
carries it (R285, R290). -/
def State.writeTable (s : State) (off n v : Nat) : State :=
  let s := s.putReg off (leBytes n v)
  let rack := decide (tableBase true ≤ off)
  let k := s.ptime / 360 + 2
  (s.takeTable rack k (s.tableBytes rack)).emitOut (.system (.table rack k (s.tableBytes rack)))

/-- The interleave sets that follow from ownership: a die that one partition owns whole has one set (R185). -/
def wholeDie (die : BitVec 10) (part : Nat) : InterleaveSet :=
  { part := BitVec.ofNat 6 part, die := die, start := 0, size := 0x1800000000, channels := (List.range 64).map fun c => BitVec.ofNat 6 c,
    granule := 4096 }

/-- Owner of an HBM channel of this die. -/
def State.channelOwner (s : State) (c : Nat) : Nat := s.getReg (0x800004 + c) 1

/-- A wipe of a physical range: zeros from now on, and nothing reads it until the wipe ends (R201). -/
def State.wipeRange (s : State) (lo size : Nat) : State :=
  { s with
    mem := s.mem.wipe lo size, wipes := s.wipes ++ [(lo, size)],
    drains := s.drains.map fun g => { g with cells := g.cells.filter fun c => decide (c.1 < lo ∨ lo + size ≤ c.1) } }

/-- The partition that owns this die whole, every quad and channel of it. -/
def State.wholeOwner (s : State) : Option Nat :=
  let part := s.channelOwner 0
  if isPartition part && ((List.range 64).all fun c => s.channelOwner c == part) && (List.range 4).all fun q => s.quadOwner q == part then some part
  else none

/-- The sets of this die under its ownership: a die that one partition owns whole has one set; otherwise a set whose partition
still owns every channel of it stays (R185). -/
def State.setsNow (s : State) : List InterleaveSet :=
  match s.wholeOwner with
  | some part => [wholeDie s.id.die part]
  | none => s.reg6.sets.filter fun x => x.die == s.id.die && x.channels.all fun c => s.channelOwner c.toNat == x.part.toNat

/-- The interleave sets with those of this die as its ownership now has them. -/
def State.renewSets (s : State) : State :=
  { s with reg6 := { s.reg6 with sets := (s.reg6.sets.filter fun x => x.die != s.id.die) ++ s.setsNow } }

/-- The ownership table (R380): this core belongs to the owner of its quad. A vault and the ranges of an interleave set that a
partition gives back are wiped (R201). -/
def State.writeOwner (s : State) (off n v : Nat) : State :=
  let t := s.putReg off (leBytes n v)
  let gone := (List.range 4).filter fun q => s.quadOwner q != 63 && t.quadOwner q != s.quadOwner q
  let now := t.setsNow
  let lost := s.reg6.sets.filter fun x => x.die == s.id.die && !now.contains x
  let u := gone.foldl (fun (t : State) q => t.wipeRange (vaultBase s.ownDie q) (2 ^ 28)) t
  let u := lost.foldl (fun (t : State) x => t.wipeRange (physical 0 s.ownDie x.start) x.size) u
  { u with id := { u.id with part := BitVec.ofNat 6 (u.quadOwner u.ownQuad) } }.renewSets

/-- A group slot of this core, while its main context is stopped (R304). -/
def State.writeSlot (s : State) (n v : Nat) : State :=
  let g : GroupSlot :=
    { v := v / 2 ^ 63 % 2 == 1, ops := BitVec.ofNat 6 (v / 2 ^ 57), gid := BitVec.ofNat 11 (v / 2 ^ 46), rank := BitVec.ofNat 14 (v / 2 ^ 32),
      aseq := BitVec.ofNat 16 (v / 2 ^ 16), cseq := BitVec.ofNat 16 v }
  { s with core := { s.core with regs := s.core.regs.wg (BitVec.ofNat 5 n) g }, presets := { s.presets with g := setPut s.presets.g n } }

/-- A mailbox descriptor (R326): HEAD and TAIL are read only. -/
def State.writeMailbox (s : State) (off v : Nat) : State :=
  if off % 16 ≠ 0 || fieldSet v 40 46 || v % 64 != 0 then s
  else s.putReg off (leBytes 8 (s.getReg off 8 / 2 ^ 48 * 2 ^ 48 + v % 2 ^ 48))

/-- An address in memory that a partition owns: a vault of its quads, or one of its interleave sets (R174, R354). -/
def State.ownsAddress (s : State) (part a : Nat) : Bool :=
  match regionOf a with
  | 0 => isPartition part && (match s.setAt (dieOf a) (offsetOf a) with | some x => x.part.toNat == part | none => false)
  | 1 => decide (offsetOf a < 2 ^ 30) && s.ownsQuad part (dieOf a) (offsetOf a / 2 ^ 28)
  | _ => false

/-- A range that lies in memory that a partition owns, in one vault or one interleave set. -/
def State.ownsRange (s : State) (part a n : Nat) : Bool :=
  s.ownsAddress part a && s.ownsAddress part (a + n - 1) &&
    match regionOf a with
    | 0 => s.setAt (dieOf a) (offsetOf a) == s.setAt (dieOf (a + n - 1)) (offsetOf (a + n - 1))
    | _ => a / 2 ^ 28 == (a + n - 1) / 2 ^ 28

/-- The context port of this core (R174): written only while its main context is stopped. -/
def State.writePort (s : State) (k v : Nat) : State :=
  let p := s.port
  if !s.stopped then s.count 174
  else
    match k with
    | 0 => if v / 2 ^ 52 ≠ 0 then s else { s with port := { p with addr := BitVec.ofNat 52 v } }
    | 1 => { s with port := { p with accmask := BitVec.ofNat 64 v } }
    | 2 =>
      if fieldSet v 9 55 || p.busy then s
      else
        let dir := v / 2 ^ 56 % 2 == 1
        let t : State := { s with port := { p with restore := dir, sect := BitVec.ofNat 9 v } }
        if v / 2 ^ 63 = 1 then t.after (if dir then .contextRestore else .contextSave) else t
    | _ => s

/-- The step of a clause-window operation. -/
def windowEvent (i : BitVec 2) (op : Nat) : Ev :=
  match op with
  | 0 => .clauseWindowSave i | 1 => .clauseWindowRestore i | 2 => .clauseWindowRebind i | _ => .clauseWindowRelease i

def State.window (s : State) (i : Nat) : ClauseWindow :=
  s.clause.win.toArray.getD i { addr := 0, op := 0, core := 0, busy := false, done := false, err := 0, mine := false, since := 0, cycles := 0 }

def State.putWindow (s : State) (i : Nat) (w : ClauseWindow) : State :=
  { s with clause := { s.clause with win := s.clause.win.setIfInBounds i w } }

/-- A clause window (R354). -/
def State.writeWindow (s : State) (w : Writer) (i k v : Nat) : State :=
  let x := s.window i
  if k = 0 then (if v / 2 ^ 52 ≠ 0 then s else s.putWindow i { x with addr := BitVec.ofNat 52 v })
  else if k ≠ 1 || fieldSet v 0 50 || x.busy then s
  else
    let t := s.putWindow i { x with op := BitVec.ofNat 2 (v / 2 ^ 59), core := BitVec.ofNat 4 (v / 2 ^ 51), mine := w == .lining }
    if v / 2 ^ 63 = 1 then t.after (windowEvent (BitVec.ofNat 2 i) (v / 2 ^ 59 % 4)) else t

/-- The registers of a ring that may be written while it is not enabled (R362): base, length and read pointer. What it has
prefetched under others is dropped (log entry 69). -/
def CommandRing.write (r : CommandRing) (k v : Nat) : CommandRing :=
  if r.en then r
  else
    match k with
    | 0 => if v % 64 = 0 then { r with base := BitVec.ofNat 64 v, pre := [] } else r
    | 1 =>
      let n := v % 2 ^ 32
      if n = 2 ^ Nat.log2 n ∧ 1024 ≤ n ∧ n ≤ 2 ^ 20 then { r with size := BitVec.ofNat 32 n, pre := [] } else r
    | 2 => { r with rptr := BitVec.ofNat 32 v, pre := [] }
    | _ => r

def State.writeFe (s : State) (k v : Nat) : State :=
  let f := s.fe
  if k < 4 then { s with fe := { f with normal := f.normal.write k v } }
  else if k < 8 then { s with fe := { f with timed := f.timed.write (k - 4) v } }
  else s

/-- The invalidation word without GO (R212). -/
def State.writeInval (s : State) (k v : Nat) : State :=
  let i := s.inval
  if i.busy then s
  else if k = 0 then { s with inval := { i with vstart := BitVec.ofNat 64 v } }
  else { s with inval := { i with part := BitVec.ofNat 6 (v / 2 ^ 54), count := BitVec.ofNat 32 v } }

/-- The 32-bit words of a write of weights. -/
def State.writeWeights (s : State) (off n v : Nat) : State :=
  let word := fun (s : State) (o x : Nat) => s.putReg o (leBytes 4 (weightWrite (s.getReg o 4) (x % 2 ^ 32)))
  let base := off / 8 * 8
  let merged := s.mergedWord off n v
  let s := if off % 8 < 4 then word s base merged else s
  if 4 < off % 8 + n then word s (base + 4) (merged / 2 ^ 32) else s

/-- A write of n bytes to a register of region 6 (R381): discarded and counted where the writer may not write. A window of
another core is that core's (log entry 1). -/
def State.writeReg (s : State) (w : Writer) (off n v : Nat) : State :=
  let word := s.mergedWord off n v
  let here := off / 8 * 8
  if !s.mayWriteReg w s.id.part.toNat off then s.count 381
  else if frontEndOf s.id.part.toNat off then s.writeFe (off % 0x1000 / 8) word
  else if within off 0x210000 16 then s.writeInval (off % 16 / 8) word
  else if within off 0x300000 32 then s.writeWeights off n v
  else if within off 0x310000 0x1000 then s.writeTable off n v
  else if within off 0x320000 72 then s.writeRack off n v
  else if within off 0x400000 0x40000 then
    if within (off % 0x10000) 0x100 16 then s.writeWindow w ((off - 0x400000) / 0x10000) (off % 16 / 8) word else s
  else if within off 0x600000 0x2000 then
    if (off - 0x600000) / 0x200 = s.ownCore ∧ off % 0x200 < 0x100 ∧ s.stopped then s.writeSlot (off % 0x200 / 8) word else s
  else if within off 0x700000 0x400 then s.writeMailbox here word
  else if within off 0x800000 0x1000 then s.writeOwner off n v
  else if within off 0x900000 0x400 then
    if (off - 0x900000) / 0x40 = s.ownCore then s.writePort (off % 0x40 / 8) word else s
  else if within off 0x200000 0x400 then s.putReg off (leBytes n v)
  else s

def execRegisterWrite (w : Writer) (o : BitVec 24) (n : Nat) (v : BitVec 64) (s : State) : Result :=
  .next (s.writeReg w o.toNat n v.toNat)

/-! ## Invalidation (R211, R212) -/

/-- A handle drawn from a page that a virtual range touches, in this partition's space; the two that stage S1 installs, of size
code 3, come from no page (R182). -/
def Handle.drawnFrom (h : Handle) (lo size : Nat) : Bool :=
  h.valid && h.inst == 0 && h.ps != 3 &&
    decide (h.vbase.toNat < lo + size ∧ lo < h.vbase.toNat + spanSize h.ps)

/-- A multicast handle that names a core of a die. -/
def Handle.names (die k : Nat) (h : Handle) : Bool :=
  h.valid && regionOf h.pbase.toNat == 3 && dieOf h.pbase.toNat == die && h.mask.getLsbD k

/-- The handle copy that a command carries. -/
def CmdOp.handle? : CmdOp → Option Handle
  | .copyTile h _ _ => some h
  | .copyDesc _ h _ => some h
  | .thimble _ h _ _ => some h
  | .clause m _ h => if m = 1 ∨ m = 6 then some h else none
  | _ => none

def revokeHandle (f : Handle → Bool) (h : Handle) : Handle := if f h then { h with valid := false } else h

def revokeFlight (f : Handle → Bool) (x : Flight) : Flight :=
  match x.land with
  | .h d h => { x with land := .h d (revokeHandle f h) }
  | _ => x

/-- Step 2 of R211: V is cleared in the h registers of this core, in results on their way to them, and in the copies that
queued and held commands carry. -/
def State.revoke (s : State) (f : Handle → Bool) : State :=
  let cmd := fun (c : Cmd) => match c.op.handle? with
    | some h => if f h then { c with revoked := true } else c
    | none => c
  let s := s.mapRegs fun r => { r with h := r.h.map (revokeHandle f) }
  let c := s.core
  { s with
    core := { c with
      flights := c.flights.map (revokeFlight f), copyQ := c.copyQ.map cmd, outboxQ := c.outboxQ.map cmd, clauseQ := c.clauseQ.map cmd },
    lin := { s.lin with h := s.lin.h.map (revokeHandle f), flights := s.lin.flights.map (revokeFlight f) } }

/-- Physical ranges of the handles that a test takes. -/
def State.rangesOf (s : State) (f : Handle → Bool) : List (Nat × Nat) :=
  let cmds := (s.core.queued ++ s.running.map (·.cmd)).filterMap fun c => c.op.handle?
  ((s.core.regs.h.toList ++ s.lin.h.toList ++ cmds).filter f).map fun h => (h.pbase.toNat, spanSize h.ps)

/-- Steps 1 and 2 of an invalidation of a partition's range. -/
def State.beginInval (s : State) (part : BitVec 6) (lo size : Nat) : State :=
  let stale := fun (l : Leaf) => l.part == part && decide (l.vbase.toNat < lo + size ∧ lo < l.vbase.toNat + pageSize l.ps)
  let f := fun (h : Handle) => part == s.id.part && h.drawnFrom lo size
  let ranges := s.rangesOf f ++ ((s.xlate.core ++ s.xlate.die).filter stale).map fun l => (l.pbase.toNat, pageSize l.ps)
  let t := s.revoke f
  let keep := fun (l : Leaf) => !stale l
  { t with
    xlate := { t.xlate with core := t.xlate.core.filter keep, die := t.xlate.die.filter keep },
    inval := { t.inval with busy := true, done := false, refused := false, ranges := ranges } }

/-- A GO write of the second doubleword (R212): it starts the invalidation, or is refused; while BUSY is set it is ignored (DESIGN
CHOICE; log entry 79). -/
def State.invalidate (s : State) (w : Writer) (v : Nat) : State :=
  let i := s.inval
  let lo := i.vstart.toNat
  let count := v % 2 ^ 32
  let part := v / 2 ^ 54 % 64
  if i.busy then s
  else if fieldSet lo 57 63 || fieldSet lo 0 15 || fieldSet v 32 53 || count == 0 || decide (2 ^ 57 < lo + 2 ^ 16 * count) ||
      (w != .gpm && part != s.id.part.toNat) then
    { s with inval := { i with refused := true } }.count 212
  else
    { s with inval := { i with part := BitVec.ofNat 6 part, count := BitVec.ofNat 32 count } }.beginInval (BitVec.ofNat 6 part) lo
      (2 ^ 16 * count)

def execInvalidate (w : Writer) (v : BitVec 64) (s : State) : Result := .next (s.invalidate w v.toNat)

/-- Steps 3 and 4: what has no access in flight any more is complete; a closed multicast window reads MEN zero, and no
handle names its core (R187, R213). -/
def State.endInval (s : State) : State :=
  let s := if s.inval.busy && !s.inFlight s.inval.ranges then
    { s with inval := { s.inval with busy := false, done := true, ranges := [] } } else s
  let shut := s.closing.filter fun k => !s.castsTo k
  let s := shut.foldl (fun s k => (s.putReg (0xA00000 + k) [0]).revoke (Handle.names s.ownDie k)) s
  { s with closing := s.closing.filter fun k => !shut.contains k }

def execInvalidationComplete (s : State) : Result := .next s.endInval

/-! ## Multicast control (R187) -/

/-- A write of core k's control byte. Clearing MEN takes the handles that name the core; the byte reads with MEN set until
that is over. -/
def State.writeMen (s : State) (w : Writer) (k v : Nat) : State :=
  let off := 0xA00000 + k
  if !s.mayWriteReg w s.id.part.toNat off then s.count 381
  else if 2 ≤ v then s
  else if v = 1 then { s.putReg off [1] with closing := s.closing.filter (· != k) }
  else if s.getReg off 1 = 0 then s
  else { s.revoke (Handle.names s.ownDie k) with closing := setPut s.closing k }

def execMulticastControlWrite (w : Writer) (k : BitVec 4) (v : BitVec 8) (s : State) : Result := .next (s.writeMen w k.toNat v.toNat)

/-! ## Patrol scrubbers (R200) -/

def scrubReg (c : Nat) : Nat := 0x500000 + 8 * c

/-- A control word with its fields. -/
def scrubWord (en : Bool) (uncorr corr period : Nat) : Nat :=
  flagAt en 63 + min uncorr 0xFFFF * 2 ^ 32 + min corr 0xFFFF * 2 ^ 16 + period

/-- A write of a control word: EN and PERIOD are set, the counts cleared. -/
def State.writeScrub (s : State) (w : Writer) (c v : Nat) : State :=
  if !s.mayWriteReg w s.id.part.toNat (scrubReg c) then s.count 381
  else if fieldSet v 48 62 then s
  else s.putReg (scrubReg c) (leBytes 8 (scrubWord (v / 2 ^ 63 % 2 == 1) 0 0 (if v % 2 ^ 16 = 0 then 1 else v % 2 ^ 16)))

def execScrubberControlWrite (w : Writer) (c : BitVec 7) (v : BitVec 64) (s : State) : Result := .next (s.writeScrub w c.toNat v.toNat)

/-- Lines that a channel's interleave sets hold, by set and position of the channel in it (R185). -/
def State.channelShares (s : State) (c : Nat) : List (InterleaveSet × Nat) :=
  s.reg6.sets.filterMap fun x =>
    if x.die = s.id.die then (x.channels.findIdx? fun k => k.toNat == c).map fun j => (x, j) else none

def InterleaveSet.share (x : InterleaveSet) : Nat := x.size / x.channels.length / 64

/-- Line n of a channel's shares. -/
def lineIn : List (InterleaveSet × Nat) → Nat → Option Nat
  | [], _ => none
  | (x, j) :: r, n =>
    if n < x.share then
      let b := 64 * n
      some (x.start + (b / x.granule * x.channels.length + j) * x.granule + b % x.granule)
    else lineIn r (n - x.share)

/-- Lines of a scrubber's memory: a vault of 256 MiB, a channel of 1.5 GiB (R184). -/
def scrubLines (c : Nat) : Nat := if 64 ≤ c then 2 ^ 22 else 3 * 2 ^ 23

/-- Address of the line that a scrubber is at: none for one of a channel that lies in no interleave set. -/
def State.scrubPlace (s : State) (c : Nat) : Option Nat :=
  let n := s.scrub.toArray.getD c 0
  if 64 ≤ c then some (vaultBase s.ownDie (c - 64) + 64 * n)
  else (lineIn (s.channelShares c) n).map fun o => physical 0 s.ownDie o

/-- UNCORR and CORR of a scrubber grow. -/
def State.scrubCount (s : State) (c uncorr corr : Nat) : State :=
  let w := s.getReg (scrubReg c) 8
  s.putReg (scrubReg c) (leBytes 8 (scrubWord true (w / 2 ^ 32 % 2 ^ 16 + uncorr) (w / 2 ^ 16 % 2 ^ 16 + corr) (w % 2 ^ 16)))

/-- Lines that a scrubber poisons: each that was not poisoned yet is counted, and the lining is told. -/
def State.scrubPoison (s : State) (c : Nat) (lines : List Nat) (line : Nat) : State :=
  let fresh := lines.filter fun l => !s.mem.poison.contains l
  (({ s with mem := s.mem.mark lines } : State).scrubCount c fresh.length 0).liningEvent 5 (64 * line)

/-- The scrubber reads a line with some bit errors, and checks the granule that it completes. No address names a line that lies
in no interleave set: its mark stays unseen, and the line that the lining is told is a free value (log entry 1). -/
def State.scrubLine (s : State) (c errs : Nat) : State :=
  if s.getReg (scrubReg c) 8 / 2 ^ 63 = 0 then s
  else
    let n := s.scrub.toArray.getD c 0 + 1
    let t : State := { s with scrub := s.scrub.setIfInBounds c (if n < scrubLines c then n else 0) }
    let t := if errs = 1 then t.scrubCount c 0 1 else t
    match s.scrubPlace c with
    | none => if 2 ≤ errs then (t.scrubCount c 1 0).liningEvent 5 (64 * (s.freeWord (2 ^ 42) % 2 ^ 46)) else t
    | some a =>
      let line := lineOf a
      let t := if 2 ≤ errs then t.scrubPoison c [line] line else t
      if line % 4 = 3 ∧ t.mem.broken.contains (line / 4) then
        t.scrubPoison c [line - 3, line - 2, line - 1, line] (line - 3)
      else t

def execScrubLine (c : BitVec 7) (errs : Nat) (s : State) : Result := .next (s.scrubLine c.toNat errs)

/-! ## Wipes (R201) -/

/-- A transition of the life cycle takes effect, with what the table of R389 has beside it. -/
def Boot.changed (b : Boot) : Boot :=
  let done := { b with change := none }
  match b.change with
  | none => b
  | some (.provisioned, _) => { done with life := .provisioned, identity := some b.keys, keys := b.keys + 1 }
  | some (.deployed, key) => { done with life := .deployed, owner := some key, ctr := 0 }
  | some (.returned, _) => { done with life := .returned, owner := none, identity := none }
  | some (.blank, _) => done

/-- A wipe ends; a transition of the life cycle that waited for it takes effect (R389). -/
def execWipeComplete (s : State) : Result := .next { s with wipes := [], boot := s.boot.changed }

/-! ## The clause array (R333, R354) -/

def Binding.isHeld : Binding → Bool
  | .free => false
  | .resident => false
  | _ => true

/-- The GPM writes the split word while no instance is bound; a change of MODE wipes the array (R333). -/
def State.writeSplit (s : State) (w : Writer) (v : Nat) : State :=
  if !s.mayWriteReg w s.id.part.toNat 0x400000 then s.count 381
  else if fieldSet v 40 63 || fieldSet v 2 15 || v % 4 == 3 || s.clause.inst.toList.any fun x => x.binding.isHeld then s
  else
    let a := s.clause
    { s with clause := { a with
        split := BitVec.ofNat 64 v,
        inst := if v % 4 = s.clauseMode then a.inst else Vector.replicate 4 (ClauseInst.empty .free) } }

def execSplitWordWrite (w : Writer) (v : BitVec 64) (s : State) : Result := .next (s.writeSplit w v.toNat)

/-- Whether the main context of a core of this die is stopped: of another core that is a free value (log entry 1). -/
def State.coreStopped (s : State) (k : Nat) : Bool :=
  if k = s.ownCore then s.stopped else Config.freeBit (s.free * 2 ^ 64 + 2 ^ 53 + k)

/-- The job that holds a core of this die: of another core a free value (log entry 1). -/
def State.jobOf (s : State) (k : BitVec 4) : BitVec 16 :=
  if k = s.id.core then s.id.job else BitVec.ofNat 16 (s.freeWord (2 ^ 42 + 1 + k.toNat))

/-- A job has ended: this core's has not while it lives here; otherwise the model does not know, and the value is free (log
entry 1). -/
def State.jobEnded (s : State) (job : BitVec 16) : Bool :=
  !(job == s.id.job && s.jobLives) && Config.freeBit (s.free * 2 ^ 64 + 2 ^ 53 + 16)

/-- A core keeps no binding but that of an instance (R335). -/
def State.onlyBinding (s : State) (i : Nat) (k : BitVec 4) : State :=
  (List.range 4).foldl (fun s j =>
    let x := s.clauseInst j
    if j ≠ i ∧ (x.binding = .bound k ∨ x.binding = .failed k) then s.putInst j { x with binding := .free } else s) s

/-- The instances that hold the context of a job that has ended are wiped and free (R335, R353). -/
def State.endJob (s : State) (job : BitVec 16) : State :=
  (List.range 4).foldl (fun s j => if (s.clauseInst j).job = job then s.putInst j (ClauseInst.empty .free) else s) s

/-- What the operation of window i does to the instance, and its code (R354). -/
def State.windowEffect (s : State) (i : Nat) (w : ClauseWindow) : State × Nat :=
  let x := s.clauseInst i
  let part := s.clause.owner i
  let k := w.core
  let a := w.addr.toNat
  let mine := x.binding = .bound k ∨ x.binding = .failed k
  if !s.ownsCore part k.toNat || !s.coreStopped k.toNat then (s, 1)
  else if a % 64 ≠ 0 || !s.ownsRange part a (contextSize s.ncol) then (s, 6)
  else
    match w.op.toNat with
    | 0 =>
      if !mine then (s, 2)
      else
        let cells := x.image i s.ncol a
        if s.inWipe a (contextSize s.ncol) then (s, 7)
        else if mergeFails s.mem [cells] then (s.engineStore [cells] [], 7)
        else ((s.engineStore [cells] []).putInst i { x with binding := Binding.free }, 0)
    | 1 =>
      let size := contextSize s.ncol
      let s := if x.binding ≠ .free ∧ !mine then s else s.checkWhole (wholeGranules a size)
      let m := s.performed.mem
      if x.binding ≠ .free ∧ !mine then (s, 2)
      else if s.inWipe a size || m.poison.any fun l => decide (a / 64 ≤ l ∧ 64 * l < a + size) then (s, 7)
      else
        match readImage (fun b => m.byte (a + b)) s.ncol (.bound k) with
        | some y =>
          if leNat (m.bytes a 8) / 2 ^ 61 = 4 + sizeCode s.ncol then ((s.onlyBinding i k).putInst i { y with job := s.jobOf k }, 0)
          else (s, 4)
        | none => (s, 4)
    | 2 =>
      if x.binding = .resident then ((s.onlyBinding i k).putInst i { x with binding := Binding.bound k, job := s.jobOf k }, 0)
      else (s, 2)
    | _ => if x.binding = .resident ∧ s.jobEnded x.job then (s.putInst i (ClauseInst.empty .free), 0) else (s, 2)

/-- The core-clock cycles of a window operation that takes effect: those of the clause command that does the same (R352,
R354; log entry 34). -/
def State.windowCycles (s : State) (w : ClauseWindow) : Nat :=
  if 2 ≤ w.op.toNat then 20 else s.imageDelay w.addr.toNat + (contextSize s.ncol + 63) / 64 + 8

/-- GO of a clause window: its operation is under way (R354). -/
def State.startWindow (s : State) (i : BitVec 2) (op : BitVec 2) : State :=
  let x := s.window i.toNat
  let w : ClauseWindow := { x with op := op, busy := true, done := false, err := 0, since := s.clock }
  if x.busy then s
  else s.putWindow i.toNat { w with cycles := if (s.windowEffect i.toNat w).2 = 0 then s.windowCycles w else 0 }

def execClauseWindowSave (i : BitVec 2) (s : State) : Result := .next (s.startWindow i 0)
def execClauseWindowRestore (i : BitVec 2) (s : State) : Result := .next (s.startWindow i 1)
def execClauseWindowRebind (i : BitVec 2) (s : State) : Result := .next (s.startWindow i 2)
def execClauseWindowRelease (i : BitVec 2) (s : State) : Result := .next (s.startWindow i 3)

/-- A clause-window operation ends (R354): DONE is set, and event 8 goes to the lining of CORE, and for a save to that
which wrote GO. -/
def State.endWindow (s : State) (i : Nat) : State :=
  let w := s.window i
  if !w.busy then s
  else
    let r := s.windowEffect i w
    let t := r.1.putWindow i { w with busy := false, done := true, err := BitVec.ofNat 4 r.2 }
    if w.core = s.id.core ∨ (w.op = 0 ∧ w.mine) then t.liningEvent 8 (r.2 * 2 ^ 4 + i) else t

def execClauseWindowDone (i : BitVec 2) (s : State) : Result := .next (s.endWindow i.toNat)

end Sys2Proof.Machine
end

