-- ==== Sys2Proof/Machine/Fabric.lean ====
section
/-! DEFINITION. The ring station: arrivals (R282 to R287, R290, R291), flits and links (R288, R289), frames (R285), health and
death (R292, R293), and package time (R295). -/

namespace Sys2Proof.Machine

/-! ## Package time at this station (R295) -/

/-- The D0 station of the time master's package. -/
def State.isTimeMaster (s : State) : Bool := s.ownDie == 8 * s.time.master

/-- A correction in nanoseconds: a step forward up to stage S1, and a slew from S2 on. -/
def State.discipline (s : State) (offset : Int) : State :=
  if s.boot.stage = 2 then { s with time := { s.time with corr := offset * 9000000, holdover := false } }
  else { s with ptime := s.ptime + (offset * 9).toNat, time := { s.time with holdover := false } }

/-! ## What beacons and death reports do here (R292, R293) -/

/-- A beacon of another die is noted with its time. -/
def State.noteBeacon (s : State) (die : BitVec 10) : State :=
  { s with fabric := { s.fabric with seen := (s.fabric.seen.filter fun x => x.1 != die.toNat) ++ [(die.toNat, s.ptimeNs)] } }

/-- Running collectives of groups that named a core of the die fail with ERR 2 (R261). -/
def State.failGroups (s : State) : State :=
  s.running.foldl (fun t r =>
    match r.cmd.coll? with
    | some k => (match t.group k.gid with | some g => if g.broken then t.failCommand r 2 else t | none => t)
    | none => t) s

/-- Collectives of this core that are over, of a group that a death has just broken: whether another member still needed them,
so that they fail too, is a free value (R261; log entry 1). -/
def State.failOver (s : State) (gids : List Nat) : State :=
  if s.colls.any fun i => gids.contains i.gid && Config.freeBit (s.free * 2 ^ 64 + 2 ^ 53 + 64 + i.gid) then s.shuttleError 2 else s

/-- Packets to a dead die that have no answer end with UNREACH, and so does one whose user routine is in progress there. -/
def State.dropPackets (s : State) (die : Nat) : State :=
  let lost := s.packets.filter fun p => dieOf p.addr.toNat == die
  let t := lost.foldl (fun s p => s.replyTo p 3 []) { s with packets := s.packets.filter fun p => dieOf p.addr.toNat != die }
  match s.routine with
  | some r => if r.die = die then { t.replyTo r.packet 3 [] with routine := none } else t
  | none => t

/-- A death report reaches this station (R293), and goes on from it. -/
def State.reportDeath (s : State) (die : Nat) : State :=
  if s.deadDies.contains die then s
  else
    let s : State := { s with
      deadDies := s.deadDies ++ [die],
      fabric := { s.fabric with
        bounces := s.fabric.bounces.filter fun b => b.slot.ddie.toNat != die,
        waiting := s.fabric.waiting.filter fun p => slotGoal p != die } }
    let hit := (s.groups.filter fun g => !g.broken && g.members.any fun m => m.die.toNat == die).map (·.gid)
    let s := (((s.emitOut (.death (BitVec.ofNat 10 die))).buryMembers die).failGroups.failOver hit).dropPackets die
    if die / 8 = s.ownDie / 8 then
      let w := s.getReg (weightReg die) 4
      s.putReg (weightReg die) (leBytes 4 (w - w % 256))
    else s

/-! ## Arrival of a slot (R283, R287) -/

def unitValid (u : Nat) : Bool := decide (u ≤ 67) || decide (80 ≤ u ∧ u ≤ 96) || u == 127

/-- One packet, wherever it is. -/
def sameSlot (a b : RingSlot) : Bool :=
  a.sdie == b.sdie && a.score == b.score && a.ddie == b.ddie && a.dunit == b.dunit && a.seq == b.seq && a.typ == b.typ

/-- A slot came back: it goes out again after its backoff. -/
def State.bounced (s : State) (p : RingSlot) : State :=
  let old := s.fabric.bounces.find? fun b => sameSlot b.slot p
  let n := match old with | some b => b.n + 1 | none => 1
  let rest := s.fabric.bounces.filter fun b => !sameSlot b.slot p
  let due := s.clock + cyclesOf (40 * 2 ^ (min n 6 - 1))
  { s with fabric := { s.fabric with
      bounces := rest ++ [{ slot := { p with lap := false, bnc := false, via := p.ddie }, n := n, due := some due }] } }

/-- The next number that a source's slots to a unit bear (R272). -/
def State.nextSeq (s : State) (p : RingSlot) : BitVec 16 :=
  match s.fabric.seqs.find? (fun x => x.1 == p.sdie && x.2.1 == p.score && x.2.2.1 == p.dunit) with
  | some x => x.2.2.2
  | none => 0

def State.setSeq (s : State) (p : RingSlot) (n : BitVec 16) : State :=
  let f := s.fabric
  { s with fabric := { f with seqs :=
      (f.seqs.filter fun x => !(x.1 == p.sdie && x.2.1 == p.score && x.2.2.1 == p.dunit)) ++ [(p.sdie, p.score, p.dunit, n)] } }

/-- Slots that waited for an earlier one of their source follow it; there are at most `fuel`. -/
def State.takeEarly (s : State) (p : RingSlot) : Nat → State
  | 0 => s
  | fuel + 1 =>
    let n := s.nextSeq p
    match s.fabric.early.find? (fun q => q.sdie == p.sdie && q.score == p.score && q.dunit == p.dunit && q.seq == n) with
    | some q =>
      let t := { s with fabric := { s.fabric with early := s.fabric.early.erase q } }.setSeq p (n + 1)
      let t := match q.body with | .request k => { t with packets := t.packets ++ [k] } | _ => t
      t.takeEarly p fuel
    | none => s

/-- A thimble request enters its source's order, in a window of 64 numbers (R272). One outside it is a duplicate, or cannot
come from a source that sends only when the window has room for it (R287): it is dropped (DEDUCED; log entry 66). -/
def State.takeRequest (s : State) (p : RingSlot) : State :=
  if 64 ≤ (p.seq - s.nextSeq p).toNat then s
  else { s with fabric := { s.fabric with early := s.fabric.early ++ [p] } }.takeEarly p 64

/-- The tile of a collective that this core runs cannot take a part of it yet (R252). -/
def State.partRefused (s : State) (c : CollPart) : Bool :=
  s.running.any fun r => match r.cmd.coll? with
    | some k => k.gid == c.gid && k.cseq == c.cseq && !isReduce k.minor && r.cmd.writes.contains (k.target c.rank) &&
        !s.deliverable { tile := BitVec.ofNat 8 (k.target c.rank), ac := r.cmd.ac, own := some r.cmd.id, body := .nothing, failed := [], err := 0 }
    | none => false

/-- A destination that cannot take a slot at once (R287): a delivery to a tile that is not writable, a busy reduce buffer, or a
host-bound slot without credit. -/
def State.refuses (s : State) (p : RingSlot) : Bool :=
  match p.body, p.hops with
  | .coll c, _ => p.dunit.toNat == 80 + s.ownCore && !c.data.isEmpty && s.partRefused c
  | .move _ _, h :: _ => s.hopRefuses p h
  | .reduce _, h :: _ => s.hopRefuses p h
  | .host _ _, _ => !s.fabric.credit
  | _, _ => false

/-- A part of a collective, with the elements or lines of packets that failed their check (R252). -/
def checkedPart (p : RingSlot) (c : CollPart) : CollPart :=
  { c with failed := if isReduce c.minor.toNat then failedElems p else failedLines p }

/-- What position 0 brings: package time to a station that is not the time master's, a beacon, a death report or a table (R285,
R292, R295). -/
def State.takeSystem (s : State) (m : SystemMsg) : State :=
  match m with
  | .time ns => if s.isTimeMaster then s else s.discipline ((ns : Int) - s.ptimeNs)
  | .beacon d => s.noteBeacon d
  | .death d => s.reportDeath d.toNat
  | .table rack frame owners => s.takeTable rack frame owners
  | .master package => { s with time := { s.time with master := package } }
  | .returned ranges => (ranges.filter fun x => regionOf x.1 ≤ 1).foldl (fun s x => s.wipeRange x.1 x.2) s

/-- What a packet does at its destination. Units of other cores of the die are not this core's (log entry 1). -/
def State.deliverWhole (s : State) (p : RingSlot) : Result :=
  let here := p.dunit.toNat == 80 + s.ownCore
  match p.body with
  | .request _ => .next (s.takeRequest p)
  | .reply r => if here then execThimbleReply r s else .next s
  | .coll c => .next (if here || p.dunit == 96 then s.takePart (checkedPart p c) else s)
  | .move _ _ => .next (s.routeOn false p p.hops)
  | .reduce _ => .next (s.routeOn false p p.hops)
  | .contribute c => .next (s.contribute c)
  | .outcome o => if here then execAgreementOutcome o s else .next s
  | .join j => .next (s.join j)
  | .joined a => if here then execJoinReply a s else .next s
  | .hold gid h =>
    if here then execNotchHoldArrival h s
    else .next (match s.rooted gid with | some g => s.relayHold g h | none => s)
  | .host a bs =>
    let t := s.emitOut (.toHost a bs)
    .next { t with fabric := { t.fabric with credit := Config.freeBit (s.free * 2 ^ 64 + 2 ^ 52) } }
  | .system m => .next (s.takeSystem m)
  | .idle => .next s

/-- A slot of a packet joins those that came before it; the packet, once it is whole (R252, R283). -/
def State.assemble (s : State) (p : RingSlot) : State × Option RingSlot :=
  if p.cnt ≤ 1 then (s, some p)
  else
    let f := s.fabric
    let got := (f.parts.filter fun q => samePacket p q && q.idx != p.idx) ++ [p]
    let rest := f.parts.filter fun q => !samePacket p q
    let order := (List.range p.cnt).filterMap fun i => got.find? (·.idx == i)
    match order with
    | q :: r => if order.length = p.cnt then ({ s with fabric := { f with parts := rest } }, some (wholePacket q r))
      else ({ s with fabric := { f with parts := rest ++ got } }, none)
    | [] => (s, none)

/-- What a slot does at its destination: packets are delivered whole. -/
def State.deliver (s : State) (p : RingSlot) : Result :=
  match s.assemble p with
  | (t, some q) => t.deliverWhole q
  | (t, none) => .next t

/-- A slot that is refused stays on its ring for a lap, and then travels on to its source: along that ring while the source lies
on it, and otherwise by the legs of its way (R287, R291). -/
def State.sendBack (s : State) (p : RingSlot) : State :=
  let src := p.sdie.toNat
  if !p.lap then s.pass { p with lap := true }
  else if p.rack then s.pass { p with bnc := true, via := BitVec.ofNat 10 (src / 8 * 8 + s.ownDie % 8) }
  else if src / 8 = s.ownDie / 8 then s.pass { p with bnc := true, via := p.sdie }
  else s.depart { p with bnc := true, via := p.sdie }

/-- A slot arrives (R282, R283): it passes where it does not leave its ring, goes on from a bridge, comes back to its source, or
has reached its destination. A system slot acts at every station on its way, and package time crosses at the bridges (R295): onto a
package ring from the rack, and onto the rack from the ring of the time master's package. -/
def execRingSlotArrival (p : RingSlot) (s : State) : Result :=
  if p.typ = 0 then .next s
  else if 7 ≤ p.typ.toNat || !unitValid p.dunit.toNat then .next ((s.count 283).unreachable p.body)
  else
    match p.body with
    | .system m =>
      let t := if p.ddie = s.id.die then s.takeSystem m else (s.takeSystem m).pass p
      let crosses := match m with
        | .time _ => p.rack || (s.ownBridge && !s.isTimeMaster && s.ownDie / 8 == s.time.master)
        | _ => false
      .next (if crosses then t.emitOut (.system m) else t)
    | _ =>
      if p.via ≠ s.id.die then .next (s.pass p)
      else if slotGoal p ≠ s.ownDie then .next (s.depart p)
      else if p.bnc then .next (s.bounced p)
      else if s.refuses p then .next (s.sendBack p)
      else s.deliver p

/-! ## Bounced slots (R286, R287) -/

/-- A backoff is over: the slot goes out again, once its partition has a position. -/
def execBounceResend (n : Nat) (s : State) : Result :=
  match s.fabric.bounces.toArray[n]? with
  | none => .next s
  | some b =>
    if b.due.isNone then .next s
    else
      let t := { s with fabric := { s.fabric with bounces := s.fabric.bounces.set n { b with due := none } } }
      .next ((t.enter b.slot).getD s)

/-! ## Flits and links (R288, R289) -/

/-- A flit whose CRC fails: the sender replays from the one that is expected; that flit failing once and in eight replays in a row,
or more than 256 failures in 1 ms, fail the link. -/
def State.flitBad (s : State) (l : LinkId) (seq : Nat) : State :=
  let x := s.link (linkNum l)
  let errs := (x.errs.filter fun t => decide (s.ptimeNs < t + 1000000)) ++ [s.ptimeNs]
  let y : LinkState := { x with fails := if seq = x.expect then x.fails + 1 else x.fails, errs := errs }
  let t := (s.putLink (linkNum l) y).emitOut (.replay l x.expect)
  if 9 ≤ y.fails ∨ 256 < errs.length then t.after (.linkFail l) else t

/-- A flit whose CRC-32C over its 64 bytes holds (R288). -/
def flitOk (f : Flit) : Bool := crcOf (leBytes 64 f.data.toNat) == f.crc

/-- The far end has taken a flit, and those before it: they leave the retry buffer, a slot's when all five are taken, so that a slot
which a failed link leaves in part goes whole to another (DEDUCED; log entry 86). -/
def LinkState.acked (x : LinkState) (seq : Nat) : LinkState := { x with retry := x.retry.filter fun r => decide (seq < r.1 - r.2.1 + 4) }

/-- The far end asks for the flits again from one on: they go out once more, in order. -/
def State.replayFrom (s : State) (n seq : Nat) : State :=
  ((s.link n).retry.filter fun r => decide (seq ≤ r.1)).foldl (fun s r => s.emitOut (.flit n (flitOf r.1 r.2.2))) s

/-- The next flit of a link is good: it is acknowledged, and the fifth completes a slot, which arrives. -/
def State.flitGood (s : State) (l : LinkId) (f : Flit) : State :=
  let x := s.link (linkNum l)
  let got := x.got ++ [f.data]
  let full := decide (5 ≤ got.length)
  let y : LinkState := { x with expect := x.expect + 1, fails := 0, got := if full then [] else got }
  let t := (s.putLink (linkNum l) y).emitOut (.ack l f.seq)
  if full then t.after (.ringSlotArrival (slotFrom l got)) else t

/-- Something arrives on a link (R288): a flit, or the word of the far end about a flit sent from here. A flit that was taken
before is a duplicate, and one ahead of the next is not acknowledged. -/
def execFlitReceive (l : LinkId) (f : Flit) (s : State) : Result :=
  let n := linkNum l
  let x := s.link n
  if !x.up then .next s
  else
    match f.kind with
    | .ack => .next (s.putLink n (x.acked f.seq))
    | .replay => .next (s.replayFrom n f.seq)
    | .flit =>
      .next (if !flitOk f then s.flitBad l f.seq else if f.seq = x.expect then s.flitGood l f else s)

/-- A link's bit leaves CWL, or CCWL, of every routing-weight word. -/
def State.clearLinkBit (s : State) (n : Nat) : State :=
  let bit := if n < 4 then n + 4 else n - 4
  (List.range 8).foldl (fun s i =>
    let w := s.getReg (0x300000 + 4 * i) 4
    if w / 2 ^ bit % 2 = 1 then s.putReg (0x300000 + 4 * i) (leBytes 4 (w - 2 ^ bit)) else s) s

/-- Declares a die dead: the report reaches this station, from which it goes on in position 0 (R292). -/
def State.declareDead (s : State) (die : BitVec 10) : State :=
  if s.deadDies.contains die.toNat then s else s.onWire (s.clock + 1) (.deathReport die)

/-- The slots of a retry buffer: the flits of each. -/
def bufferedSlots : List (Nat × Nat × BitVec 512) → List (List (BitVec 512))
  | [] => []
  | r :: rest =>
    match bufferedSlots rest with
    | g :: gs => if rest.head?.any (fun x => x.2.1 = 0) then [r.2.2] :: g :: gs else (r.2.2 :: g) :: gs
    | [] => [[r.2.2]]

/-- The unacknowledged flits of a failed link go in order to the surviving links of its port, a slot whole to one link and slots
by turns; with no link left they stay in its buffer. What had come of a slot on the failed link comes again on another. -/
def State.moveFlits (s : State) (n : Nat) (alive : List Nat) : State :=
  let x := s.link n
  let t := s.putLink n { x with got := [] }
  if alive.isEmpty then t
  else
    let gs := bufferedSlots x.retry
    ((List.range gs.length).zip gs).foldl (fun s g => s.sendFlits (alive.getD (g.1 % alive.length) 0) g.2)
      (t.putLink n { x with got := [], retry := [] })

/-- A link fails (R289): its bit leaves the routing weights, its flits move, and the lining is told. A die whose package links
have all failed is dead (R292). -/
def State.failLink (s : State) (l : LinkId) : State :=
  let n := linkNum l
  let x := s.link n
  if !x.up then s
  else
    let s := (if l.rack then s else s.clearLinkBit n).putLink n { x with up := false }
    let alive := ((List.range 4).map (portBase l.rack l.east + ·)).filter fun i => (s.link i).up
    let s := (s.moveFlits n alive).liningEvent 2 ((if l.rack then 2 ^ 8 else 0) + (if l.east then 0 else 2 ^ 4) + l.idx.toNat)
    if (List.range 8).any fun i => (s.link i).up then s else s.declareDead s.id.die

def execLinkFail (l : LinkId) (s : State) : Result := .next (s.failLink l)

/-- A link is trained again; the lining sets its bits (R289). -/
def execLinkRetrained (l : LinkId) (s : State) : Result :=
  .next (s.putLink (linkNum l) { s.link (linkNum l) with up := true, fails := 0, got := [], errs := [] })

/-! ## Frames (R285) -/

/-- The table in force in a frame: the last one written for it, or for one before it. -/
def tableFor (k : Nat) (old : List Host.Cell) (l : List (Nat × List Host.Cell)) : List Host.Cell :=
  match (l.filter fun x => decide (x.1 ≤ k)).getLast? with | some x => x.2 | none => old

/-- Tables for later frames. -/
def tablesAfter (k : Nat) (l : List (Nat × List Host.Cell)) : List (Nat × List Host.Cell) := l.filter fun x => decide (k < x.1)

/-- A frame begins: tables written for it take effect, the time master sends package time in position 0 (R295), and slots that
wait here for a position try again. -/
def execFrameStart (s : State) : Result :=
  let f := s.fabric
  let k := s.ptime / 360
  let t : State := { s with fabric := { f with
    frame := k, used := [], table := tableFor k f.table f.tables, tables := tablesAfter k f.tables,
    rackTable := tableFor k f.rackTable f.rackTables, rackTables := tablesAfter k f.rackTables } }
  .next (if t.isTimeMaster then t.emitOut (.system (.time t.ptimeNs)) else t).departAll

/-! ## Health and death (R292, R293) -/

/-- A beacon: this die's own goes out; another's is noted with its time. -/
def execHealthBeacon (die : BitVec 10) (s : State) : Result :=
  if die = s.id.die then .next ({ s with fabric := { s.fabric with beat := s.ptime / 9000 } }.emitOut (.beacon die))
  else .next (s.noteBeacon die)

def execBeaconTimeout (die : BitVec 10) (s : State) : Result := .next (s.declareDead die)
def execFatalMachineError (die : BitVec 10) (s : State) : Result := .next (s.declareDead die)

def execDeathReport (die : BitVec 10) (s : State) : Result := .next (s.reportDeath die.toNat)

/-- The recovery reset that a dead die needs has completed: of a die of this package when a frame has reset it and the wipe of its
memories is over, of one elsewhere, which the frames of its own package reset, when the GPM says so by readmitting it. -/
def State.resetOver (s : State) (die : Nat) : Bool :=
  die / 8 != s.ownDie / 8 || (s.fabric.resets.contains die && !s.wipes.any fun w => decide (dieOf w.1 ≤ die ∧ die ≤ dieOf (w.1 + w.2 - 1)))

/-- The GPM readmits a die once a recovery reset of it has completed; it rejoins no group (R292). -/
def execDieReadmission (die : BitVec 10) (s : State) : Result :=
  let d := die.toNat
  let f := s.fabric
  .next (if !s.resetOver d then s
    else { s with
      deadDies := s.deadDies.filter (· != d),
      fabric := { f with
        resets := f.resets.filter (· != d), seen := (f.seen.filter fun x => x.1 != d) ++ (if (neighbours s.ownDie).contains d then [(d, s.ptimeNs)] else []) } })

/-! ## Package time (R295) -/

/-- PTP messages and the 1PPS input discipline the time master's D0 station alone. -/
def execPtpMessage (offset : Int) (s : State) : Result := .next (if s.isTimeMaster then s.discipline offset else s)
def execPpsInput (offset : Int) (s : State) : Result := .next (if s.isTimeMaster then s.discipline offset else s)

/-- The source is lost: time goes on at the last rate, and the health window reports it. -/
def execPtpSourceLoss (s : State) : Result := .next { s.count 295 with time := { s.time with holdover := true } }

/-! ## Posted writes -/

def execPostedWriteCredit (s : State) : Result := .next { s with fabric := { s.fabric with credit := true } }

end Sys2Proof.Machine
end

