-- ==== Sys2Proof/Machine/Copy.lean ====
section
/-! DEFINITION. The copy engine: major 0x24 (R242 to R246). -/

namespace Sys2Proof.Machine

/-! ## Descriptors (R243) -/

/-- A descriptor as the engine reads it: its 192 bytes as a number. -/
abbrev Desc := Nat

def Desc.field (d : Desc) (off size : Nat) : Nat := d / 2 ^ (8 * off) % 2 ^ (8 * size)
def Desc.src (d : Desc) : Nat := Desc.field d 0x00 8
def Desc.dst (d : Desc) : Nat := Desc.field d 0x08 8
def Desc.ctrl (d : Desc) : Nat := Desc.field d 0x10 4
def Desc.srck (d : Desc) : Bool := Desc.ctrl d % 2 == 1
def Desc.dstk (d : Desc) : Bool := Desc.ctrl d / 2 % 2 == 1
def Desc.size (d : Desc) : Nat := 2 ^ (Desc.ctrl d / 4 % 4)
def Desc.gen (d : Desc) : Bool := Desc.ctrl d / 16 % 2 == 1
def Desc.expgen (d : Desc) : Nat := Desc.field d 0x14 4
def Desc.genva (d : Desc) : Nat := Desc.field d 0x18 8
def Desc.count (d : Desc) (k : Nat) : Nat := Desc.field d (0x20 + 16 * k) 4
def Desc.stride (d : Desc) (k off : Nat) : Int := (BitVec.ofNat 32 (Desc.field d (0x20 + 16 * k + off) 4)).toInt
def Desc.sstr (d : Desc) (k : Nat) : Int := Desc.stride d k 4
def Desc.dstr (d : Desc) (k : Nat) : Int := Desc.stride d k 8
def Desc.pat (d : Desc) : Nat := Desc.field d 0x80 8
def Desc.idx (d : Desc) : Nat := Desc.field d 0x88 8
def Desc.nidx (d : Desc) : Nat := Desc.field d 0x90 4

/-- Members of major 0x24 by minor: 1 copy, 2 gather, 3 scatter, 4 fill, 5 check. -/
def hasIndex (minor : Nat) : Bool := minor == 2 || minor == 3
def usesSource (minor : Nat) : Bool := minor != 4
def usesTarget (minor : Nat) : Bool := minor != 5
def usesGen (minor : Nat) : Bool := minor == 2 || minor == 5

/-- Reserved fields are zero. -/
def Desc.reserved (d : Desc) : Bool :=
  Desc.ctrl d / 2 ^ 5 == 0 && ((List.range 6).all fun k => Desc.field d (0x2C + 16 * k) 4 == 0) &&
    Desc.field d 0x94 4 == 0 && Desc.field d 0xA0 32 == 0

/-- An element's places: source and destination (R244). -/
structure Elem2 where
  so : Int
  do_ : Int

/-- Sums of index times stride over dimensions 0 to k − 1, for every index, i0 varying fastest. -/
def Desc.inner (d : Desc) : Nat → List (Int × Int)
  | 0 => [(0, 0)]
  | k + 1 =>
    (List.range (Desc.count d k)).flatMap fun (i : Nat) =>
      (Desc.inner d k).map fun x => (x.1 + (i : Int) * Desc.sstr d k, x.2 + (i : Int) * Desc.dstr d k)

/-- The outermost index pairs (e5, f5) in order (R244). -/
def outer (minor : Nat) (d : Desc) (list : List Nat) : List (Nat × Nat) :=
  if minor = 2 then (list.zip (List.range list.length)).map fun x => (x.1, x.2)
  else if minor = 3 then ((List.range list.length).zip list).map fun x => (x.1, x.2)
  else (List.range (Desc.count d 5)).map fun i => (i, i)

/-- The elements of a command in order. -/
def Desc.elements (minor : Nat) (d : Desc) (list : List Nat) : List Elem2 :=
  let inner := Desc.inner d 5
  (outer minor d list).flatMap fun x =>
    inner.map fun y =>
      { so := Desc.src d + y.1 + x.1 * Desc.sstr d 5, do_ := Desc.dst d + y.2 + x.2 * Desc.dstr d 5 }

/-- An own-scratchpad element lies within 0 to 0x1F_FFFF. -/
def inPad (o : Int) (n : Nat) : Bool := decide (0 ≤ o ∧ o + n ≤ 0x200000)

/-- A multiple of the element size. -/
def aligned (x : Int) (n : Nat) : Bool := x % n == 0

/-- Tests of R245 that need no index list. -/
def Desc.shapeOk (minor : Nat) (d : Desc) : Bool :=
  let n := Desc.size d
  let counts := ((List.range 5).all fun k => Desc.count d k != 0) &&
    (if hasIndex minor then Desc.count d 5 == 0 else Desc.count d 5 != 0)
  let index := !hasIndex minor ||
    (Desc.nidx d != 0 && Desc.idx d % 4 == 0 && decide (Desc.idx d + 4 * Desc.nidx d ≤ 0x200000))
  let source := !usesSource minor ||
    (aligned (Desc.src d) n && (List.range 6).all fun k => aligned (Desc.sstr d k) n)
  let target := !usesTarget minor ||
    (aligned (Desc.dst d) n && (List.range 6).all fun k => aligned (Desc.dstr d k) n)
  let gen := !(usesGen minor && Desc.gen d) || Desc.genva d % 4 == 0
  Desc.reserved d && counts && index && source && target && gen

/-- Own-scratchpad addresses stay inside (R245). -/
def Desc.placesOk (minor : Nat) (d : Desc) (es : List Elem2) : Bool :=
  es.all fun e =>
    (!(usesSource minor && Desc.srck d) || inPad e.so (Desc.size d)) &&
      (!(usesTarget minor && Desc.dstk d) || inPad e.do_ (Desc.size d))

/-! ## Addresses -/

/-- A physical address for an element, or the STATUS code of its failure (R243, R245). Pages of regions that no
engine reaches are refused as a missing permission (DEDUCED; log entry 14), and a memory that is being wiped as a check
failure (R199, R201). -/
def State.enginePlace (s : State) (own : Bool) (o : Int) (p : Perm) : Nat ⊕ Nat :=
  if own then .inl (s.pad o.toNat)
  else
    let va := (BitVec.ofInt 64 o).toNat
    match s.engineLeaf va with
    | none => .inr 1
    | some l =>
      let ok := match p with
        | .r => l.rwam.getLsbD 3 | .w => l.rwam.getLsbD 2 | .a => l.rwam.getLsbD 1 | .m => l.rwam.getLsbD 0
      let a := l.pbase.toNat + (va - l.vbase.toNat)
      if !(ok && engineRegion a) then .inr 2 else if s.inWipe a 1 then .inr 3 else .inl a

/-! ## Moving -/

/-- Where an element goes (R244, R245): it moves between two physical addresses, a memory that is being wiped refuses it, or
it stops the command with a code and the address that failed. -/
inductive Place where
  | moves (e : Elem2) (src dst : Nat)
  | refused (a : Int)
  | stops (code : Nat) (a : Int)

def Place.fails (code : Nat) (a : Int) : Place := if code = 3 then .refused a else .stops code a

def State.placeElem (s : State) (minor : Nat) (d : Desc) (e : Elem2) : Place :=
  match (if usesSource minor then s.enginePlace (Desc.srck d) e.so .r else .inl 0) with
  | .inr c => .fails c e.so
  | .inl a =>
    if minor = 5 then .moves e a a
    else
      match s.enginePlace (Desc.dstk d) e.do_ .w with
      | .inr c => .fails c e.do_
      | .inl b => .moves e a b

/-- The elements before the one that stops the command, and how that one fails. -/
def untilStop : List Place → List Place × Option (Nat × Int)
  | [] => ([], none)
  | .stops c a :: _ => ([], some (c, a))
  | p :: r => (p :: (untilStop r).1, (untilStop r).2)

/-- Addresses of the n bytes that an element reads, and of those that it writes. -/
def Place.reads (n : Nat) : Place → List Nat
  | .moves _ a _ => (List.range n).map (a + ·)
  | _ => []

def Place.writes (n : Nat) : Place → List Nat
  | .moves _ _ b => (List.range n).map (b + ·)
  | _ => []

def touchesGranule (addrs : List Nat) (g : Nat) : Bool := addrs.any fun a => granuleOf a == g
def coversGranule (addrs : List Nat) (g : Nat) : Bool := (List.range 256).all fun i => addrs.contains (256 * g + i)
def granuleLines (gs : List Nat) : List Nat := gs.flatMap fun g => [4 * g, 4 * g + 1, 4 * g + 2, 4 * g + 3]

/-- How far a command has got: memory as it stood at the start, and as it stands now but for its own early bytes, with what its
elements have written; the addresses of that; the number of its next element; the cells it writes, the lines it poisons, and the
address of its first check failure. -/
structure Moving where
  old    : Memory
  mem    : Memory
  own    : List Nat
  num    : Nat
  cells  : List Host.Cell
  poison : List Nat
  first  : Option Int

def Moving.note (m : Moving) (a : Int) : Moving := { m with first := m.first.or (some a) }

def rangeBad (m : Memory) (a n : Nat) : Bool := (List.range n).any fun i => m.badAt (a + i)

/-- Which of its reads a command makes as memory stood at its start, by the element's number and the address, and the bytes that
took effect before its end (R194, R246; log entry 64). -/
structure Sight where
  early : Nat → Nat → Bool
  fixed : List Host.Cell

/-- The sight of a command at its start. -/
def Sight.start : Sight := { early := fun _ _ => true, fixed := [] }

/-- The memory in which the next element finds a byte: its own command's bytes as earlier elements wrote them (R244). -/
def Moving.sees (g : Sight) (m : Moving) (a : Nat) : Memory :=
  if m.own.contains a then m.mem else if g.early m.num a then m.old else m.mem

/-- The bytes that the next element reads, and whether one is poisoned. -/
def Moving.reads (g : Sight) (m : Moving) (a n : Nat) : List Byte := (List.range n).map fun i => (m.sees g (a + i)).byte (a + i)
def Moving.readsBad (g : Sight) (m : Moving) (a n : Nat) : Bool := (List.range n).any fun i => (m.sees g (a + i)).badAt (a + i)

/-- One element moves (R244), whole holding the granules that the command reads in whole and whose check fails, and lost
those where its merge fails (R199). -/
def moveElem (g : Sight) (minor : Nat) (d : Desc) (whole lost : List Nat) (m : Moving) (p : Place) : Moving :=
  match p with
  | .refused a => { m.note a with num := m.num + 1 }
  | .stops _ _ => m
  | .moves e a b =>
    let n := Desc.size d
    let srcBad := usesSource minor && (p.reads n).any fun x => whole.contains (granuleOf x)
    let m := if srcBad then m.note e.so else m
    if minor = 5 then { m with num := m.num + 1 }
    else
      let bytes := cellsAt b (if minor = 4 then leBytes n (Desc.pat d) else m.reads g a n)
      let cells := (bytes.filter fun c => !lost.contains (granuleOf c.1)).map fun c => (g.fixed.find? fun x => x.1 == c.1).getD c
      let bad := srcBad || (minor != 4 && m.readsBad g a n)
      let lines := if bad then dedup (cells.map fun c => lineOf c.1) else []
      let m := if cells.length < n then m.note e.do_ else m
      { m with num := m.num + 1, own := m.own ++ cells.map (·.1),
               mem := { m.mem with cells := cellsPutAll m.mem.cells cells, poison := lines.foldl setPut m.mem.poison },
               cells := m.cells ++ cellsAt b (cellsRead (cellsPutAll m.mem.cells cells) b n), poison := m.poison ++ lines }

/-- The granules whose bytes came, in order, from one whole granule of those whose check field fails: each is copied with its
check field (R198). -/
def carriedTo (ps : List Place) (n : Nat) (whole : List (Nat × Word)) : List (Nat × Word) :=
  let pairs := (ps.flatMap fun p => (p.writes n).zip (p.reads n)).reverse
  whole.flatMap fun g =>
    ((dedup ((pairs.filter fun x => x.2 == 256 * g.1).map fun x => granuleOf x.1)).filter fun h =>
      regionOf (256 * h) ≤ 1 &&
        (List.range 256).all fun i =>
          match pairs.find? fun x => x.1 == 256 * h + i with | some x => x.2 == 256 * g.1 + i | none => false).map fun h => (h, g.2)

/-- The words of 4 bytes of an index list. -/
def indexWords : Nat → List Byte → List Nat
  | 0, _ => []
  | n + 1, bs => leNat (bs.take 4) :: indexWords n (bs.drop 4)

/-! ## A descriptor form -/

/-- What the engine keeps of a descriptor from its start (R243; log entry 65): its 192 bytes, then the code of what is known
before any element moves (5 invalid; 1 to 4 how the first read at GENVA failed; 0 for none), then its index list. -/
structure Kept where
  desc  : Desc
  first : Nat
  list  : List Nat

def Kept.of (bs : List Byte) : Kept :=
  let d := leNat (bs.take 192)
  { desc := d, first := leNat ((bs.drop 192).take 1), list := indexWords (Desc.nidx d) (bs.drop 193) }

/-- A read of the word at GENVA, by its code: a failure of the read, a mismatch, or 0 (R244). -/
def State.genCode (s : State) (mem : Memory) (minor : Nat) (d : Desc) : Nat :=
  if !(usesGen minor && Desc.gen d) then 0
  else
    match s.enginePlace false (Desc.genva d) .r with
    | .inr c => c
    | .inl a => if leNat (mem.bytes a 4) = Desc.expgen d then 0 else 4

/-- The engine reads a descriptor as its command starts (R243 to R245). -/
def State.readDesc (s : State) (mem : Memory) (minor at_ : Nat) : List Byte :=
  let bs := mem.bytes at_ 192
  let d := leNat bs
  if !Desc.shapeOk minor d then bs ++ [5]
  else
    let list := if hasIndex minor then mem.bytes (s.pad (Desc.idx d)) (4 * Desc.nidx d) else []
    if !Desc.placesOk minor d (Desc.elements minor d (indexWords (Desc.nidx d) list)) then bs ++ [5]
    else bs ++ [BitVec.ofNat 8 (s.genCode mem minor d)] ++ list

/-- Virtual addresses that a descriptor form looks up, in order (R243). -/
def Kept.pages (k : Kept) (minor : Nat) : List Nat :=
  let d := k.desc
  if k.first = 5 then []
  else
    (if usesGen minor && Desc.gen d then [Desc.genva d] else []) ++
      (if k.first = 0 ∨ k.first = 4 then
        (Desc.elements minor d k.list).flatMap fun e =>
          (if usesSource minor && !Desc.srck d then [(BitVec.ofInt 64 e.so).toNat] else []) ++
            (if usesTarget minor && !Desc.dstk d then [(BitVec.ofInt 64 e.do_).toNat] else [])
      else [])

/-- What the elements of a descriptor form do on memory, as it stood at the start and as it stands (R244, R245, R198, R199): its
stores as one, so that a granule which it writes in whole takes no merge; the code and address are those of the first failure
(log entry 65). -/
def State.elemEffect (s : State) (old mem : Memory) (g : Sight) (minor : Nat) (k : Kept) : Effect :=
  let d := k.desc
  if k.first = 5 then { Effect.nothing with code := 5 }
  else if k.first ≠ 0 ∧ k.first ≠ 4 then { Effect.nothing with code := k.first, addr := BitVec.ofNat 64 (Desc.genva d) }
  else
    let n := Desc.size d
    let q := untilStop ((Desc.elements minor d k.list).map (s.placeElem minor d))
    let reads := q.1.flatMap (Place.reads n)
    let writes := if usesTarget minor then q.1.flatMap (Place.writes n) else []
    let whole := mem.broken.filter fun g => if minor = 5 then touchesGranule reads g else usesSource minor && coversGranule reads g
    let lost := mem.broken.filter fun g => touchesGranule writes g && !coversGranule writes g
    let m := q.1.foldl (moveElem g minor d whole lost) { old := old, mem := mem, own := [], num := 0, cells := [], poison := granuleLines whole, first := none }
    let fail := match m.first, q.2 with
      | some a, _ => (3, a)
      | none, some x => x
      | none, none => (0, 0)
    { Effect.nothing with
        stores := if m.cells.isEmpty then [] else [m.cells], poison := m.poison,
        broke := if minor = 4 ∨ minor = 5 then [] else carriedTo q.1 n (mem.fields.filter fun x => whole.contains x.1),
        code := fail.1, addr := BitVec.ofInt 64 fail.2 }

/-- The code and address that a descriptor form ends with, given the second read at GENVA (R244, R245). A generation mismatch
names no element: address 0. -/
def Kept.ending (k : Kept) (e : Effect) (second : Nat) : Nat × Nat :=
  let genva := Desc.genva k.desc
  if e.code ≠ 0 then (e.code, e.addr.toNat)
  else if second ≠ 0 ∧ second ≠ 4 then (second, genva)
  else if k.first = 4 ∨ second = 4 then (4, 0)
  else (0, 0)

/-- The status doubleword (R245). -/
def statusWord (x : Nat × Nat) : Nat := x.1 * 2 ^ 60 + x.2 % 2 ^ 57

/-! ## Commands -/

/-- The effect of a copy command on memory as it stood at the start and as it stands, from what it keeps of its descriptor (R242
to R246). -/
def State.copyEffect (s : State) (old mem : Memory) (g : Sight) (c : Cmd) (kept : List Byte) : Effect :=
  match c.op with
  | .copyTile h off n =>
    if c.revoked then { Effect.nothing with code := 2 }
    else
      let len := (s.tile n).footprint
      let a := h.pbase.toNat + off.toNat
      let b := s.tileBase n
      if s.inWipe a len then { Effect.nothing with code := 3 } else
      let bad := (wholeGranules a len).filter mem.broken.contains
      let m := (mem.check bad).1
      let sees := fun (x : Nat) => if g.early 0 x then old else mem
      let lines := (List.range (len / 64)).filter fun i => rangeBad m (a + 64 * i) 64
      { Effect.nothing with
          stores := [cellsAt b ((List.range len).map fun i => (sees (a + i)).byte (a + i))], poison := granuleLines bad ++ lines.map (b / 64 + ·),
          code := if bad.isEmpty then 0 else 3 }
  | .copyDesc minor _ _ => if c.revoked then { Effect.nothing with code := 2 } else s.elemEffect old mem g minor (Kept.of kept)
  | _ => Effect.nothing

/-- Where a descriptor lies, and the member. -/
def CmdOp.desc? : CmdOp → Option (Nat × Nat)
  | .copyDesc minor h off => some (minor, h.pbase.toNat + off.toNat)
  | _ => none

/-- What a copy command reads once, at its start. -/
def State.keptOf (s : State) (c : Cmd) : List Byte :=
  match c.op.desc? with
  | some (minor, at_) => if c.revoked then [] else s.readDesc s.performed.mem minor at_
  | none => []

/-- The pages that a command looks up. -/
def Cmd.pages (c : Cmd) (kept : List Byte) : List Nat :=
  match c.op.desc? with
  | some (minor, _) => if c.revoked then [] else (Kept.of kept).pages minor
  | none => []

/-- The copy engine starts the head of its queue; it may run every started command at once (R246). One whose walk must wait for
another starts later (R205). -/
def State.startCopy (s : State) : State :=
  match s.core.startable .copy with
  | none => s
  | some c =>
    let kept := s.keptOf c
    if s.walksWait (c.pages kept) then s
    else
      let m := s.performed.mem
      let r := { Running.begin c s.clock none (s.copyEffect m m Sight.start c kept) with kept := kept, seen := m }
      let s := ((s.takeHead .copy).startTiles c).lookPages (c.pages kept)
      { s with running := s.running ++ [r] }

/-- The sight of a command at its end: which reads it made as memory stood at its start is a free choice for each byte, up to an
element (R194, R246). -/
def State.sightOf (s : State) (r : Running) : Sight :=
  { early := fun num a =>
      decide (num < (Config.freeDword ((s.free * 2 ^ 10 + r.cmd.id % 2 ^ 10) * 2 ^ 128 + 2 ^ 127 + a)).toNat),
    fixed := r.eff.stores.flatten.filter fun c => r.flowed.contains c.1 }

/-- Memory without the early bytes of a command. -/
def State.memWithout (s : State) (r : Running) : Memory :=
  let m := s.performed.mem
  { m with cells := cellsPutAll m.cells (r.flowed.map fun a => (a, r.seen.byte a)) }

/-- The effect of a copy command at its end. One that failed as it started, or fails only now, may have met either. -/
def State.lastEffect (s : State) (r : Running) : Effect :=
  let e := s.copyEffect r.seen (s.memWithout r) (s.sightOf r) r.cmd r.kept
  if r.cmd.revoked || (r.flowed.isEmpty && e.code != r.eff.code && Config.freeBit (s.free * 2 ^ 64 + 2 ^ 61 + 2 ^ 59 + r.cmd.id)) then r.eff
  else e

/-- A check failure that an effect reports is counted (R199); a failing merge is where it is stored. -/
def State.countChecks (s : State) (e : Effect) : State := if e.code = 3 ∧ !mergeFails s.mem e.stores then s.count 199 else s

/-- Granules take a check field that fails (R198). -/
def State.carry (s : State) (gs : List (Nat × Word)) : State := { s with mem := { s.mem with fields := gs.foldl fieldPut s.mem.fields } }

/-- A descriptor form ends: after its last element the second read at GENVA, then STATUS, and with it the error bit of its
counter (R244 to R246). -/
def State.endDesc (s : State) (kept : List Byte) (e : Effect) (minor at_ : Nat) : State × Bool :=
  let k := Kept.of kept
  let second := if k.first = 0 ∨ k.first = 4 then s.genCode s.performed.mem minor k.desc else 0
  let x := k.ending e second
  (s.engineStore [cellsAt (at_ + 0x98) (leBytes 8 (statusWord x))] [], x.1 != 0)

/-- A copy command completes (R246): its bytes and STATUS have performed, its tile is ready, and then its counter
increases. -/
def State.completeCopy (s : State) (id : Nat) : State :=
  let s := s.flow
  match s.runningCmd id with
  | none => s
  | some r =>
    if r.cmd.engine ≠ .copy ∨ s.walksWait (r.cmd.pages r.kept) then s
    else
      let e := s.lastEffect r
      let t := ((s.countChecks e).engineStore (s.lastStores r e.stores) e.poison).carry e.broke
      let u := match r.cmd.op.desc? with
        | some (minor, at_) => if r.cmd.revoked then (t, true) else t.endDesc r.kept e minor at_
        | none => (t, e.code != 0)
      ((u.1.endTiles r.cmd).dropRunning id).arrive r.cmd.ac u.2

/-! ## Instructions (major 0x24) -/

/-- ce.copy into a tile: its footprint is read through the handle (R242). -/
def execCeCopyTile (t : BitVec 8) (h a : BitVec 4) (k : BitVec 6) (s : State) : Result :=
  plainOp s fun s =>
    let n := s.writeTile t
    let len := (s.tile n).footprint
    let o := (s.ra a).toNat
    let hd := s.rh h
    let s := s.claimWrite t
    match hd.fault o len [.r] with
    | some reason => s.handleFault h.toNat hd o reason .command
    | none =>
      if !engineRegion hd.pbase.toNat then s.illegalOperand (h.setWidth 64)
      else (s.noteSum none (hd.at o)).command k { noTiles with writes := [n] } (.copyTile hd (BitVec.ofNat 64 o) n)

/-- The descriptor forms: their 192-byte descriptor lies in the issuing core's scratchpad (R242). -/
def State.issueDesc (s : State) (minor : Nat) (h a : BitVec 4) (k : BitVec 6) : State :=
  let hd := s.rh h
  let o := (s.ra a).toNat
  if hd.valid && !s.isOwnScratch hd then s.illegalOperand (h.setWidth 64)
  else
    match hd.fault o 192 [.r, .w] with
    | some reason => s.handleFault h.toNat hd o reason .command
    | none =>
      if o % 64 ≠ 0 then s.illegalOperand (BitVec.ofNat 64 o)
      else (s.noteSum none (hd.at o)).command k noTiles (.copyDesc minor hd (BitVec.ofNat 64 o))

def execCeCopy (h a : BitVec 4) (k : BitVec 6) (s : State) : Result := plainOp s fun s => s.issueDesc 1 h a k
def execCeGath (h a : BitVec 4) (k : BitVec 6) (s : State) : Result := plainOp s fun s => s.issueDesc 2 h a k
def execCeScat (h a : BitVec 4) (k : BitVec 6) (s : State) : Result := plainOp s fun s => s.issueDesc 3 h a k
def execCeFill (h a : BitVec 4) (k : BitVec 6) (s : State) : Result := plainOp s fun s => s.issueDesc 4 h a k
def execCeChk (h a : BitVec 4) (k : BitVec 6) (s : State) : Result := plainOp s fun s => s.issueDesc 5 h a k

end Sys2Proof.Machine
end

