-- ==== Sys2Proof/Machine/Port.lean ====
section
/-! DEFINITION. The context port (R174): the sections that it moves between a stopped core and its save area (R173), the
form of handles (R214), and the end of a transfer. -/

namespace Sys2Proof.Machine

/-! ## Sections (R173) -/

/-- The order in which the port moves sections: tile entries before the rings that name them (log entry 22). -/
def sectionOrder : List Nat := [0, 1, 3, 2, 4, 5, 6, 7, 8]

/-- Bytes of a handle as a save writes it (R214). -/
def Handle.saved (h : Handle) : List Byte :=
  leBytes 8 h.vbase.toNat ++
    leBytes 8 (flagAt h.valid 63 + h.inst.toNat * 2 ^ 61 + h.ps.toNat * 2 ^ 59 + h.rwam.toNat * 2 ^ 55 + h.cls.toNat * 2 ^ 53 +
      h.gen.toNat * 2 ^ 37)

/-- A handle of a core on its own scratchpad, INST 1, or its quad's vault, INST 2 (R180, R208). -/
def State.installed (s : State) (inst : BitVec 2) : Handle :=
  { valid := true, inst := inst,
    pbase := BitVec.ofNat 52 (if inst = 1 then scratchBase s.ownDie s.ownCore else vaultBase s.ownDie s.ownQuad),
    ps := if inst = 1 then 1 else 3, rwam := 0xE, cls := 0, gen := 1, vbase := 0, mask := 0 }

/-- The masks of a cluster, m0 as it reads (R40), its vectors, the common vectors, and an accumulator tile, as bytes. -/
def clusterMasks (c : Cluster) : List Byte := (List.range 8).flatMap fun i => leBytes 256 (c.rm (BitVec.ofNat 3 i)).toNat
def clusterVectors (c : Cluster) : List Byte := c.v.toList.flatMap fun x => leBytes 2048 x.toNat

/-- What a save writes of a section but the last two: offset and bytes of each run. -/
def Regs.section_ (r : Regs) (n : Nat) : List (Nat × List Byte) :=
  match n with
  | 0 => [(0xD80, r.h.toList.flatMap Handle.saved)]
  | 1 => [(0xE80, r.g.toList.flatMap fun g => leBytes 8 g.word.toNat)]
  | 2 => [(0xF80, r.q.toList.flatMap fun q => leBytes 16 q.word)]
  | 3 => [(0x1000, r.t.toList.flatMap fun t => leBytes 16 t.word)]
  | 4 => (List.range 4).map fun k => (0x2000 + 0x800 * k, clusterMasks (r.cluster (Fin.ofNat 4 k)))
  | 5 => (List.range 4).map fun k => (0x4000 + 0x8000 * k, clusterVectors (r.cluster (Fin.ofNat 4 k)))
  | 6 => [(0x24000, r.w.toList.flatMap fun x => leBytes 2048 x.toNat)]
  | _ => []

/-- Tiles that ACCMASK names. -/
def ContextPort.tiles (p : ContextPort) : List Nat := (List.range 64).filter fun i => p.accmask.getLsbD i

/-- Offset and size of the runs of a section. -/
def ContextPort.runs (p : ContextPort) (n : Nat) : List (Nat × Nat) :=
  match n with
  | 7 => p.tiles.map fun i => (0x40000 + 0x10000 * i, 0x10000)
  | 8 => [(0x440000, 0x200000)]
  | _ => (Regs.reset.section_ n).map fun x => (x.1, x.2.length)

def ContextPort.chosen (p : ContextPort) : List Nat := sectionOrder.filter fun n => p.sect.getLsbD n

/-- Cycles of a transfer: 64 bytes in each, and the reply time of the first line of each section (R391). -/
def State.portCycles (s : State) : Nat :=
  s.port.chosen.foldl (fun t n => t + ((s.port.runs n).foldl (fun u x => u + x.2 / 64) (s.imageDelay s.port.addr.toNat))) 0

/-! ## Starting -/

/-- GO (R174). -/
def State.startPort (s : State) (restore : Bool) : State :=
  if s.port.busy then s
  else if !s.stopped then s.count 174
  else
    { s with port := { s.port with restore := restore, busy := true, done := false, err := 0, due := s.clock + s.portCycles } }

def execContextSave (s : State) : Result := .next (s.startPort false)
def execContextRestore (s : State) : Result := .next (s.startPort true)

/-! ## Moving -/

/-- Every committed store has performed. -/
def State.flushed (s : State) : State :=
  let t := s.flow
  { (t.seeEntries t.drains).landGates t.drains with drains := [] }

/-- A range of memory takes the bytes of another; neither is poisoned. -/
def Memory.copyRange (m : Memory) (src dst n : Nat) : Memory :=
  let w := m.wipe dst n
  let moved := (m.cells.filter fun c => decide (src ≤ c.1 ∧ c.1 < src + n)).map fun c => (c.1 - src + dst, c.2)
  { w with cells := cellsPutAll w.cells moved }

/-- Lines of an accumulator tile with a poisoned element. -/
def AccTile.badLines (z : AccTile) : List Nat := (List.range 1024).filter fun l => z.poison.extractLsb' (16 * l) 16 != 0

/-- A save of a section; the code of its failure. -/
def State.saveSection (s : State) (n : Nat) : State × Nat :=
  let a := s.port.addr.toNat
  if n = 8 then
    let src := s.pad 0
    if s.readFails src 0x200000 then (s, 3) else ({ s with mem := s.mem.copyRange src (a + 0x440000) 0x200000 }, 0)
  else if n = 7 then
    (s.port.tiles.foldl (fun s i =>
      let z := s.core.z.toArray.getD i ⟨0, 0⟩
      let b := a + 0x40000 + 0x10000 * i
      s.engineStore [cellsAt b (leBytes 0x10000 z.data.toNat)] (z.badLines.map (b / 64 + ·))) s, 0)
  else (s.engineStore ((s.core.regs.section_ n).map fun x => cellsAt (a + x.1) x.2) [], 0)

/-- The address that the restore of a saved handle translates (R214). -/
def rebuildPages (lo hi : Nat) : List Nat := if hi / 2 ^ 63 % 2 = 1 ∧ (hi / 2 ^ 61 % 4 = 0 ∨ hi / 2 ^ 61 % 4 = 3) then [lo] else []

/-- A saved handle as a restore rebuilds it, and whether its re-translation faulted (R214). A valid one with INST 3 is
re-translated as one with INST 0 is (DESIGN CHOICE; log entry 80). -/
def State.rebuild (s : State) (lo hi : Nat) : Handle × Bool :=
  let inst := BitVec.ofNat 2 (hi / 2 ^ 61)
  let h : Handle :=
    { valid := hi / 2 ^ 63 % 2 == 1, inst := inst, pbase := 0, ps := BitVec.ofNat 2 (hi / 2 ^ 59), rwam := BitVec.ofNat 4 (hi / 2 ^ 55),
      cls := BitVec.ofNat 2 (hi / 2 ^ 53), gen := BitVec.ofNat 16 (hi / 2 ^ 37), vbase := BitVec.ofNat 57 lo, mask := 0 }
  if !h.valid then (h, false)
  else if inst = 1 ∨ inst = 2 then ({ s.installed inst with gen := h.gen }, false)
  else
    match (s.engineLeaf lo).bind (s.handleOf s.id.part) with
    | none => ({ h with valid := false }, true)
    | some x => if x.ps = h.ps ∧ x.rwam = h.rwam then ({ x with gen := h.gen }, false) else ({ h with valid := false }, false)

def dwordOf (bs : List Byte) (i : Nat) : Nat := leNat ((bs.drop (8 * i)).take 8)

def State.setRegs (s : State) (f : Regs → Regs) : State := { s with core := { s.core with regs := f s.core.regs } }

def State.restoreHandles (s : State) (bs : List Byte) : State × Nat :=
  (List.range 16).foldl (fun r i =>
    let h := s.rebuild (dwordOf bs (2 * i)) (dwordOf bs (2 * i + 1))
    ((r.1.lookPages (rebuildPages (dwordOf bs (2 * i)) (dwordOf bs (2 * i + 1)))).setRegs fun x => x.wh (BitVec.ofNat 4 i) h.1,
      if h.2 then 4 else r.2)) (s, 0)

def State.restoreGroups (s : State) (bs : List Byte) : State :=
  (List.range 32).foldl (fun s i => s.writeSlot i (dwordOf bs i)) s

/-- A tile entry that R189 rejects is left empty. An entry of zeros is one that nothing has defined, and stays so (DESIGN CHOICE; log
entry 22). -/
def State.restoreTiles (s : State) (bs : List Byte) : State × Nat :=
  (List.range 256).foldl (fun r i =>
    let w := dwordOf bs (2 * i)
    let e := TileEntry.ofWord w
    let ok := dwordOf bs (2 * i + 1) == 0 && (w == 0 || zeroBits w 21 44 && e.legal)
    (r.1.setRegs fun x => x.wt (BitVec.ofNat 8 i) (if ok then e else ⟨0, 0, 0, 0, 0⟩), if ok then r.2 else 4)) (s, 0)

/-- A ring that R195 rejects is left empty. -/
def State.restoreRings (s : State) (bs : List Byte) : State × Nat :=
  (List.range 8).foldl (fun r i =>
    let w := dwordOf bs (2 * i)
    let q : RingEntry := { base := BitVec.ofNat 8 (w / 2 ^ 24), lenM1 := BitVec.ofNat 8 (w / 2 ^ 16), head := BitVec.ofNat 8 (w / 2 ^ 8), tail := BitVec.ofNat 8 w }
    let ok := dwordOf bs (2 * i + 1) == 0 && w / 2 ^ 32 == 0 && r.1.core.regs.ringLegal q
    (r.1.setRegs fun x => x.wq (BitVec.ofNat 3 i) (if ok then q else ⟨0, 0, 0, 0⟩), if ok then r.2 else 4)) (s, 0)

/-- Elements of n bytes. -/
def elemOf (bs : List Byte) (n i : Nat) : Nat := leNat ((bs.drop (n * i)).take n)

/-- A restore of a section from its bytes, run by run. -/
def State.restoreSection (u : State) (n : Nat) : State × Nat :=
  let a := u.port.addr.toNat
  let runs := u.port.runs n
  let s := u.checkWhole (runs.flatMap fun x => wholeGranules (a + x.1) x.2)
  if runs.any fun x => u.readFails (a + x.1) x.2 then (s, 3)
  else
    let run := fun (k : Nat) => match runs.toArray[k]? with | some x => s.mem.bytes (a + x.1) x.2 | none => []
    match n with
    | 0 => s.restoreHandles (run 0)
    | 1 => (s.restoreGroups (run 0), 0)
    | 2 => s.restoreRings (run 0)
    | 3 => s.restoreTiles (run 0)
    | 4 => (s.setRegs fun r => (List.range 4).foldl (fun r k =>
        (List.range 8).foldl (fun r i => r.setM (Fin.ofNat 4 k) (BitVec.ofNat 3 i) (BitVec.ofNat 2048 (elemOf (run k) 256 i))) r) r, 0)
    | 5 => (s.setRegs fun r => (List.range 4).foldl (fun r k =>
        (List.range 16).foldl (fun r i => r.wv (Fin.ofNat 4 k) (BitVec.ofNat 5 i) (BitVec.ofNat 16384 (elemOf (run k) 2048 i))) r) r, 0)
    | 6 => (s.setRegs fun r => (List.range 16).foldl (fun r i =>
        r.wv 0 (BitVec.ofNat 5 (16 + i)) (BitVec.ofNat 16384 (elemOf (run 0) 2048 i))) r, 0)
    | 7 => (((List.range s.port.tiles.length).zip s.port.tiles).foldl (fun s x =>
        { s with core := { s.core with z := s.core.z.setIfInBounds x.2 { data := BitVec.ofNat 524288 (leNat (run x.1)), poison := 0 } } }) s, 0)
    | _ => ({ s with mem := s.mem.copyRange (a + 0x440000) (s.pad 0) 0x200000 }, 0)

/-- The sections in order, until one fails (R174). -/
def State.movePort (s : State) : List Nat → State × Nat
  | [] => (s, 0)
  | n :: r =>
    let x := if s.port.restore then s.restoreSection n else s.saveSection n
    if x.2 = 0 then x.1.movePort r else x

/-- MBCn is TAIL − HEAD at a launch and after a restore (R326). -/
def State.countMail (s : State) : State :=
  s.setRegs fun r => { r with mbc := #v[0, 1, 2, 3].map fun n => BitVec.ofNat 16 (s.mailbox s.ownCore n).count }

/-- The save area lies in memory that the partition owns. -/
def State.saveAreaOk (s : State) : Bool :=
  let a := s.port.addr.toNat
  let part := s.id.part.toNat
  a % 0x1000 == 0 && s.ownsAddress part a && (s.port.chosen.flatMap s.port.runs).all fun x => s.ownsRange part (a + x.1) x.2

/-- A transfer ends (R174). A restore leaves the transposer's array cleared (R240) and SAT clear (R262). -/
def State.endPort (s : State) : State :=
  if !s.port.busy then s
  else
    let r : State × Nat :=
      if !s.saveAreaOk then (s, 1)
      else if !s.stopped then (s, 2)
      else if s.port.restore then
        let t := ((s.setRegs fun x => { x with xarr := 0, xwidth := 0 }).countMail).flushed
        ({ t with sys := { t.sys with shSat := false } } : State).movePort s.port.chosen
      else s.flushed.movePort s.port.chosen
    { r.1 with port := { r.1.port with busy := false, done := true, err := BitVec.ofNat 4 r.2 } }.liningEvent 7 r.2

def execContextPortDone (s : State) : Result := .next s.endPort

end Sys2Proof.Machine
end

