-- ==== Sys2Proof/Machine/Frontend.lean ====
section
/-! DEFINITION. The command front end: its registers (R362, R363), its commands (R364 to R374), launching (R369 to R372), its
errors (R375), and the host's reads and writes (R277). -/

namespace Sys2Proof.Machine

/-! ## Registers (R362, R363) -/

def State.setRing (s : State) (timed : Bool) (r : CommandRing) : State := { s with fe := s.fe.setRing timed r }

/-- NWPTR and TWPTR. -/
def execNwptrWrite (timed : Bool) (v : BitVec 32) (s : State) : Result :=
  .next (s.setRing timed { s.fe.ring timed with wptr := v })

/-- CLR: the ring of the error goes on after its failed top-level command. -/
def execFectlClr (s : State) : Result :=
  let f := s.fe
  if !f.err then .next s
  else
    let r := f.ring f.ering
    .next ({ s with fe := { f with err := false } }.setRing f.ering
      { r with rptr := r.rptr + BitVec.ofNat 32 r.skip, bufs := [], stopped := false, skip := 0, pre := [] })

/-- NEN and TEN: before S2 they stay zero. -/
def execFectlEnable (nen ten : Bool) (s : State) : Result :=
  let on := s.boot.stage == 2
  let f := s.fe
  .next { s with fe := { f with normal := { f.normal with en := nen && on }, timed := { f.timed with en := ten && on } } }

def execFestatWrite (s : State) : Result := .next { s with fe := { s.fe with latecnt := 0 } }

/-! ## Completing and failing (R364, R367, R375) -/

def State.interrupts (s : State) (n : Nat) : State := { s with outs := s.outs ++ List.replicate n Output.interrupt }

/-- A command of a ring completes. -/
def State.feDone (s : State) (h : FeHead) (words : Nat) : State :=
  let r := s.fe.ring h.timed
  let x := unwind r.bufs (words + 1)
  ((s.setRing h.timed
    { r with bufs := x.1, rptr := r.rptr + BitVec.ofNat 32 x.2.1, wait := none, pre := r.pre.drop (words + 1) }).interrupts
    (if h.flags.getLsbD 0 then 1 else 0)).interrupts x.2.2

/-- A command fails: its ring stops (R375). -/
def State.feError (s : State) (h : FeHead) (words code : Nat) : State :=
  let f := s.fe
  let r := f.ring h.timed
  let top := r.bufs.isEmpty
  let word : Word := match r.bufs with | [] => r.rptr | b :: _ => BitVec.ofNat 32 b.pos
  let g : FrontEnd := { f with
    err := true, ering := h.timed, code := BitVec.ofNat 4 code, depth := BitVec.ofNat 3 r.bufs.length, eword := word }
  let q : CommandRing := { r with wait := none, stopped := true, skip := if top then words + 1 else 4 }
  (({ s with fe := g.setRing h.timed q } : State).interrupts 1).count 375

/-- A command whose count is right runs; one that could not be read, or has a reserved flag or a wrong count, fails. -/
def feCommand (s : State) (h : FeHead) (ws : List Word) (count : Bool) (f : State → State) : Result :=
  if h.bad ≠ 0 then .next (s.feError h ws.length h.bad.toNat)
  else if 2 ≤ h.flags.toNat || !count then .next (s.feError h ws.length 2)
  else .next (f s)

/-- A command waits. -/
def State.feWaits (s : State) (h : FeHead) (words : Nat) (w : FeWait) (limit : Nat) : State :=
  let x : Waiting := { what := w, head := h, words := words, since := s.ptimeNs, limit := limit, polled := s.ptime / 9000 }
  s.setRing h.timed { s.fe.ring h.timed with wait := some x }

/-- Word i of a command, and an address of two words. -/
def wordNo (ws : List Word) (i : Nat) : Nat := (ws.getD i 0).toNat
def addressNo (ws : List Word) (i : Nat) : Nat := wordNo ws i + 2 ^ 32 * wordNo ws (i + 1)

/-- Bits 63:57 of an address are zero. -/
def addressOk (a : Nat) : Bool := decide (a < 2 ^ 57)

/-! ## Cores that a command names (R369) -/

def coresOf (mask : Nat) : List Nat := (List.range 16).filter fun k => mask.testBit k

/-- A core is armed for a timed release (R372). -/
def CommandRing.arms (r : CommandRing) (k : Nat) : Bool :=
  match r.wait with
  | some w => match w.what with | .release l => l.mask.getLsbD k | _ => false
  | none => false

/-- Never released since reset or teardown, or halted. Of another core that is a free value (log entry 1). -/
def State.coreReady (s : State) (k : Nat) : Bool :=
  if k = s.ownCore then (match s.status with | .notReleased => true | .halted => true | _ => false)
  else Config.freeBit (s.free * 2 ^ 64 + 2 ^ 51 + k)

/-- A core that no command may name: of another partition, or armed (R372). -/
def State.notNameable (s : State) (k : Nat) : Bool := !s.ownsCore s.id.part.toNat k || s.fe.normal.arms k || s.fe.timed.arms k

/-- The check of every named core: 0, or the error 4 or 5. -/
def State.checkCores (s : State) (mask : Nat) : Nat :=
  let ks := coresOf mask
  if ks.any fun k => s.notNameable k || !s.coreReady k then 4
  else if ks.any fun k => s.inWipe (scratchBase s.ownDie k) 0x200000 then 5
  else 0

/-- Runs a command on cores that pass the check. -/
def State.onCores (s : State) (h : FeHead) (ws : List Word) (mask : Nat) (f : State → State) : State :=
  match s.checkCores mask with
  | 0 => f s
  | c => s.feError h ws.length c

/-! ## Commands that move data -/

/-- NOP; any type that is not one of R365 raises error 1. -/
def execFeNop (h : FeHead) (ws : List (BitVec 32)) (s : State) : Result :=
  feCommand s h ws true fun s => if h.typ = 0 then s.feDone h ws.length else s.feError h ws.length 1

/-- Bytes of instruction memory of this core: area 0 the active half, 1 the idle half, 2 the resident area. -/
def State.loadImem (s : State) (area off : Nat) (bs : List Byte) : State :=
  let key := match area with | 0 => s.imem.key off | 1 => s.imem.istKey off | _ => s.imem.key (0x10000 + off)
  match key with
  | some k => { s with imem := s.imem.put k bs, core := { s.core with lbuf := [], loose := if area = 1 then [] else s.core.loose } }
  | none => s

def execLoadImem (h : FeHead) (ws : List (BitVec 32)) (s : State) : Result :=
  feCommand s h ws (ws.length == 5) fun s =>
    let mask := wordNo ws 0
    let dest := wordNo ws 1
    let area := dest / 2 ^ 30
    let off := dest % 2 ^ 17
    let va := addressNo ws 2
    let n := wordNo ws 4
    let size := if area = 2 then 0x2000 else 0x10000
    if 2 ^ 16 ≤ mask || fieldSet dest 17 29 || area == 3 || off % 16 != 0 || n % 16 != 0 || n == 0 || decide (size < off + n) ||
        !addressOk va then s.feError h ws.length 2
    else s.onCores h ws mask fun s =>
      let t := s.feTouch va n
      match s.feRead va n with
      | none => t.feError h ws.length 6
      | some bs => (if mask.testBit s.ownCore then t.loadImem area off bs else t).feDone h ws.length

def execPresetAc (h : FeHead) (ws : List (BitVec 32)) (s : State) : Result :=
  feCommand s h ws (3 ≤ ws.length && ws.length ≤ 66) fun s =>
    let mask := wordNo ws 0
    let first := wordNo ws 1
    let n := ws.length - 2
    if 2 ^ 16 ≤ mask || 64 ≤ first || decide (64 < first + n) then s.feError h ws.length 2
    else s.onCores h ws mask fun s =>
      let t := if !mask.testBit s.ownCore then s
        else (List.range n).foldl (fun (s : State) i =>
          { s.setRegs fun r => r.wac (BitVec.ofNat 6 (first + i)) ⟨ws.getD (2 + i) 0, false⟩ with
            presets := { s.presets with ac := setPut s.presets.ac (first + i) } }) s
      t.feDone h ws.length

/-- PRESET_HANDLE: as xlat, with GEN 1. -/
def execPresetHandle (h : FeHead) (ws : List (BitVec 32)) (s : State) : Result :=
  feCommand s h ws (ws.length == 4) fun s =>
    let mask := wordNo ws 0
    let n := wordNo ws 1
    let va := addressNo ws 2
    if 2 ^ 16 ≤ mask || decide (n < 2) || decide (16 ≤ n) || !addressOk va then s.feError h ws.length 2
    else s.onCores h ws mask fun s =>
      let u := s.feLook va 1
      match (s.engineLeaf va).bind (s.handleOf s.id.part) with
      | none => u.feError h ws.length 6
      | some x =>
        let t := if !mask.testBit s.ownCore then u
          else { u.setRegs fun r => r.wh (BitVec.ofNat 4 n) { x with gen := 1 } with presets := { s.presets with h := setPut s.presets.h n } }
        t.feDone h ws.length

/-- Data written at a virtual address, up to the first unit that fails: whether every one performed. -/
def State.feStore (s : State) (va : Nat) (bs : List Byte) : State × Bool :=
  (chunksOf va bs.length).foldl (fun r c =>
    if !r.2 then r
    else
      match r.1.fePlace c.1 true with
      | none => (r.1, false)
      | some a =>
        let w := [cellsAt a ((bs.drop (c.1 - va)).take c.2)]
        if r.1.inWipe a c.2 then (r.1, false) else (r.1.engineStore w [], !mergeFails r.1.mem w)) (s.feLook va bs.length, true)

def execFeWrite (h : FeHead) (ws : List (BitVec 32)) (s : State) : Result :=
  feCommand s h ws (4 ≤ ws.length && ws.length ≤ 4099) fun s =>
    let w := wordNo ws 0
    let n := ws.length - 3
    let bs := (ws.drop 3).flatMap fun x => leBytes 4 x.toNat
    if w / 2 ^ 31 = 1 then
      let mask := w % 2 ^ 31
      let off := wordNo ws 1
      if 2 ^ 16 ≤ mask || wordNo ws 2 != 0 || off % 4 != 0 || decide (off < 0x100) || decide (0x200000 < off + 4 * n) then s.feError h ws.length 2
      else s.onCores h ws mask fun s =>
        (s.engineStore ((coresOf mask).map fun k => cellsAt (scratchBase s.ownDie k + off) bs) []).feDone h ws.length
    else
      let va := addressNo ws 1
      if w ≠ 0 || !addressOk va then s.feError h ws.length 2
      else
        let r := s.feStore va bs
        if r.2 then r.1.feDone h ws.length else r.1.feError h ws.length 6

/-! ## Indirect buffers (R367) -/

def execCallIb (h : FeHead) (ws : List (BitVec 32)) (s : State) : Result :=
  feCommand s h ws (ws.length == 3) fun s =>
    let va := addressNo ws 0
    let n := wordNo ws 2
    let r := s.fe.ring h.timed
    if va % 4 != 0 || !addressOk va || n == 0 || decide (2 ^ 20 < n) then s.feError h ws.length 2
    else if 4 ≤ r.bufs.length then s.feError h ws.length 3
    else s.setRing h.timed
      { r with bufs := { va := BitVec.ofNat 64 va, len := n, pos := 0, flags := h.flags } :: r.bufs, pre := r.pre.drop 4 }

/-- RETURN: the rest of its buffer is left. -/
def execFeReturn (h : FeHead) (ws : List (BitVec 32)) (s : State) : Result :=
  feCommand s h ws ws.isEmpty fun s =>
    let r := s.fe.ring h.timed
    match r.bufs with
    | [] => s.feError h 0 3
    | b :: rest => (s.setRing h.timed { r with bufs := { b with pos := b.len } :: rest }).feDone h 0

/-! ## Waiting (R374) -/

/-- Every core of a mask is halted; of another core that is a free value (log entry 1). -/
def State.allHalted (s : State) (mask : Nat) : Bool :=
  (coresOf mask).all fun k => if k = s.ownCore then s.status == .halted else Config.freeBit (s.free * 2 ^ 64 + 2 ^ 50 + k)

/-- What a WAIT finds now: whether its condition holds, none when its word cannot be read. -/
def State.waitHolds (s : State) (w : FeWait) : Option Bool :=
  match w with
  | .cores m => some (s.allHalted m.toNat)
  | .word va eq v =>
    (s.feRead va.toNat 4).map fun bs => if eq then leNat bs == v.toNat else decide (v.toNat ≤ leNat bs)
  | _ => some false

/-- A WAIT completes, fails, or waits on. -/
def State.tryWait (u : State) (h : FeHead) (words : Nat) (w : FeWait) (since limit : Nat) : State :=
  let s := match w with | .word va _ _ => u.feTouch va.toNat 4 | _ => u
  match u.waitHolds w with
  | none => s.feError h words 6
  | some true => s.feDone h words
  | some false =>
    let x : Waiting := { what := w, head := h, words := words, since := since, limit := limit, polled := s.ptime / 9000 }
    s.setRing h.timed { s.fe.ring h.timed with wait := some x }

def execFeWait (h : FeHead) (ws : List (BitVec 32)) (s : State) : Result :=
  feCommand s h ws (ws.length == 5) fun s =>
    let mode := wordNo ws 0
    let v := wordNo ws 1
    let va := addressNo ws 2
    if 3 ≤ mode || !addressOk va || (mode == 0 && (va != 0 || 2 ^ 16 ≤ v)) then s.feError h ws.length 2
    else if mode = 0 ∧ (coresOf v).any s.notNameable then s.feError h ws.length 4
    else
      let w : FeWait := if mode = 0 then .cores (BitVec.ofNat 16 v) else .word (BitVec.ofNat 64 va) (mode == 2) (BitVec.ofNat 32 v)
      s.tryWait h ws.length w s.ptimeNs (wordNo ws 4)

def execWaitPoll (timed : Bool) (s : State) : Result :=
  match (s.fe.ring timed).wait with
  | some w =>
    match w.what with
    | .cores _ => .next (s.tryWait w.head w.words w.what w.since w.limit)
    | .word _ _ _ => .next (s.tryWait w.head w.words w.what w.since w.limit)
    | _ => .next s
  | none => .next s

/-- A WAIT or BARRIER has lasted its time. -/
def execFeTimeout (timed : Bool) (s : State) : Result :=
  match (s.fe.ring timed).wait with
  | some w => .next (if w.limit = 0 then s else s.feError w.head w.words 7)
  | none => .next s

/-! ## POST (R328, R374) -/

/-- The packet of a POST (R328). -/
def State.postPacket (s : State) (target : Word) (payload : List Word) : Packet :=
  let base := BitVec.ofNat 52 (vaultBase (target.toNat / 2 ^ 6 % 2 ^ 10) (target.toNat / 2 ^ 4 % 4))
  let data := (List.range 7).map fun i => BitVec.ofNat 64 ((payload.getD (2 * i) 0).toNat + 2 ^ 32 * (payload.getD (2 * i + 1) 0).toNat)
  { id := 0, sdie := s.id.die, score := 0, part := s.id.part, op := 10, addr := base, base := base, size := 2 ^ 28, cls := 0,
    ctl := BitVec.ofNat 64 (target.toNat % 2 ^ 16 + frontEndMark), data := data }

/-- The answer to a POST: FULL makes it wait, ILLEGAL and UNREACH are error 4. -/
def State.postAnswered (s : State) (h : FeHead) (words : Nat) (target : Word) (payload : List Word) (code : Nat) : State :=
  match code with
  | 0 => s.feDone h words
  | 4 => s.feWaits h words (.post target payload) 0
  | 7 => s.feError h words 6
  | _ => s.feError h words 4

/-- A POST is tried. One for another die leaves as a ring slot, and waits while no position of its partition arrives empty
(R286). -/
def State.tryPost (s : State) (h : FeHead) (words : Nat) (target : Word) (payload : List Word) : State :=
  let die := target.toNat / 2 ^ 6 % 2 ^ 10
  let p := s.postPacket target payload
  let entry := fun (t : State) =>
    let r := t.postPacketEntry p
    r.1.postAnswered h words target payload r.2
  if s.deadDies.contains die then s.feError h words 4
  else if die = s.ownDie ∨ 576 ≤ die then entry s
  else
    let q := s.packetSlot p
    if (s.nextLeg q).isNone then s.feError h words 4
    else
      match (s.stepSeq q.score q.ddie q.dunit q.cnt).enter q with
      | none => s.postAnswered h words target payload 4
      | some t => entry t

def execFePost (h : FeHead) (ws : List (BitVec 32)) (s : State) : Result :=
  feCommand s h ws (ws.length == 15) fun s =>
    if 2 ^ 16 ≤ wordNo ws 0 then s.feError h ws.length 2 else s.tryPost h ws.length (ws.getD 0 0) (ws.drop 1)

def execPostRetry (timed : Bool) (s : State) : Result :=
  match (s.fe.ring timed).wait with
  | some w => match w.what with | .post t p => .next (s.tryPost w.head w.words t p) | _ => .next s
  | none => .next s

/-! ## BARRIER (R374) -/

/-- Front ends that have reached a barrier meet this one's: it completes, waits, or does not match. -/
def execFeBarrier (h : FeHead) (ws : List (BitVec 32)) (s : State) : Result :=
  feCommand s h ws (ws.length == 3) fun s =>
    let id := wordNo ws 0
    let n := wordNo ws 1
    let f := s.fe
    let here := f.barriers.filter fun b => b.1.toNat == id
    let rest := f.barriers.filter fun b => b.1.toNat != id
    if 2 ^ 8 ≤ id || decide (n < 2) || decide (576 < n) then s.feError h ws.length 2
    else if here.any fun b => b.2 != n then { s with fe := { f with barriers := rest } }.feError h ws.length 9
    else if n ≤ here.length + 1 then { s with fe := { f with barriers := rest ++ here.drop (n - 1) } }.feDone h ws.length
    else
      { s with fe := { f with barriers := rest } }.feWaits h ws.length (.barrier (BitVec.ofNat 8 id) n (here.length + 1)) (wordNo ws 2)

/-- A ring waits at a barrier: what it waits for, with N and how many have met. -/
def CommandRing.atBarrier (r : CommandRing) (id : BitVec 8) : Option (Waiting × Nat × Nat) :=
  match r.wait with
  | some w => match w.what with | .barrier i n m => if i = id then some (w, n, m) else none | _ => none
  | none => none

/-- Another front end reaches a barrier with N. -/
def execBarrierArrival (id : BitVec 8) (n : Nat) (s : State) : Result :=
  let meet := fun (timed : Bool) (w : Waiting) (k m : Nat) =>
    if k ≠ n then s.feError w.head w.words 9
    else if k ≤ m + 1 then s.feDone w.head w.words
    else s.setRing timed { s.fe.ring timed with wait := some { w with what := .barrier id k (m + 1) } }
  match s.fe.timed.atBarrier id with
  | some (w, k, m) => .next (meet true w k m)
  | none =>
    match s.fe.normal.atBarrier id with
    | some (w, k, m) => .next (meet false w k m)
    | none => .next { s with fe := { s.fe with barriers := s.fe.barriers ++ [(id, n)] } }

/-! ## Launching (R370 to R372) -/

/-- Tile presets: none where one breaks the limits. -/
def tilePresets (bs : List Byte) (n : Nat) : Option (List (BitVec 8 × TileEntry)) :=
  (List.range n).foldl (fun acc i =>
    let k := dwordOf bs (2 * i)
    let w := dwordOf bs (2 * i + 1)
    let e := TileEntry.ofWord w
    match acc with
    | none => none
    | some l =>
      if decide (k < 256) && zeroBits w 62 63 && zeroBits w 21 44 && e.legal && !l.any fun x => x.1.toNat == k then
        some (l ++ [(BitVec.ofNat 8 k, e)]) else none) (some [])

/-- Ring presets over the tile table that the record leaves. -/
def ringPresets (r : Regs) (bs : List Byte) (n : Nat) : Option (List (BitVec 3 × RingEntry)) :=
  (List.range n).foldl (fun acc i =>
    let k := dwordOf bs (2 * i)
    let w := dwordOf bs (2 * i + 1)
    let q : RingEntry := { base := BitVec.ofNat 8 (w / 2 ^ 24), lenM1 := BitVec.ofNat 8 (w / 2 ^ 16), head := 0, tail := 0 }
    match acc with
    | none => none
    | some l =>
      if decide (k < 8) && w / 2 ^ 32 == 0 && w % 2 ^ 16 == 0 && r.ringLegal q && !l.any fun x => x.1.toNat == k then
        some (l ++ [(BitVec.ofNat 3 k, q)]) else none) (some [])

def Regs.withTiles (r : Regs) (l : List (BitVec 8 × TileEntry)) : Regs := l.foldl (fun r x => r.wt x.1 x.2) r
def Regs.withRings (r : Regs) (l : List (BitVec 3 × RingEntry)) : Regs := l.foldl (fun r x => r.wq x.1 x.2) r

/-- Seam descriptors whose reserved bits are zero and whose level exists (R171). -/
def seamTable (bs : List Byte) (n : Nat) : Option (List (BitVec 128)) :=
  let l := (List.range n).map fun i => BitVec.ofNat 128 (leNat ((bs.drop (16 * i)).take 16))
  if l.all fun e => e.toNat % 2 ^ 10 == 0 && (!e.getLsbD 13 || decide (e.toNat / 2 ^ 10 % 8 < 6)) then some l else none

/-- The launch record at an address (R370), or the error 6 or 8. -/
def State.readRecord (s : State) (va : Nat) : LaunchRecord ⊕ Nat :=
  match s.feRead va 0x20 with
  | none => .inr 6
  | some hd =>
    let half := fun (o : Nat) => leNat ((hd.drop o).take 2)
    let entry := leNat (hd.take 4)
    let nt := half 8
    let nr := half 10
    let ns := half 12
    let tab := dwordOf hd 2
    if entry % 16 ≠ 0 ∨ !fetchable entry ∨ 256 < nt ∨ 8 < nr ∨ half 14 ≠ 0 ∨ dwordOf hd 3 ≠ 0 ∨ (ns ≠ 0 ∧ tab % 16 ≠ 0) then .inr 8
    else
      match s.feRead (va + 0x20) (16 * nt), s.feRead (va + 0x20 + 16 * nt) (16 * nr), s.feRead tab (16 * ns) with
      | some tb, some rb, some sb =>
        match tilePresets tb nt with
        | none => .inr 8
        | some tiles =>
          match ringPresets (Regs.reset.withTiles tiles) rb nr, seamTable sb ns with
          | some rings, some seams =>
            .inl { entry := BitVec.ofNat 17 entry, prm := BitVec.ofNat 32 (leNat ((hd.drop 4).take 4)), tiles := tiles, rings := rings, seams := seams }
          | _, _ => .inr 8
      | _, _, _ => .inr 6

/-- GSLOTS of a core's launch block (R371). The group slots of another core are a free value (log entry 1). -/
def State.launchSlots (s : State) (k : Nat) : Nat :=
  if k = s.ownCore then ((List.range 32).filter fun n => (s.core.regs.rg (BitVec.ofNat 5 n)).v && s.presets.g.contains n).foldl (fun a n => a + 2 ^ n) 0
  else s.freeWord (2 ^ 55 + k) % 2 ^ 32

/-- The launch block of a core that is released at a package time (R371). -/
def State.launchBlock (s : State) (l : Launch) (k time : Nat) (late : Bool) : List Byte :=
  let below := ((coresOf l.mask.toNat).filter fun j => decide (j < k)).length
  leBytes 4 (l.base.toNat + below) ++ leBytes 4 l.ncores.toNat ++ leBytes 4 s.ownDie ++ leBytes 4 k ++ leBytes 8 l.rec_.prm.toNat ++
    leBytes 8 (s.launchSlots k) ++ leBytes 8 time ++ leBytes 4 (flagAt late 0) ++ List.replicate 0xD4 0

/-- The registers of this core at its release (R40, R371). -/
def State.releaseRegs (s : State) (rec_ : LaunchRecord) : Regs :=
  let old := s.core.regs
  let p := s.presets
  let ac := (List.range 64).foldl (fun r k => if p.ac.contains k then r.wac (BitVec.ofNat 6 k) (old.rac (BitVec.ofNat 6 k)) else r) Regs.reset
  let h := (List.range 16).foldl (fun r k => if p.h.contains k then r.wh (BitVec.ofNat 4 k) (old.rh (BitVec.ofNat 4 k)) else r) ac
  let g := (List.range 32).foldl (fun r k => if p.g.contains k then r.wg (BitVec.ofNat 5 k) (old.rg (BitVec.ofNat 5 k)) else r) h
  let r := (((g.wh 0 (s.installed 1)).wh 1 (s.installed 2)).withTiles rec_.tiles).withRings rec_.rings
  { r with
    pc := rec_.entry,
    mbc := #v[0, 1, 2, 3].map fun n => BitVec.ofNat 16 (s.mailbox s.ownCore n).count }

/-- A command that is still running loses its hold on tiles: their busy bits are clear at a release (R189). -/
def Cmd.detached (c : Cmd) : Cmd := { c with reads := [], pops := [], writes := [], z := none }

/-- The job that a launch gives this core has a free number; the context of the one before it is wiped once that has ended
(R335, R353; log entry 67). -/
def State.newJob (s : State) : State :=
  let old := s.id.job
  let job := BitVec.ofNat 16 (s.freeWord (2 ^ 43))
  let t := if job != old && s.jobEnded old then s.endJob old else s
  { t with id := { t.id with job := job } }

/-- The release of this core (R371). The marks of ist writes that no ifence has covered (R97) and multicast stores on their way
(R188) are no registers, and stay. -/
def State.releaseCore (u : State) (rec_ : LaunchRecord) : State :=
  let s := u.newJob
  let r := s.releaseRegs rec_
  let c : Core := { Core.reset with
    regs := r, panel := some (newPanel rec_.entry r), loose := s.core.loose, mcast := s.core.mcast, nextId := s.core.nextId }
  { s with
    core := c, save := c, ctx := .main, status := .running, rewind := none,
    hold := Hold.start 0 s.liningWaits,
    sys := { SysRegs.reset with inject := s.sys.inject, clErr := s.sys.clErr, seams := rec_.seams },
    running := s.running.map fun x => { x with cmd := x.cmd.detached },
    xlate := { s.xlate with walks := s.xlate.walks.filter (·.lining) },
    presets := ⟨[], [], []⟩ }

/-- Group numbers of the slots that the lining of a core has installed since its last release; those of another core are free
values (log entry 1). -/
def State.launchGroups (s : State) (k : Nat) : List Nat :=
  let slots := s.launchSlots k
  ((List.range 32).filter fun n => slots.testBit n).map fun n =>
    if k = s.ownCore then (s.core.regs.rg (BitVec.ofNat 5 n)).gid.toNat else s.freeWord (2 ^ 55 + 2 ^ 10 + 32 * k + n) % 2 ^ 11

/-- The GPM installs the descriptors of a launch's groups; none where an image breaks the limits (R305; log entry 68). -/
def State.installGroups (s : State) (mask : Nat) : Option State :=
  ((coresOf mask).flatMap fun k => (s.launchGroups k).map fun g => (k, g)).foldl
    (fun r x => r.bind fun t => t.joinLaunch x.1 x.2) (some s)

/-- The launch blocks of a set of cores that are released at a package time: before the release (R371, R372). -/
def State.writeBlocks (s : State) (l : Launch) (time : Nat) (late : Bool) : State :=
  s.engineStore ((coresOf l.mask.toNat).map fun k => cellsAt (scratchBase s.ownDie k) (s.launchBlock l k time late)) []

/-- The release of a set of cores, all in this cycle: this core, if it is named. -/
def State.release (s : State) (l : Launch) : State := if l.mask.getLsbD s.ownCore then s.releaseCore l.rec_ else s

/-- What reading a launch record leaves behind. -/
def State.touchRecord (s : State) (va : Nat) : State :=
  let t := s.feTouch va 0x20
  match s.feRead va 0x20 with
  | none => t
  | some hd =>
    let half := fun (o : Nat) => leNat ((hd.drop o).take 2)
    let u := t.feTouch (va + 0x20) (16 * half 8 + 16 * half 10)
    if half 12 = 0 then u else u.feTouch (dwordOf hd 2) (16 * half 12)

/-- RELEASE and TIMED_RELEASE up to the release: the fields, the cores, the record, and the groups. -/
def State.prepare (s : State) (h : FeHead) (ws : List Word) (time : Nat) (f : State → Launch → State) : State :=
  let mask := wordNo ws 0 % 2 ^ 16
  let base := wordNo ws 0 / 2 ^ 16
  let va := addressNo ws 2
  if !addressOk va || decide (wordNo ws 1 < base + (coresOf mask).length) then s.feError h ws.length 2
  else s.onCores h ws mask fun s =>
    let t := s.touchRecord va
    match s.readRecord va with
    | .inr c => t.feError h ws.length c
    | .inl r =>
      match t.installGroups mask with
      | none => t.feError h ws.length 8
      | some u => f u { mask := BitVec.ofNat 16 mask, base := BitVec.ofNat 16 base, ncores := ws.getD 1 0, time := time, rec_ := r }

def execFeRelease (h : FeHead) (ws : List (BitVec 32)) (s : State) : Result :=
  feCommand s h ws (ws.length == 4) fun s => s.prepare h ws 0 fun s l => ((s.writeBlocks l s.ptimeNs false).release l).feDone h ws.length

/-- TIMED_RELEASE: it writes the launch blocks and arms the cores, or releases them at once when T has passed (R372). The release
takes place in the first cycle whose PTIME is T, so T is the RTIME of the block. -/
def execTimedRelease (h : FeHead) (ws : List (BitVec 32)) (s : State) : Result :=
  feCommand s h ws (ws.length == 6) fun s =>
    let time := addressNo ws 4
    s.prepare h ws time fun s l =>
      if time ≤ s.ptimeNs then
        let t := (s.writeBlocks l s.ptimeNs true).release l
        let n := t.fe.latecnt
        { t with fe := { t.fe with latecnt := if n = 0xFFFF then n else n + 1 } }.feDone h ws.length
      else (s.writeBlocks l time false).feWaits h ws.length (.release l) 0

/-- A ring whose cores are armed for a time that has come releases them. -/
def State.fire (s : State) (timed : Bool) : State :=
  match (s.fe.ring timed).wait with
  | some w =>
    match w.what with
    | .release l => if l.time ≤ s.ptimeNs then (s.release l).feDone w.head w.words else s
    | _ => s
  | none => s

def execTimedReleaseFire (s : State) : Result := .next ((s.fire true).fire false)

/-! ## The host (R199, R201, R277) -/

/-- The host's function may reach memory that its partition owns. -/
def State.hostReaches (s : State) (a : Nat) : Bool :=
  match regionOf a with
  | 2 => decide (offsetOf a < 2 ^ 25) && s.ownsQuad s.id.part.toNat (dieOf a) (offsetOf a / 2 ^ 23)
  | _ => s.ownsAddress s.id.part.toNat a

/-- Pieces of a range that stay inside aligned doublewords: address and length. -/
def dwordPieces (a n : Nat) : List (Nat × Nat) :=
  (List.range (n / 8 + 2)).filterMap fun i =>
    let lo := max a (a / 8 * 8 + 8 * i)
    let hi := min (a + n) (a / 8 * 8 + 8 * i + 8)
    if lo < hi then some (lo, hi - lo) else none

/-- A posted write of the host arrives and performs, in registers before anything that arrives after it (R277). The registers of
another die are not state of this one (log entry 1). -/
def State.hostWrite (s : State) (a : Nat) (bs : List Byte) : State :=
  match regionOf a with
  | 6 =>
    if dieOf a ≠ s.ownDie then s
    else if 2 ^ 24 ≤ offsetOf a + bs.length then s.count 381
    else { s with agenda := ((dwordPieces (offsetOf a) bs.length).flatMap fun x =>
        s.regEvents .host x.1 x.2 (leNat ((bs.drop (x.1 - offsetOf a)).take x.2))) ++ s.agenda }
  | 5 => s.count 296
  | _ =>
    let w := [cellsAt a bs]
    if !s.hostReaches a || !s.hostReaches (a + bs.length - 1) then s.count 381
    else if s.inWipe a bs.length then s.count 199
    else s.engineStore w []

def execHostPostedWrite (a : BitVec 52) (bs : List (BitVec 8)) (s : State) : Result := .next (s.hostWrite a.toNat bs)

/-- A read of what the host may not reach: zeros, counted (R381). -/
def State.refuseRead (s : State) (a n : Nat) : State :=
  let t := s.count 381
  { t with outs := t.outs ++ [.hostData (BitVec.ofNat 52 a) (some (List.replicate n 0))] }

/-- What the host reads of the registers of another die: free values where it may read, zeros elsewhere, which that die counts
(R381; log entry 1). -/
def State.farRead (s : State) (a n : Nat) : List Byte :=
  (List.range n).map fun i => if s.mayReadReg .host s.id.part.toNat (offsetOf a + i) then freeByte s.free (2 ^ 61 + a + i) else 0

/-- A read of the host: its bytes, none on an error. -/
def State.hostReads (s : State) (a n : Nat) : State :=
  match regionOf a with
  | 6 =>
    if dieOf a ≠ s.ownDie then { s with outs := s.outs ++ [.hostData (BitVec.ofNat 52 a) (some (s.farRead a n))] }
    else if 2 ^ 24 ≤ offsetOf a + n then s.refuseRead a n
    else
      let r := (dwordPieces (offsetOf a) n).foldl (fun r x => let q := r.1.readReg .host x.1 x.2; (q.1, r.2 ++ q.2)) (s, ([] : List Byte))
      { r.1 with outs := r.1.outs ++ [.hostData (BitVec.ofNat 52 a) (some r.2)] }
  | _ =>
    if !s.hostReaches a || !s.hostReaches (a + n - 1) then
      s.refuseRead a n
    else if s.readFails a n then
      let t := if s.inWipe a n then s.count 199 else s.checkWhole (wholeGranules a n)
      { t with outs := t.outs ++ [.hostData (BitVec.ofNat 52 a) none] }
    else { s with outs := s.outs ++ [.hostData (BitVec.ofNat 52 a) (some (s.performed.mem.bytes a n))] }

def execHostRead (a : BitVec 52) (n : Nat) (s : State) : Result := .next (s.hostReads a.toNat n)

end Sys2Proof.Machine
end

