-- ==== Sys2Proof/Machine/Sha256.lean ====
section
/-! DEFINITION. SHA-256 (FIPS 180-4), which measurements and signatures use (R383 to R385). Its constants are computed from the
primes that the standard names. -/

namespace Sys2Proof.Machine

/-! ## Constants -/

/-- The first 64 primes, those below 312: a composite number among them has a divisor of at most 17. -/
def shaPrimes : List Nat :=
  (List.range 312).filter fun n => decide (2 ≤ n) && ([2, 3, 5, 7, 11, 13, 17] : List Nat).all fun d => decide (n ≤ d) || n % d != 0

/-- The integer root of degree k of n, when r is the part already found of it and b binary digits remain. -/
def rootFrom (k n : Nat) : Nat → Nat → Nat
  | 0, r => r
  | b + 1, r => rootFrom k n b (if (r + 2 ^ b) ^ k ≤ n then r + 2 ^ b else r)

/-- The first 32 bits of the fraction of a prime's root of degree k. -/
def rootFraction (k p : Nat) : Word := BitVec.ofNat 32 (rootFrom k (p * 2 ^ (32 * k)) 36 0)

/-- What each of the 64 rounds adds, and the hash of no blocks. -/
def roundConstants : List Word := shaPrimes.map (rootFraction 3)
def hashStart : List Word := (shaPrimes.take 8).map (rootFraction 2)

/-! ## Compression -/

/-- The exclusive or of a word's right rotations. -/
def rotations (by_ : List Nat) (x : Word) : Word := by_.foldl (fun r n => r ^^^ x.rotateRight n) 0

/-- A block under way: the last four values of each of the two working sequences, newest first, and the sixteen words of the
message schedule that come next. -/
structure ShaBlock where
  upper : List Word
  lower : List Word
  words : List Word

def nth (l : List Word) (i : Nat) : Word := l.getD i 0

/-- A round. -/
def ShaBlock.round (b : ShaBlock) (k : Word) : ShaBlock :=
  let u := nth b.upper
  let l := nth b.lower
  let w := nth b.words
  let mix := l 3 + rotations [6, 11, 25] (l 0) + (l 2 ^^^ (l 0 &&& (l 1 ^^^ l 2))) + k + w 0
  let vote := (u 0 &&& (u 1 ||| u 2)) ||| (u 1 &&& u 2)
  let next := w 0 + (rotations [7, 18] (w 1) ^^^ w 1 >>> 3) + w 9 + (rotations [17, 19] (w 14) ^^^ w 14 >>> 10)
  { upper := (mix + rotations [2, 13, 22] (u 0) + vote) :: b.upper.take 3,
    lower := (u 3 + mix) :: b.lower.take 3,
    words := b.words.tail ++ [next] }

/-- The hash after a block of sixteen words. -/
def hashBlock (h ws : List Word) : List Word :=
  let b := roundConstants.foldl ShaBlock.round { upper := h.take 4, lower := h.drop 4, words := ws }
  List.zipWith (· + ·) h (b.upper ++ b.lower)

/-! ## Messages -/

/-- Bytes as a number, the first most significant, and a number as so many bytes. -/
def numberOf (bs : List Byte) : Nat := bs.foldl (fun n b => 256 * n + b.toNat) 0
def bytesOf (n x : Nat) : List Byte := ((List.range n).map fun i => BitVec.ofNat 8 (x / 256 ^ i)).reverse

/-- A message closed by a one bit, zeros, and its length in bits, up to a whole block. -/
def padded (m : List Byte) : List Byte :=
  let open_ := m ++ [0x80]
  open_ ++ List.replicate ((56 + 63 * open_.length) % 64) 0 ++ bytesOf 8 (8 * m.length)

/-- The hash over n blocks of bytes. -/
def hashBlocks : Nat → List Byte → List Word → List Word
  | 0, _, h => h
  | n + 1, bs, h =>
    hashBlocks n (bs.drop 64) (hashBlock h ((List.range 16).map fun i => BitVec.ofNat 32 (numberOf ((bs.drop (4 * i)).take 4))))

/-- SHA-256 of some bytes. -/
def sha256 (m : List Byte) : List Byte :=
  (hashBlocks ((m.length + 72) / 64) (padded m) hashStart).flatMap fun w => bytesOf 4 w.toNat

/-- A measurement register extended by an image (R384). -/
def extend (mr image : List Byte) : List Byte := sha256 (mr ++ sha256 image)

end Sys2Proof.Machine
end

