-- ==== Sys2Proof/Machine/Lms.lean ====
section
/-! DEFINITION. Verification of HSS signatures with LMS (RFC 8554), for the parameter sets that R382 names: LMOTS_SHA256_N32_W4 under
LMS_SHA256_M32_H15, at each of two levels. -/

namespace Sys2Proof.Machine

/-! ## Type codes and sizes of RFC 8554 -/

def otsType : Nat := 3
def lmsType : Nat := 7
/-- The chains of a one-time signature: 64 digits of four bits of the hash, and three of their sum. -/
def otsChains : Nat := 67
def lmsHeight : Nat := 15
/-- Bytes of an LMS public key, and of an LMS signature. -/
def lmsKeySize : Nat := 56
def lmsSigSize : Nat := 12 + 32 * (1 + otsChains) + 32 * lmsHeight

/-- A piece of some bytes, and a piece of them as a number. -/
def slice (bs : List Byte) (off n : Nat) : List Byte := (bs.drop off).take n
def numAt (bs : List Byte) (off n : Nat) : Nat := numberOf (slice bs off n)

/-! ## One-time signatures (section 4) -/

/-- The hash of a string under a key pair's identifier, a number of four bytes and one of two bytes. -/
def tagged (id : List Byte) (n tag : Nat) (rest : List Byte) : List Byte := sha256 (id ++ bytesOf 4 n ++ bytesOf 2 tag ++ rest)

/-- The digits of four bits of some bytes, the high one of each byte first. -/
def digits (bs : List Byte) : List Nat := bs.flatMap fun b => [b.toNat / 16, b.toNat % 16]

/-- The digits that a hash gives the chains: its own, and those of the sum of what they leave to 15, shifted left by four. -/
def chainDigits (q : List Byte) : List Nat :=
  let d := digits q
  (d ++ digits (bytesOf 2 (d.foldl (fun t x => t + (15 - x)) 0 * 16))).take otsChains

/-- A chain from a digit to its end, which is `left` steps away. -/
def chain (id : List Byte) (q i : Nat) : Nat → List Byte → List Byte
  | 0, x => x
  | left + 1, x => chain id q i left (tagged id q i (bytesOf 1 (14 - left) ++ x))

/-- The public key of a one-time key pair that a signature of a message gives. -/
def otsCandidate (id : List Byte) (q : Nat) (sig m : List Byte) : List Byte :=
  let ds := chainDigits (tagged id q 0x8181 (slice sig 4 32 ++ m))
  tagged id q 0x8080 (((List.range otsChains).zip ds).flatMap fun x => chain id q x.1 (15 - x.2) (slice sig (36 + 32 * x.1) 32))

/-! ## The tree (section 5) -/

/-- The root above a node, along the path from its level on. -/
def rootAbove (id : List Byte) : List (List Byte) → Nat → List Byte → List Byte
  | [], _, x => x
  | p :: r, node, x => rootAbove id r (node / 2) (tagged id (node / 2) 0x8383 (if node % 2 = 1 then p ++ x else x ++ p))

/-- An LMS signature of a message verifies under a public key: type codes, identifier and root. -/
def lmsVerify (key m sig : List Byte) : Bool :=
  let id := slice key 8 16
  let q := numAt sig 0 4
  let path := (List.range lmsHeight).map fun i => slice sig (12 + 32 * (1 + otsChains) + 32 * i) 32
  key.length == lmsKeySize && numAt key 0 4 == lmsType && numAt key 4 4 == otsType && sig.length == lmsSigSize &&
    numAt sig 4 4 == otsType && numAt sig (8 + 32 * (1 + otsChains)) 4 == lmsType && decide (q < 2 ^ lmsHeight) &&
    rootAbove id path (2 ^ lmsHeight + q) (tagged id (2 ^ lmsHeight + q) 0x8282 (otsCandidate id q (sig.drop 4) m)) == slice key 24 32

/-! ## Two levels (section 6) -/

/-- An HSS signature of a message verifies under a public key of 60 bytes (R382): the root key signs the key of the second level,
which signs the message. -/
def hssVerify (key m sig : List Byte) : Bool :=
  let top := slice sig 4 lmsSigSize
  let pub := slice sig (4 + lmsSigSize) lmsKeySize
  key.length == 4 + lmsKeySize && numAt key 0 4 == 2 && numAt sig 0 4 == 1 && lmsVerify (key.drop 4) pub top &&
    lmsVerify pub m (sig.drop (4 + lmsSigSize + lmsKeySize))

end Sys2Proof.Machine
end

