-- ==== Sys2Proof/Machine/Boot.lean ====
section
/-! DEFINITION. Boot and partitions (R378 to R385), kills (R172), recovery frames (R386 to R388), the life cycle (R389), and
power (R390). -/

namespace Sys2Proof.Machine

/-! ## Kill (R172, R201) -/

/-- Nothing of the core goes on: its main context, its engines, its lining's work, and what is on its way to it. A lining that a
fault has stopped stays so (R152). -/
def State.stopCore (s : State) (st : Status) : State :=
  let s := s.flushed
  let c : Core := { Core.reset with nextId := s.core.nextId }
  { s with
    core := c, save := c, ctx := .main, status := st, rewind := none, hold := Hold.start 0 [], sys := SysRegs.reset,
    lin := { s.lin with serving := false, yielded := false, pend := [], flights := [], stores := [] },
    running := [], arriving := [], colls := [], arrivals := [], earlier := [], presets := ⟨[], [], []⟩,
    wires := s.wires.filter fun x => match x.2 with | .shuttleDelivery _ => false | _ => true,
    xlate := { s.xlate with walks := [], confl := 0 },
    port := ContextPort.reset }

/-- Instances that a test takes are wiped (R201). -/
def State.wipeClause (s : State) (f : Nat → ClauseInst → Bool) : State :=
  (List.range 4).foldl (fun s i => if f i (s.clauseInst i) then s.putInst i (ClauseInst.empty .free) else s) s

/-- A kill: the core stops at once, saves nothing, and its memories are wiped, with the clause context of its job wherever an
instance holds it. -/
def State.killCore (s : State) : State :=
  let own := fun (_ : Nat) (x : ClauseInst) => x.binding.holder == some s.id.core
  (((s.stopCore .dead).wipeRange (scratchBase s.ownDie s.ownCore) 0x200000).wipeClause own).endJob s.id.job

def execKill (s : State) : Result := .next s.killCore

/-- The pre-emption deadline has passed: the GPM kills the job, or does not. -/
def execPreemptionDeadline (kill : Bool) (s : State) : Result := .next (if kill then s.killCore else s)

/-! ## Linings and their image (R56, R182) -/

/-- A handle on a region of the die that stage S1 installs: INST 0, GEN 1, R and W. Its size code is 3 (DESIGN CHOICE; log entry
77). -/
def State.regionHandle (s : State) (region : Nat) : Handle :=
  { valid := true, inst := 0, pbase := BitVec.ofNat 52 (physical region s.ownDie 0), ps := 3, rwam := 0xC, cls := 0, gen := 1, vbase := 0,
    mask := 0 }

def State.liningHandles (s : State) : Vector Handle 16 :=
  (Lining.reset.h.set 12 (s.regionHandle 6)).set 13 (s.regionHandle 5)

/-- The lining starts from an image in its 32 KiB store; SHARE's windows go on (R58). -/
def State.startLining (s : State) (image : List Byte) : State :=
  let rest := s.imem.cells.filter fun c => decide (c.1 < 0x30000)
  { s with
    lin := { Lining.reset with h := s.liningHandles, since := s.lin.since },
    imem := { s.imem with cells := cellsPutAll rest (cellsAt 0x30000 (image.take 0x8000)) } }

/-! ## Partitions (R380, R384, R388) -/

/-- The quads that a partition owns, by die. -/
def State.quadsOf (s : State) (part : Nat) : List (Nat × Nat) :=
  ((List.range 4).filter (s.ownsQuad part s.ownDie)).map (fun q => (s.ownDie, q)) ++
    ((s.boot.parts.filter fun p => p.num.toNat == part).flatMap (·.quads)).map fun x => (x.1.toNat, x.2.toNat)

/-- The HBM channels that a partition owns: of this die by its ownership table, of another those of its interleave sets. -/
def State.channelsOf (s : State) (part : Nat) : List (Nat × Nat) :=
  ((List.range 64).filter fun c => s.channelOwner c == part).map (fun c => (s.ownDie, c)) ++
    ((s.reg6.sets.filter fun x => x.part.toNat == part && x.die != s.id.die).flatMap fun x =>
      x.channels.map fun c => (x.die.toNat, c.toNat))

/-- Memories that a partition owns: HBM, vaults, scratchpads, and the cells and routines of its thimbles. -/
def State.memoriesOf (s : State) (part : Nat) : List (Nat × Nat) :=
  let quads := s.quadsOf part
  let units := s.channelsOf part ++ quads.map fun x => (x.1, 64 + x.2)
  ((s.reg6.sets.filter fun x => x.part.toNat == part).map fun x => (physical 0 x.die.toNat x.start, x.size)) ++
    quads.map (fun x => (vaultBase x.1 x.2, 2 ^ 28)) ++ quads.map (fun x => (scratchBase x.1 (4 * x.2), 2 ^ 23)) ++
    units.map fun u => (physical 5 u.1 (u.2 * 2 ^ 15), 2 ^ 15)

/-- The groups of a partition's jobs, those with a member on one of its quads, are gone with it (log entry 68). -/
def State.dropGroups (s : State) (part : Nat) : State :=
  { s with groups := s.groups.filter fun g => !g.members.any fun m => s.ownsQuad part m.die.toNat (m.core.toNat / 4) }

/-- A partition that the GPM has created and not torn down. -/
def State.hasPartition (s : State) (part : Nat) : Bool := s.boot.parts.any fun p => p.num.toNat == part

def State.wipeAll (s : State) (l : List (Nat × Nat)) : State := l.foldl (fun s x => s.wipeRange x.1 x.2) s

/-- The core and the front end as a reset of the partition leaves them: nothing released, armed or read (R388). -/
def State.resetOwn (s : State) (part : Nat) : State :=
  if s.id.part.toNat ≠ part then s
  else
    let t := s.stopCore .notReleased
    ({ t with fe := FrontEnd.reset, imem := ⟨[], false⟩ } : State).startLining s.boot.lining

/-- A measurement register of zeros extended by an image (R384). -/
def measured (image : List Byte) : List Byte := extend (List.replicate 32 0) image

/-- A reset of partition scope: its jobs, linings and front end stop, its memories are wiped, and its image starts again from a
measurement register of zeros. Multicast windows stay as they are (DESIGN CHOICE; log entry 75). -/
def State.resetPartition (s : State) (part : Nat) : State :=
  let owned := fun (i : Nat) (_ : ClauseInst) => s.ownsInstance part i
  let t := (((s.resetOwn part).wipeAll (s.memoriesOf part)).wipeClause owned).dropGroups part
  if !s.hasPartition part then s
  else { t with boot := { t.boot with parts := t.boot.parts.map fun p => if p.num.toNat = part then { p with mr := measured p.image } else p } }

/-- A function-level reset of a partition's physical function acts as a reset of partition scope; a partition without a host has
no function (R380). -/
def execFunctionLevelReset (part : BitVec 6) (s : State) : Result :=
  .next (if s.boot.parts.any fun p => p.num == part && p.fn.isSome then s.resetPartition part.toNat else s)

/-- Whether a signature over an image's SHA-256 verifies under a key (R383). -/
def verified (key : List Byte) (im : Image) : Bool := hssVerify key (sha256 im.bytes) im.sig

/-! ## What the GPM gives a partition (R185, R380) -/

/-- A list of channels that rises. -/
def rising : List (BitVec 6) → Bool
  | a :: b :: r => decide (a < b) && rising (b :: r)
  | _ => true

def InterleaveSet.ofGrant (part : BitVec 6) (g : SetGrant) : InterleaveSet :=
  { part := part, die := g.die, start := g.start, size := g.size, channels := g.channels, granule := g.granule }

/-- A set as R185 has it: its channels, its granule, and a range of HBM that gives every channel whole granules. -/
def InterleaveSet.wellFormed (x : InterleaveSet) : Bool :=
  let n := x.channels.length
  decide (n = 2 ^ Nat.log2 n ∧ n ≤ 64) && rising x.channels && ([4096, 65536, 2 ^ 21] : List Nat).contains x.granule &&
    decide (0 < x.size ∧ x.size % (x.granule * n) = 0 ∧ x.start + x.size ≤ 0x1800000000 ∧ x.die.toNat < 576)

/-- Bytes of a channel that some sets take: a channel holds 1.5 GiB (R184). -/
def channelUse (l : List InterleaveSet) (die : BitVec 10) (c : BitVec 6) : Nat :=
  (l.filter fun x => x.die == die && x.channels.contains c).foldl (fun n x => n + x.size / x.channels.length) 0

/-- Two sets of a die share no offset, and no channel of two partitions. -/
def setsApart (x y : InterleaveSet) : Bool :=
  x.die != y.die || (decide (x.start + x.size ≤ y.start ∨ y.start + y.size ≤ x.start) &&
    (x.part == y.part || !x.channels.any y.channels.contains))

/-- Every set of a list lies apart from those after it. -/
def allApart : List InterleaveSet → Bool
  | [] => true
  | x :: r => r.all (setsApart x) && allApart r

/-- What the GPM may give a new partition: sets that lie apart from those there are and fit their channels, on this die of channels
that the ownership table gives the partition; quads of other dies, and a PCIe function, that no other partition has (DEDUCED; log
entry 55). -/
def State.grantable (s : State) (part : BitVec 6) (p : NewPartition) : Bool :=
  let new := p.sets.map (InterleaveSet.ofGrant part)
  let all := s.reg6.sets ++ new
  (new.all fun x => x.wellFormed && (x.channels.all fun c => decide (channelUse all x.die c ≤ 0x60000000)) &&
      (x.die != s.id.die || x.channels.all fun c => s.channelOwner c.toNat == part.toNat)) && allApart all &&
    (p.quads.all fun q => q.1 != s.id.die && decide (q.1.toNat < 576) && !s.boot.parts.any fun o => o.quads.contains q) &&
    match p.fn with
    | some f => decide (1 ≤ f ∧ f ≤ 32) && !s.boot.parts.any fun o => o.fn == some f
    | none => true

/-- The GPM creates a partition in S2: its image must verify under the owner key, and is measured (R382 to R384); with it come its
interleave sets, its quads on other dies and its function. -/
def execPartitionCreate (part : BitVec 6) (p : NewPartition) (s : State) : Result :=
  let b := s.boot
  let ok := match b.owner with | some k => verified k p.image | none => false
  let new : Partition := { num := part, image := p.image.bytes, mr := measured p.image.bytes, fn := p.fn, quads := p.quads }
  let sets := s.reg6.sets ++ p.sets.map (InterleaveSet.ofGrant part)
  if b.stage ≠ 2 || !isPartition part.toNat || s.hasPartition part.toNat || !ok || !s.grantable part p then .next s
  else .next ({ s with boot := { b with parts := b.parts ++ [new] }, reg6 := { s.reg6 with sets := sets } } : State).renewSets

/-- The GPM tears a partition down in S2: as a reset of it, with its multicast windows closed (R187, R201), and its sets, quads of
other dies and function given back. -/
def execPartitionTeardown (part : BitVec 6) (s : State) : Result :=
  if s.boot.stage ≠ 2 || !s.hasPartition part.toNat then .next s
  else
    let t := (List.range 16).foldl (fun s k => if s.ownsCore part.toNat k then s.putReg (0xA00000 + k) [0] else s)
      (s.resetPartition part.toNat)
    .next { t with
      boot := { t.boot with parts := t.boot.parts.filter fun p => p.num != part },
      reg6 := { t.reg6 with sets := t.reg6.sets.filter fun x => x.part != part } }

/-! ## Stages (R378) -/

/-- A stage fails: the package is in S0, where no compute core, lining or front end works, and the health window records the
stage and a code. -/
def State.failStage (s : State) (stage : BitVec 2) (code : BitVec 32) : State :=
  let h := s.health
  let f := s.fe
  { s.stopCore .notReleased with
    lin := { Lining.reset with since := s.lin.since },
    boot := { s.boot with stage := 0, failure := some (stage, code) },
    health := { h with records := h.records ++ [(stage.setWidth 64, code.setWidth 64)] },
    fe := { f with normal := { f.normal with en := false }, timed := { f.timed with en := false } } }

def execStageFailure (stage : BitVec 2) (code : BitVec 32) (s : State) : Result := .next (s.failStage stage code)

/-- A failure code that the manual does not state. -/
def State.freeCode (s : State) : BitVec 32 := (Config.freeDword (s.free * 2 ^ 64 + 2 ^ 49)).extractLsb' 0 32

/-- An event that the control cores and the protection serve in every stage and without the cut rails: power-good and the input
limits, frames, package time, and what comes in position 0 (R295, R378, R387, R390). -/
def servedAlways (e : Ev) : Bool :=
  match e with
  | .powerGood | .inputUndervoltage _ _ | .inputOvervoltage _ _ | .junctionOvertemp _ | .coolantOvertemp _ _ => true
  | .recoveryJob _ | .recoveryPartition _ | .recoveryDie _ | .recoveryPackage _ => true
  | .lifecycleProvision _ | .lifecycleDeploy _ | .lifecycleReturn _ => true
  | .ptpMessage _ | .ppsInput _ | .ptpSourceLoss => true
  | .healthBeacon _ | .beaconTimeout _ | .deathReport _ | .fatalMachineError _ | .dieReadmission _ => true
  | _ => false

/-- Stage S0: every memory of the package is wiped, and what fuses, flash and package time hold stays (R378, R201), with the events
that are served in every stage and wait their turn. A die of the package that is dead may be readmitted once its wipe is over
(R292). -/
def State.enterS0 (s : State) : State :=
  let b := s.boot
  let lost := packageWipe (s.ownDie / 8)
  { State.reset with
    id := { s.id with part := 63, job := 0 }, clock := s.clock, run := s.run, ptime := s.ptime, time := s.time, free := s.free,
    lin := { Lining.reset with since := s.clock }, reg6 := Region6.resetFor s.ownDie,
    fabric := { Fabric.resetFor s.ownDie s.ptime with resets := s.deadDies.filter fun d => d / 8 == s.ownDie / 8 },
    agenda := s.agenda.filter servedAlways, health := s.health, outs := s.outs, deadDies := s.deadDies, wipes := lost,
    mem := lost.foldl (fun m x => m.wipe x.1 x.2) s.performed.mem,
    boot := { Boot.reset with
      life := b.life, owner := b.owner, fuses := b.fuses, identity := b.identity, keys := b.keys, ctr := b.ctr, leaf := b.leaf, record := b.record, change := b.change } }

/-- Power-good: S0 with its full wipe. Nothing of the rails' state was saved; the health window and package time stand on no cut rail
and go on (R390). -/
def execPowerGood (s : State) : Result := .next s.enterS0

/-- Scrubbers as stage S1 sets them (R200). -/
def State.enableScrubbers (s : State) : State :=
  (List.range 68).foldl (fun s c => s.putReg (scrubReg c) (leBytes 8 (scrubWord true 0 0 1440))) s

/-- The links of the rings are trained (R378). -/
def State.bringUp (s : State) : State :=
  { s with fabric := { s.fabric with links := s.fabric.links.map fun l => { l with up := true } } }

/-- The S1 image: S1 begins when it verifies. It brings up the package and rack rings, whose order it finds (R290, R378). -/
def execS1Entry (im : Image) (s : State) : Result :=
  let b := s.boot
  if b.stage ≠ 0 then .next s
  else if !verified Config.firmwareKey im then .next (s.failStage 0 s.freeCode)
  else
    let t := s.enableScrubbers.bringUp
    .next { t with
      boot := { b with stage := 1, failure := none, mr0 := extend b.mr0 im.bytes },
      lin := { t.lin with h := t.liningHandles },
      fabric := { t.fabric with order := Config.rackOrder (s.ownDie % 8 == 4) } }

/-- The images that S1 loads: S2 begins when they verify. -/
def execS2Entry (lin walk gpm : Image) (s : State) : Result :=
  let b := s.boot
  if b.stage ≠ 1 then .next s
  else if !(verified Config.firmwareKey lin && verified Config.firmwareKey walk && verified Config.firmwareKey gpm) then
    .next (s.failStage 1 s.freeCode)
  else
    .next (({ s with boot := { b with
      stage := 2, mr1 := extend (extend (extend b.mr1 lin.bytes) walk.bytes) gpm.bytes, lining := lin.bytes } } : State).startLining lin.bytes)

/-! ## Attestation (R385) -/

/-- A leaf is used once: the index of the next one is durable before a signature leaves, and at a multiple of 1,024 a fuse is
blown first. -/
def Boot.useLeaf (b : Boot) : Boot :=
  let n := b.leaf + 1
  if n % 1024 = 0 then { b with leaf := n, fuses := b.fuses + 1, record := b.fuses + 1 } else { b with leaf := n }

/-- The leaf of an identity key, as the signature names it. -/
def leafOf (key leaf : Nat) : Nat := key * 2 ^ 40 + leaf

def execAttestationQuote (nonce : BitVec 256) (part : BitVec 6) (s : State) : Result :=
  let b := s.boot
  match b.identity, b.parts.find? (fun p => p.num == part) with
  | some k, some p =>
    if b.record < b.fuses then .next s
    else
      let digest := sha256 (leBytes 32 nonce.toNat ++ b.mr0 ++ b.mr1 ++ p.mr)
      .next (({ s with boot := b.useLeaf } : State).emitOut (.quote (Config.hssSign (leafOf k b.leaf) digest) s.ptimeNs))
  | _, _ => .next s

/-! ## Recovery frames (R386, R387) -/

def beNat (bs : List Byte) : Nat := bs.foldl (fun n b => 256 * n + b.toNat) 0

/-- A field of a frame, big-endian. -/
def frameField (f : Frame) (off n : Nat) : Nat := beNat ((f.bytes.drop off).take n)

def frameScope (f : Frame) : Nat := frameField f 2 1
def framePart (f : Frame) : Nat := frameField f 3 1
def frameTarget (f : Frame) : Nat := frameField f 4 2
def frameLct (f : Frame) : Nat := frameField f 6 2
def frameCtr (f : Frame) : Nat := frameField f 8 8
def frameNotAfter (f : Frame) : Nat := frameField f 16 8
def frameKey (f : Frame) : List Byte := (f.bytes.drop 24).take 60

/-- Bytes before the signature. -/
def frameHead (f : Frame) : Nat := if frameLct f = 2 then 84 else 24

/-- Its fields are valid (R386). -/
def frameFields (f : Frame) : Bool :=
  decide (frameHead f ≤ f.bytes.length) && frameField f 0 2 == 1 && decide (frameScope f ≤ 3) && decide (frameLct f ≤ 3) &&
    (frameLct f == 0 || frameScope f == 3) &&
    (2 ≤ frameScope f || decide (1 ≤ framePart f ∧ framePart f ≤ 62)) &&
    (frameScope f != 2 || decide (frameTarget f < 576)) &&
    (frameScope f == 0 || frameScope f == 2 || frameTarget f == 0)

/-- The key that a frame calls for (R387, R389). -/
def Boot.frameKeyFor (b : Boot) (f : Frame) : List Byte :=
  match frameLct f with
  | 0 => (match b.owner with | some k => k | none => Config.factoryKey)
  | 1 => Config.factoryKey
  | 2 => Config.firmwareKey
  | _ => (match b.owner with | some k => k | none => [])

/-- The transition that a frame names is one of R389's, and the package is in S0 with no other transition under way. -/
def Boot.transitionOk (b : Boot) (lct : Nat) : Bool :=
  lct == 0 || (b.stage == 0 && b.change.isNone &&
    match lct with
    | 1 => b.life == .blank || b.life == .returned
    | 2 => b.life == .provisioned
    | _ => b.life == .deployed && b.owner.isSome)

def State.frameAccepted (s : State) (f : Frame) : Bool :=
  let b := s.boot
  let head := frameHead f
  frameFields f && b.transitionOk (frameLct f) && hssVerify (b.frameKeyFor f) (f.bytes.take head) (f.bytes.drop head) &&
    decide (b.ctr < frameCtr f) && decide (s.ptimeNs ≤ frameNotAfter f)

/-- A frame of a scope and transition acts, its counter first in flash; any other is counted and changes nothing else. -/
def State.onFrame (s : State) (f : Frame) (scope lct : Nat) (act : State → State) : Result :=
  if frameScope f = scope ∧ frameLct f = lct ∧ s.frameAccepted f then
    .next (act { s with boot := { s.boot with ctr := frameCtr f } })
  else .next (s.count 387)

/-! ## What accepted frames do (R388) -/

def execRecoveryJob (f : Frame) (s : State) : Result :=
  s.onFrame f 0 0 fun s => if framePart f = s.id.part.toNat ∧ frameTarget f = s.id.job.toNat then s.killCore else s

def execRecoveryPartition (f : Frame) (s : State) : Result := s.onFrame f 1 0 fun s => s.resetPartition (framePart f)

/-- Registers of the die that the GPM keeps over a reset of the die: translation roots, reservations and ownership. -/
def gpmReg (off : Nat) : Bool := within off 0x200000 0x400 || within off 0x310000 0x1000 || within off 0x800000 0x1000

/-- Memories of a die. -/
def dieMemories (d : Nat) : List (Nat × Nat) := ([0, 1, 2, 5] : List Nat).map fun r => (physical r d 0, 2 ^ 38)

/-- A reset of this die: everything on it is held in reset until it is wiped and readmitted, and S1 runs for it (R388). -/
def State.resetDie (s : State) : State :=
  let d := s.ownDie
  let stopped := s.stopCore .notReleased
  let emptied : State := { stopped with
    fe := FrontEnd.reset, imem := ⟨[], false⟩, xlate := ⟨[], [], [], 0⟩, lin := { stopped.lin with since := s.clock } }
  let t := emptied.wipeAll (dieMemories d)
  let kept := s.reg6.cells.filter fun c => gpmReg c.1
  let u : State := { t with
    reg6 := { t.reg6 with cells := cellsPutAll ((Region6.resetFor d).cells.filter fun c => !gpmReg c.1) kept },
    casts := [], clause := ClauseArray.reset, inval := State.reset.inval, closing := [], scrub := Vector.replicate 68 0,
    fabric := { Fabric.resetFor d s.ptime with
      frame := t.fabric.frame, table := t.fabric.table, tables := t.fabric.tables, rackTable := t.fabric.rackTable,
      rackTables := t.fabric.rackTables, order := t.fabric.order, resets := setPut t.fabric.resets d },
    packets := t.packets.filter fun p => dieOf p.addr.toNat != d, routine := none }
  (u.enableScrubbers.bringUp.startLining s.boot.lining).declareDead s.id.die

/-- A reset of another die: its memories are wiped, and it is dead until the GPM readmits it (R292, R388). -/
def State.resetFar (s : State) (die : Nat) : State :=
  let t := (s.wipeAll (dieMemories die)).declareDead (BitVec.ofNat 10 die)
  { t with fabric := { t.fabric with resets := setPut t.fabric.resets die } }

def execRecoveryDie (f : Frame) (s : State) : Result :=
  s.onFrame f 2 0 fun s => if frameTarget f = s.ownDie then s.resetDie else s.resetFar (frameTarget f)

/-- A flash record that is behind the fuses is provisioned again (R385): its next leaf lies past every leaf that the fuses cover,
where a fuse is blown (DESIGN CHOICE; log entry 85). -/
def Boot.newRecord (b : Boot) : Boot :=
  if b.record < b.fuses then { b with leaf := 1024 * (b.fuses + 1), fuses := b.fuses + 1, record := b.fuses + 1 } else b

/-- A reset of package scope; it provisions the flash record again (R385). -/
def execRecoveryPackage (f : Frame) (s : State) : Result :=
  s.onFrame f 3 0 fun s =>
    let t := s.enterS0
    { t with boot := t.boot.newRecord }

/-! ## Life cycle (R389) -/

/-- A transition starts with its wipe; the new state takes effect when that is over. -/
def State.startChange (s : State) (life : LifeCycle) (key : List Byte) : State :=
  let t := s.enterS0
  { t with boot := { t.boot with change := some (life, key) } }

def execLifecycleProvision (f : Frame) (s : State) : Result := s.onFrame f 3 1 fun s => s.startChange .provisioned []
def execLifecycleDeploy (f : Frame) (s : State) : Result := s.onFrame f 3 2 fun s => s.startChange .deployed (frameKey f)
def execLifecycleReturn (f : Frame) (s : State) : Result := s.onFrame f 3 3 fun s => s.startChange .returned []

/-! ## Power and cooling (R390) -/

/-- The compute, vault and HBM rails lose power; nothing of them is saved. -/
def State.powerOff (s : State) : State := { s with boot := { s.boot with power := false } }

def execInputUndervoltage (mv us : Nat) (s : State) : Result := .next (if mv < 38000 ∧ 10000 ≤ us then s.powerOff else s)
def execInputOvervoltage (mv us : Nat) (s : State) : Result := .next (if 63000 < mv ∧ 1000 ≤ us then s.powerOff else s)
def execJunctionOvertemp (mdeg : Nat) (s : State) : Result := .next (if 105000 < mdeg then s.powerOff else s)
def execCoolantOvertemp (mdeg us : Nat) (s : State) : Result := .next (if 45000 < mdeg ∧ 5000000 ≤ us then s.powerOff else s)

end Sys2Proof.Machine
end

