-- ==== Sys2Proof/Machine/Scalar.lean ====
section
/-! DEFINITION. The scalar, predicate, mask, copy and address instructions: majors 0x01 to 0x0B (R82 to R94). -/

namespace Sys2Proof.Machine

/-! ## Fillers (R82, R83) -/

/-- nop (R27). -/
def execNop (s : State) : Result := plainOp s id

/-- shd (R83): it repeats the operation of the slot before and writes nothing; the comparison shows only in an
injected mismatch (R120). -/
def execShd (s : State) : Result := slotOp s id

/-! ## Major 0x02 (R86) -/

/-- A member of major 0x02 with its latency (R43, R86). -/
def aluOp (f : Member) (lat : Nat) (d a b : BitVec 5) (p : BitVec 3) (w : BitVec 1) (s : State) : Result :=
  predOp p s fun s => s.emit lat (.s d (aluResult f w (s.rs a) (s.rs b))) .scalar

def execAdd (d a b : BitVec 5) (p : BitVec 3) (w : BitVec 1) (s : State) : Result := aluOp memAdd 1 d a b p w s
def execSub (d a b : BitVec 5) (p : BitVec 3) (w : BitVec 1) (s : State) : Result := aluOp memSub 1 d a b p w s
def execMul (d a b : BitVec 5) (p : BitVec 3) (w : BitVec 1) (s : State) : Result := aluOp memMul 3 d a b p w s
def execMulh (d a b : BitVec 5) (p : BitVec 3) (w : BitVec 1) (s : State) : Result := aluOp memMulh 3 d a b p w s
def execMulhn (d a b : BitVec 5) (p : BitVec 3) (w : BitVec 1) (s : State) : Result := aluOp memMulhn 3 d a b p w s
def execDiv (d a b : BitVec 5) (p : BitVec 3) (w : BitVec 1) (s : State) : Result := aluOp memDiv 18 d a b p w s
def execDivn (d a b : BitVec 5) (p : BitVec 3) (w : BitVec 1) (s : State) : Result := aluOp memDivn 18 d a b p w s
def execRem (d a b : BitVec 5) (p : BitVec 3) (w : BitVec 1) (s : State) : Result := aluOp memRem 18 d a b p w s
def execRemn (d a b : BitVec 5) (p : BitVec 3) (w : BitVec 1) (s : State) : Result := aluOp memRemn 18 d a b p w s
def execAndOp (d a b : BitVec 5) (p : BitVec 3) (w : BitVec 1) (s : State) : Result := aluOp memAnd 1 d a b p w s
def execOrOp (d a b : BitVec 5) (p : BitVec 3) (w : BitVec 1) (s : State) : Result := aluOp memOr 1 d a b p w s
def execXorOp (d a b : BitVec 5) (p : BitVec 3) (w : BitVec 1) (s : State) : Result := aluOp memXor 1 d a b p w s
def execShl (d a b : BitVec 5) (p : BitVec 3) (w : BitVec 1) (s : State) : Result := aluOp memShl 1 d a b p w s
def execShr (d a b : BitVec 5) (p : BitVec 3) (w : BitVec 1) (s : State) : Result := aluOp memShr 1 d a b p w s
def execSar (d a b : BitVec 5) (p : BitVec 3) (w : BitVec 1) (s : State) : Result := aluOp memSar 1 d a b p w s
def execMinOp (d a b : BitVec 5) (p : BitVec 3) (w : BitVec 1) (s : State) : Result := aluOp memMin 1 d a b p w s
def execMaxOp (d a b : BitVec 5) (p : BitVec 3) (w : BitVec 1) (s : State) : Result := aluOp memMax 1 d a b p w s
def execMinn (d a b : BitVec 5) (p : BitVec 3) (w : BitVec 1) (s : State) : Result := aluOp memMinn 1 d a b p w s
def execMaxn (d a b : BitVec 5) (p : BitVec 3) (w : BitVec 1) (s : State) : Result := aluOp memMaxn 1 d a b p w s

/-- sel always executes; its pred field selects (R86). -/
def execSel (d a b : BitVec 5) (p : BitVec 3) (w : BitVec 1) (s : State) : Result :=
  plainOp s fun s => s.emit 1 (.s d (aluResult (fun _ _ _ xs _ => xs) w (if s.rp p then s.rs a else s.rs b) 0)) .scalar

/-- crc folds 8 bytes, crc.w 4 (R87). -/
def execCrc (d a b : BitVec 5) (p : BitVec 3) (w : BitVec 1) (s : State) : Result :=
  predOp p s fun s => s.emit 2 (.s d (BitVec.ofNat 64 (crcFold (if w = 1 then 4 else 8) ((s.rs a).toNat % 2 ^ 32) (s.rs b).toNat))) .scalar

/-! ## Immediates: majors 0x03 to 0x06 (R88, R89) -/

def execAddi (d a : BitVec 5) (p : BitVec 3) (i : BitVec 12) (s : State) : Result :=
  predOp p s fun s => s.emit 1 (.s d (s.rs a + s.signedField i)) .scalar

def execAndi (d a : BitVec 5) (p : BitVec 3) (i : BitVec 10) (s : State) : Result :=
  predOp p s fun s => s.emit 1 (.s d (s.rs a &&& s.signedField i)) .scalar

def execOri (d a : BitVec 5) (p : BitVec 3) (i : BitVec 10) (s : State) : Result :=
  predOp p s fun s => s.emit 1 (.s d (s.rs a ||| s.signedField i)) .scalar

def execXori (d a : BitVec 5) (p : BitVec 3) (i : BitVec 10) (s : State) : Result :=
  predOp p s fun s => s.emit 1 (.s d (s.rs a ^^^ s.signedField i)) .scalar

def execShli (d a : BitVec 5) (p : BitVec 3) (c : BitVec 6) (s : State) : Result :=
  predOp p s fun s => s.emit 1 (.s d (aluResult memShl 0 (s.rs a) (c.setWidth 64))) .scalar

def execShri (d a : BitVec 5) (p : BitVec 3) (c : BitVec 6) (s : State) : Result :=
  predOp p s fun s => s.emit 1 (.s d (aluResult memShr 0 (s.rs a) (c.setWidth 64))) .scalar

def execSari (d a : BitVec 5) (p : BitVec 3) (c : BitVec 6) (s : State) : Result :=
  predOp p s fun s => s.emit 1 (.s d (aluResult memSar 0 (s.rs a) (c.setWidth 64))) .scalar

def execMovi (d : BitVec 5) (p : BitVec 3) (i : BitVec 12) (s : State) : Result :=
  predOp p s fun s => s.emit 1 (.s d (s.signedField i)) .scalar

/-- movh shifts the widened immediate in from the right (R89). -/
def execMovh (d : BitVec 5) (p : BitVec 3) (i : BitVec 12) (s : State) : Result :=
  predOp p s fun s =>
    let f := s.plainField i
    s.emit 1 (.s d (BitVec.ofNat 64 ((s.rs d).toNat * 2 ^ f.2 + f.1))) .scalar

/-! ## Bits: major 0x07 (R90) -/

def execClz (d a : BitVec 5) (s : State) : Result :=
  plainOp s fun s => s.emit 1 (.s d (BitVec.ofNat 64 (clzNat 64 (s.rs a).toNat))) .scalar

def execCtz (d a : BitVec 5) (s : State) : Result :=
  plainOp s fun s => s.emit 1 (.s d (BitVec.ofNat 64 (ctzNat 64 (s.rs a).toNat))) .scalar

def execPopc (d a : BitVec 5) (s : State) : Result :=
  plainOp s fun s => s.emit 1 (.s d (BitVec.ofNat 64 (popNat 64 (s.rs a).toNat))) .scalar

def execSext (d a : BitVec 5) (n : BitVec 6) (s : State) : Result :=
  plainOp s fun s => s.emit 1 (.s d (sextLow (n.toNat + 1) (s.rs a))) .scalar

def execZext (d a : BitVec 5) (n : BitVec 6) (s : State) : Result :=
  plainOp s fun s => s.emit 1 (.s d (zextLow (n.toNat + 1) (s.rs a))) .scalar

def execBfx (d a : BitVec 5) (o n : BitVec 6) (s : State) : Result :=
  plainOp s fun s => s.emit 1 (.s d (zextLow (n.toNat + 1) (s.rs a >>> o.toNat))) .scalar

def execBfi (d a : BitVec 5) (o n : BitVec 6) (s : State) : Result :=
  plainOp s fun s => s.emit 1 (.s d (insertField (s.rs d) (s.rs a) o.toNat (n.toNat + 1))) .scalar

/-! ## Compares: major 0x08 (R91) -/

def execCmp (d c : BitVec 3) (w : BitVec 1) (p : BitVec 3) (a b : BitVec 5) (s : State) : Result :=
  predOp p s fun s => s.emit 1 (.p d (compareWidth c.toNat w (s.rs a) (s.rs b))) .scalar

def execCmpi (d c : BitVec 3) (w : BitVec 1) (p : BitVec 3) (a : BitVec 5) (i : BitVec 9) (s : State) : Result :=
  predOp p s fun s => s.emit 1 (.p d (compareWidth c.toNat w (s.rs a) (s.signedField i))) .scalar

/-! ## Predicates and masks: major 0x09 (R92) -/

def low3 (x : BitVec 5) : BitVec 3 := x.extractLsb' 0 3

def predLogic (f : Bool → Bool → Bool) (d a b : BitVec 5) (p : BitVec 3) (s : State) : Result :=
  predOp p s fun s => s.emit 1 (.p (low3 d) (f (s.rp (low3 a)) (s.rp (low3 b))))

def maskLogic (f : Mask → Mask → Mask) (d a b : BitVec 5) (p : BitVec 3) (s : State) : Result :=
  predOp p s fun s => s.emit 1 (.m (low3 d) (BitVec.allOnes 2048) (f (s.rm (low3 a)) (s.rm (low3 b))))

def execPand (d a b : BitVec 5) (p : BitVec 3) (s : State) : Result := predLogic (· && ·) d a b p s
def execPor (d a b : BitVec 5) (p : BitVec 3) (s : State) : Result := predLogic (· || ·) d a b p s
def execPxor (d a b : BitVec 5) (p : BitVec 3) (s : State) : Result := predLogic (· != ·) d a b p s
def execPnot (d a : BitVec 5) (p : BitVec 3) (s : State) : Result := predLogic (fun x _ => !x) d a a p s
def execPmov (d a : BitVec 5) (p : BitVec 3) (s : State) : Result := predLogic (fun x _ => x) d a a p s
def execMand (d a b : BitVec 5) (p : BitVec 3) (s : State) : Result := maskLogic (· &&& ·) d a b p s
def execMor (d a b : BitVec 5) (p : BitVec 3) (s : State) : Result := maskLogic (· ||| ·) d a b p s
def execMxor (d a b : BitVec 5) (p : BitVec 3) (s : State) : Result := maskLogic (· ^^^ ·) d a b p s
def execMnot (d a : BitVec 5) (p : BitVec 3) (s : State) : Result := maskLogic (fun x _ => ~~~x) d a a p s

def execMpop (d a : BitVec 5) (p : BitVec 3) (s : State) : Result :=
  predOp p s fun s => s.emit 1 (.s d (BitVec.ofNat 64 (popNat 2048 (s.rm (low3 a)).toNat)))

/-- −1 when no bit is set. -/
def execMfirst (d a : BitVec 5) (p : BitVec 3) (s : State) : Result :=
  predOp p s fun s =>
    let n := ctzNat 2048 (s.rm (low3 a)).toNat
    s.emit 1 (.s d (if n = 2048 then BitVec.allOnes 64 else BitVec.ofNat 64 n))

/-- Bit j set for j below s_a. -/
def execMset (d a : BitVec 5) (p : BitVec 3) (s : State) : Result :=
  predOp p s fun s =>
    s.emit 1 (.m (low3 d) (BitVec.allOnes 2048) (BitVec.ofNat 2048 (2 ^ min 2048 (s.rs a).toNat - 1)))

/-! ## Copies between clusters: major 0x0A (R93) -/

def execXcp (d a : BitVec 5) (k : BitVec 2) (p : BitVec 3) (s : State) : Result :=
  predOp p s fun s => s.emit 2 (.s d ((s.core.regs.cluster k.toFin).rs a))

def copyVec (d a : BitVec 5) (k : BitVec 2) (p : BitVec 3) (s : State) : Result :=
  predOp p s fun s => s.emit 4 (.vec d (BitVec.allOnes 16384) (s.core.regs.rv k.toFin a))

def execXcpv (d a : BitVec 5) (k : BitVec 2) (p : BitVec 3) (s : State) : Result := copyVec d a k p s

def execXcpm (d a : BitVec 5) (k : BitVec 2) (p : BitVec 3) (s : State) : Result :=
  predOp p s fun s =>
    s.emit 4 (.m (low3 d) (BitVec.allOnes 2048) ((s.core.regs.cluster k.toFin).rm (low3 a)))

/-- The destination is w_d: vector field 16 + d. -/
def execXcpw (d a : BitVec 5) (k : BitVec 2) (p : BitVec 3) (s : State) : Result := copyVec (d ||| 16#5) a k p s

/-! ## Address registers and loop-update entries: major 0x0B (R94) -/

def low4 (x : BitVec 5) : BitVec 4 := x.extractLsb' 0 4

def execAadd (d a : BitVec 5) (p : BitVec 3) (b : BitVec 5) (s : State) : Result :=
  predOp p s fun s => s.emit 1 (.a (low4 d) (s.ra (low4 a) + s.rs b)) .scalar

def execAaddImm (d a : BitVec 5) (p : BitVec 3) (i : BitVec 9) (s : State) : Result :=
  predOp p s fun s => s.emit 1 (.a (low4 d) (s.ra (low4 a) + s.signedField i)) .scalar

def execAmov (d a : BitVec 5) (p : BitVec 3) (s : State) : Result :=
  predOp p s fun s => s.emit 1 (.a (low4 d) (s.rs a)) .scalar

def execAread (d a : BitVec 5) (p : BitVec 3) (s : State) : Result :=
  predOp p s fun s => s.emit 1 (.s d (s.ra (low4 a))) .scalar

/-- luset writes delta(i, K). The lining has no loop-update table: there it writes nothing, and lurd gives a
free value (log entry 10). -/
def execLuset (d a : BitVec 5) (p l : BitVec 3) (s : State) : Result :=
  predOp p s fun s => s.emit 1 (.lu (low4 d) l ((s.rs a).extractLsb' 0 32)) .scalar

def execLurd (d a : BitVec 5) (p l : BitVec 3) (s : State) : Result :=
  predOp p s fun s =>
    s.emit 1 (.s d (if s.isMain then sx32 (s.core.regs.delta_ (low4 a) l.toNat) else Config.freeDword (s.free * 2 ^ 64 + 2 ^ 47))) .scalar

end Sys2Proof.Machine
end

