-- ==== Sys2Proof/Machine/Fetch.lean ====
section
/-! DEFINITION. Fetching bundles and words (R13, R19, R54, R56, R80, R81), stopping (R84, R171, R249, R353), and placing
an instruction where the next step fetches it. -/

namespace Sys2Proof.Machine

/-! ## The main context's bundle -/

/-- The words of a bundle: from the loop buffer where it holds them (R54). -/
def State.wordsAt (s : State) (a : Nat) : Vector Word 4 :=
  match s.core.lbuf.find? (fun x => x.1.toNat == a) with
  | some x => x.2
  | none => match s.imem.key a with | some k => s.imem.bundle k | none => Vector.replicate 4 0

/-- The header that governs the bundle at an address (R19): the bundle before it, as it would issue. -/
def State.headerAt (s : State) (a : Nat) : Option Word :=
  if a = 0 ∨ a = 0x10000 ∨ !fetchable (a - 16) then none
  else
    let w := (s.wordsAt (a - 16))[0]
    if majorOf w = 0 then some w else none

/-- The bundle at the program counter. -/
def State.fetched (s : State) : Bundle :=
  let a := s.core.regs.pc
  { addr := a, words := s.wordsAt a.toNat, header := s.headerAt a.toNat }

/-- A bundle cannot be fetched here: the region has ended, or the address is none of a bundle (R80, R81). -/
def State.noBundle (s : State) : Bool := s.core.offEnd || !fetchable s.core.regs.pc.toNat

/-- The bundle is held before its slots execute, under a cause or a lower one that a landing gave. -/
def State.holdCycle (s : State) (c : Nat) : State :=
  s.frozen (match s.core.iss.hold with | some d => min c d | none => c)

/-- An agreed branch without a prediction, or a join, waits for its outcome (R313, R316). -/
def State.waitsForOutcome (s : State) : Bool :=
  match s.core.agree with
  | some a => a.ahead.isNone
  | none => false

/-- The trap of a bundle that does not issue. -/
def State.rejectBundle (s : State) (t : TrapRec) : State :=
  let i := s.core.iss
  { s with core := { s.core with iss := { i with trap := some t } } }.finishBundle

/-- The bundle of the main context enters decode: what keeps it from issuing (R18, R23, R80, R314), or the state in
which its slot 0 executes. -/
def State.decode (s : State) : State × Bool :=
  let b := s.fetched
  let s := { s with found := s.core, core := { s.core with bundle := b, slot := 0 } }
  if s.waitsForOutcome then (s.holdCycle 7, false)
  else if s.noBundle then
    (s.rejectBundle (trapRec 3 (b.addr.setWidth 64)), false)
  else
    match illegalBundle b.words b.header with
    | some (r, m) => (s.rejectBundle { cause := 1, smask := m, reason := r, code := 0, detail := 0 }, false)
    | none =>
      let g := groupScan b.words s.core.group
      if !g.2.isEmpty then
        (s.rejectBundle { cause := 2, smask := slotMask fun k => g.2.contains k, reason := 0, code := 0, detail := 0 }, false)
      else
        let s := { s with core := { s.core with group := g.1 } }
        (if s.runsAhead && bundleHeldAhead b.words then s.mainIss fun i => i.held 7 else s, true)

/-- The instruction of the slot that is up, none for a header. -/
def State.slotInstr (s : State) : Option Instr := Machine.slotInstr s.opword

/-! ## The lining's bundle -/

/-- The bundle at the lining's program counter. -/
def State.liningFetch (s : State) : Bundle :=
  { addr := s.lin.pc.setWidth 17, words := s.imem.bundle (0x30000 + s.lin.pc.toNat), header := none }

/-- The lining's due results land and its bundle enters decode (R56): a lining fault, or the state in which it executes. -/
def State.liningDecode (s : State) : State × Bool :=
  let s := { s with save := s.core, lsave := s.lin }
  let s := s.landLiningDue
  if s.lin.stopped then (s.endCycle, false)
  else
    let b := s.liningFetch
    let s := { s with lin := { s.lin with bundle := b, iss := Issue.start } }
    let s := { s with save := s.core, lsave := s.lin }
    match illegalLining b.words with
    | some r => ((s.liningFault { cause := 1, smask := 1, reason := r, code := 0, detail := 0 }).endCycle, false)
    | none => (s, true)

/-! ## Halting (R84, R171, R249, R353) -/

/-- Every operation issued has landed, every store of it has reached its local point, and every command queued has started; at a seam the spool, the shuttle port and
the clause port hold nothing of this core either. -/
def State.hasStopped (s : State) (seam : Bool) : Bool :=
  let c := s.core
  c.flights.isEmpty && (s.drains.all fun g => decide (g.local_ < s.run)) && c.backs.isEmpty && c.ists.isEmpty && c.queued.isEmpty &&
    (!seam || (c.spool.isEmpty && !s.running.any fun r => r.cmd.engine == .shuttle || r.cmd.engine == .clause))

/-- CLAUSE of a seam's descriptor (R171). -/
def State.seamKeepsClause (s : State) (d : Nat) : Bool :=
  match s.sys.seams.toArray[d]? with
  | some e => e.getLsbD 14
  | none => Config.freeBit (2 ^ 80 + d)

/-- The main context stops, and the lining is told. -/
def State.stopNow (s : State) (seam : Option (BitVec 16)) : State :=
  match seam with
  | none => { s with status := .halted, hold := { s.hold with cause := 0 }, sys := { s.sys with inject := 0 } }.liningEvent 3 s.core.bundle.addr.toNat
  | some d =>
    let v := s.sys.seamreq.toNat
    let w := v - v / 2 ^ 61 % 2 * 2 ^ 61 - v / 2 ^ 32 % 2 ^ 16 * 2 ^ 32 + 2 ^ 61 + d.toNat * 2 ^ 32
    let s := match s.myInst with
      | some i => if s.seamKeepsClause d.toNat then s else s.putInst i { s.clauseInst i with binding := Binding.resident }
      | none => s
    { s with status := .held, hold := { s.hold with cause := 0 },
             sys := { s.sys with seamreq := BitVec.ofNat 64 w } }.liningEvent 4 d.toNat

/-- A cycle of a main context that is stopping. -/
def State.haltCycle (s : State) (seam : Option (BitVec 16)) : State :=
  match s.core.iss.hold, s.core.iss.trigger with
  | some c, _ => s.frozen c
  | none, some t => (s.performLanded.rollback t).endCycle
  | none, none =>
    if s.liningReady && s.mayCharge then s.chargedCycle
    else
      let s := s.performLanded
      let s := { s with core := { s.core with landed := false, iss := Issue.start } }
      if s.hasStopped seam.isSome then (s.stopNow seam).endCycle
      else { s with run := s.run + 1, hold := Hold.start 0 s.hold.waits }.endCycle

/-! ## A cycle without a bundle of the main context -/

/-- The main context does not issue in this cycle: the lining may (R57). -/
def State.idleCycle (s : State) : State := if s.liningReady then { s with ctx := .lining } else s.endCycle

/-- Results of the main context are due in this running cycle. -/
def State.landsNow (s : State) : Bool :=
  !s.core.landed && (!s.core.backs.isEmpty || s.core.flights.any fun f => decide (f.due ≤ s.run))

/-! ## Placing an instruction (log entry 18) -/

/-- A filler word, and the add that a shd shadows there. -/
def nopWord : Nat := 0x02000000
def addWord : Nat := 0x04000000

/-- Bytes of some instruction words. -/
def wordBytes (ws : List Nat) : List Byte := ws.flatMap fun w => leBytes 4 w

/-- The main context runs the bundle at an address, nothing else being due. -/
def State.placeMain (s : State) (pc : Nat) (at_ : Nat) (ws : List Nat) : State :=
  { s with
    ctx := .main, status := .running, rewind := none, agenda := [], routine := none,
    imem := match s.imem.key at_ with | some k => s.imem.put k (wordBytes ws) | none => s.imem,
    lin := { s.lin with serving := false },
    core := { s.core with slot := 0, landed := false, offEnd := false, group := [], flights := [], backs := [], lbuf := [],
                          agree := none, iss := Issue.start, regs := { s.core.regs with pc := BitVec.ofNat 17 pc } } }

/-- The main context is about to execute a slot of a bundle that it has decoded. -/
def State.placeSlot (s : State) (k : Cl) (ws : Vector Word 4) : State :=
  let t := s.placeMain 0 0 (ws.toList.map (·.toNat))
  { t with save := t.core, found := t.core, core := { t.core with slot := k, landed := true, bundle := { addr := 0, words := ws, header := none } } }

/-- The lining runs the bundle at its program counter, the main context being trapped. -/
def State.placeLining (s : State) (w : Nat) : State :=
  { s with
    ctx := .lining, status := .trapped, rewind := none, agenda := [], routine := none,
    imem := s.imem.put (0x30000 + s.lin.pc.toNat) (wordBytes [w, nopWord, nopWord, nopWord]),
    lin := { s.lin with serving := true, stopped := false, flights := [], iss := Issue.start },
    core := { s.core with slot := 0, landed := false } }

/-- A thimble routine in progress, whose first word is stored in slot 16 of thimble 64. -/
def State.placeRoutine (s : State) (w : Nat) : State :=
  let p : Packet :=
    { id := 0, sdie := s.id.die, score := s.id.core, part := s.id.part, op := 9, addr := BitVec.ofNat 52 (vaultBase s.ownDie 0),
      base := BitVec.ofNat 52 (vaultBase s.ownDie 0), size := 2 ^ 28, cls := 0, ctl := 16, data := [] }
  let r : Routine := { packet := p, die := s.ownDie, unit := 64, x := Vector.replicate 8 0, pc := 0 }
  { s with routine := some r,
           mem := s.mem.store (cellsAt (routineAddr s.ownDie 64 16 0) (leBytes 4 w)) }

/-- The word of the routine in progress. -/
def State.routineWord (s : State) (r : Routine) : Nat :=
  leNat (s.mem.bytes (routineAddr r.die r.unit (r.packet.ctl.toNat % 32) r.pc) 4)

/-- An agreement header without target and with tag 0. -/
def headerWord : Nat := 0

/-- Places the instruction of a word of the opcode table. -/
def State.place (s : State) (w : Nat) : State :=
  let v := BitVec.ofNat 32 w
  let n := BitVec.ofNat 32 nopWord
  match decodeSlot w with
  | .error _ => if bits w 26 6 ≤ 0x15 then s.placeRoutine w else s.placeMain 0 0 [w, nopWord, nopWord, nopWord]
  | .ok i =>
    match i with
    | .shd => s.placeSlot 1 #v[BitVec.ofNat 32 addWord, v, n, n]
    | .xtrIn _ _ _ => s.placeSlot 3 #v[n, n, n, v]
    | .xtrOut _ => s.placeSlot 3 #v[n, n, n, v]
    | .agr _ _ _ _ _ _ _ => s.placeMain 0x10 0 [headerWord, nopWord, nopWord, nopWord, w, nopWord, nopWord, nopWord]
    | .agv _ _ _ _ _ => s.placeMain 0x10 0 [headerWord, nopWord, nopWord, nopWord, w, nopWord, nopWord, nopWord]
    | .eret _ _ => s.placeLining w
    | .lyield _ => s.placeLining w
    | .inject _ _ => s.placeLining w
    | _ => s.placeMain 0 0 [w, nopWord, nopWord, nopWord]

end Sys2Proof.Machine
end

