-- ==== Sys2Proof/Machine/Transposer.lean ====
section
/-! DEFINITION. The transposer: major 0x23 (R197, R240, R241). -/

namespace Sys2Proof.Machine

/-- Cell (i, j) of the array in 32 bits. -/
def Regs.cell (r : Regs) (i j : Nat) : Nat := (r.xarr.extractLsb' (32 * (128 * i + j)) 32).toNat

/-- Rows r to r + k − 1 of the array take the elements of a vector, w bits each. -/
def Regs.putRows (r : Regs) (row w : Nat) (v : Vec) : Regs :=
  let k := 16384 / w / 128
  let cells := packElems 32 ((unpackElems w (128 * k) v))
  let at_ := 32 * 128 * row
  let en : BitVec 524288 := BitVec.ofNat 524288 ((2 ^ (32 * 128 * k) - 1) * 2 ^ at_)
  { r with xarr := mergeBits r.xarr en (BitVec.ofNat 524288 (cells * 2 ^ at_)), xwidth := BitVec.ofNat 6 w }

/-- xtr.in writes rows in its issue cycle. -/
def execXtrIn (a : BitVec 5) (t : BitVec 3) (r : BitVec 7) (s : State) : Result :=
  plainOp s fun s =>
    let w := typeWidth t
    if r.toNat % (16384 / w / 128) ≠ 0 then s.illegalOperand (r.setWidth 64)
    else { s with core := { s.core with regs := s.core.regs.putRows r.toNat w (s.rv a) } }

/-- The tile's elements that an xtr.out writes: element (i, j) is cell (j, i). -/
def Regs.transposed (r : Regs) : BitVec 524288 :=
  BitVec.ofNat 524288 (packElems r.xwidth.toNat
    ((List.range 128).flatMap fun i => (List.range 128).map fun j => r.cell j i % 2 ^ r.xwidth.toNat))

/-- xtr.out: the tile is filling from issue and ready when its bytes land, 15 cycles later. -/
def execXtrOut (n : BitVec 8) (s : State) : Result :=
  plainOp s fun s =>
    let e := s.tile n.toNat
    let w := s.core.regs.xwidth.toNat
    let s := s.holdWrite n.toNat
    if e.state = 2 ∨ e.rowsM1 ≠ 127 ∨ e.colsM1 ≠ 127 ∨ typeWidth e.type ≠ w then s.illegalOperand (n.setWidth 64)
    else
      let s := s.emit 15 (.xtr n w s.core.regs.transposed)
      { s with core := { s.core with regs := s.core.regs.setTileState n.toNat 1 } }

/-- The bytes of an xtr.out land: they bypass the tack buffer. -/
def State.landTransposed (s : State) (f : Flight) : State :=
  match f.land with
  | .xtr n w cells => s.engineStore [cellsAt (s.tileBase n.toNat) (leBytes (w / 8 * 16384) cells.toNat)] []
  | _ => s

/-- The landings of xtr.out whose cycle has passed (R241). -/
def State.landTransposer (s : State) : State :=
  let past := fun (f : Flight) => isXtr f && decide (f.due < s.run)
  let now := s.core.flights.filter past
  let s := { s with core := { s.core with flights := s.core.flights.filter fun f => !past f } }
  now.foldl State.landTransposed s

end Sys2Proof.Machine
end

