-- ==== Sys2Proof/Machine/Timing.lean ====
section
/-! DEFINITION. The events of the core and of its engines: results and replies, freezes and their limits, windows of the
lining's share, the end of a rewind, stores that reach memory, and commands that start and end. -/

namespace Sys2Proof.Machine

/-! ## Results and replies -/

/-- The results due in this running cycle, or lining cycle, land (R42). -/
def execResultLand (c : Ctx) (s : State) : Result :=
  match c with
  | .main => .next s.landMain
  | .lining => .next s.landLiningDue

/-- Flight n of a list has its reply. -/
def replied (l : List Flight) (n : Nat) : List Flight :=
  ((List.range l.length).zip l).map fun x => if x.1 = n then { x.2 with late := false } else x.2

/-- The watchdog starts again when the reply that the core waits for comes (R47). -/
def State.restartFor (s : State) (n : Nat) : State :=
  match s.core.flights.toArray[n]? with
  | some f => if f.due ≤ s.run then { s with hold := { s.hold with wdog := 0 } } else s
  | none => s

/-- The reply of the main context's access n arrives in the reply buffer (R46). -/
def State.replyArrives (s : State) (n : Nat) : State :=
  let s := s.restartFor n
  { s with core := { s.core with flights := replied s.core.flights n } }

def execReplyArrival (n : Nat) (s : State) : Result := .next (s.replyArrives n)

/-- A drain's acknowledgement (R229): the main context's drain n is numbered 2n, the lining's 2n + 1. -/
def execDrainAck (n : Nat) (s : State) : Result :=
  .next (if n % 2 = 0 then s.replyArrives (n / 2) else { s with lin := { s.lin with flights := replied s.lin.flights (n / 2) } })

/-- A walk is one that an xlat of the main context's bundle, in a slot, has asked for. -/
def State.xlatAsks (s : State) (k : Cl) (w : Walk) : Bool :=
  match Machine.slotInstr (wordAt (s.wordsAt s.core.regs.pc.toNat) k) with
  | some (.xlat _ a) => Walk.asks false ((s.core.regs.cluster k).rs a) w
  | _ => false

/-- The walk that the walker serves, the first asked for (R205), is one that the main context's bundle awaits. -/
def State.walkAwaited (s : State) : Bool :=
  match s.xlate.walks.find? (·.ended.isNone) with
  | some w => ([0, 1, 2, 3] : List Cl).any fun k => s.xlatAsks k w
  | none => false

/-- The die's walker ends its walk (R206); the watchdog starts again when it is the awaited one (R47). -/
def execWalkComplete (s : State) : Result :=
  .next (if s.walkAwaited then { s.endWalk with hold := { s.hold with wdog := 0 } } else s.endWalk)

/-! ## The reply watchdog and the freeze alert (R47, R48) -/

/-- The xlat of the held bundle whose walk the core waits for: its slot. -/
def State.waitingXlat (s : State) : Option Cl :=
  ([0, 1, 2, 3] : List Cl).find? fun k => s.xlate.walks.any fun w => w.ended.isNone && s.xlatAsks k w

/-- The earliest-issued access whose reply is missing in its due cycle (R162). -/
def State.missingReply (s : State) : Option Flight :=
  s.core.flights.find? fun f => (f.late || f.upset == Upset.drop) && decide (f.due ≤ s.run)

/-- The operation that a watchdog rollback names (R162). -/
def State.watchdogTrigger (s : State) : Option Trigger :=
  match s.missingReply with
  | some f => some { failed f 4 0 0 0 0 with lost := [(f.iss, f.slot)] }
  | none =>
    match s.waitingXlat with
    | some k => some
        { cause := 4, smask := slotBit k, slot := k, lane := 0, exp := 0, obs := 0,
          word := wordAt (s.wordsAt s.core.regs.pc.toNat) k, baddr := s.core.regs.pc, addr := 0, detail := 0, info := 0,
          iss := s.run, lost := [], lines := [] }
    | none => none

/-- The watchdog expires: a rollback with cause 4, whose trigger cycle is the one that has just ended (R47, R159). The
walk that was waited for is given up. A trap in place of the rollback waits for a prediction's outcome (R278, R314). -/
def State.watchdogExpires (s : State) : State :=
  match s.watchdogTrigger with
  | none => s
  | some t =>
    if s.runsAhead && trapsOnRollback s (some t) then s
    else
    let walks := if s.missingReply.isSome then s.xlate.walks else s.xlate.walks.filter fun w => w.lining || w.ended.isSome
    let before : State := { s with clock := s.clock - 1, ptime := s.ptime - 5, xlate := { s.xlate with walks := walks } }
    { before.rollback t with clock := s.clock, ptime := s.ptime }

def execReplyWatchdogExpiry (s : State) : Result := .next s.watchdogExpires

/-- A freeze alert (R48): FCAUSE is its detail (R149). -/
def execFreezeAlert (s : State) : Result :=
  .next ({ s with hold := { s.hold with alerted := true } }.liningEvent 1 s.hold.cause)

/-! ## The lining's cycles -/

/-- A window of 256 cycles begins (R58): the charge and lyield end, and SHARE as last written holds (R60). -/
def execShareWindow (s : State) : Result :=
  .next { s with lin := { s.lin with charge := 0, yielded := false, shareNow := s.lin.share } }

/-- EVINFO for an event of the table of R149; a trap leaves it. -/
def LinEvent.info (e : LinEvent) (old : Dword) : Dword :=
  if e.entry < 0x400 then old else BitVec.ofNat 64 ((e.entry - 0x400) / 0x40 * 2 ^ 56 + e.detail.toNat)

/-- The lining enters the pending event with the lowest entry address (R149). -/
def State.enterEvent (s : State) : State :=
  if s.lin.serving || s.lin.stopped then s
  else
    match s.lin.pend with
    | [] => s
    | e :: r =>
      let l := { s.lin with pend := r, serving := true, pc := BitVec.ofNat 16 e.entry, evinfo := e.info s.lin.evinfo }
      { s with lin := { l with entered := e.entry } }

def execLiningEventEntry (s : State) : Result := .next s.enterEvent

/-! ## The end of a rewind (R159 to R161) -/

/-- Freeze cause 9 ends: the entry bundle issues next, or the trap that follows the rewind is taken. -/
def State.endRewind (s : State) : State :=
  match s.rewind with
  | none => s
  | some r =>
    let t : State := { s with rewind := none, hold := { s.hold with cause := 0 } }
    match r.after with
    | .trap x => t.takeTrap x t.core.regs.pc
    | _ => t

def execRewindEnd (s : State) : Result := .next s.endRewind

/-! ## Stores on their way -/

/-- Committed tack-buffer entries whose local point has passed leave the buffer for memory, in order (R157, R216). -/
def State.drainStores (s : State) : State :=
  let n := (s.drains.takeWhile fun g => decide (g.local_ < s.run)).length
  let t := s.flow
  { (t.seeEntries (t.drains.take n)).landGates (t.drains.take n) with drains := t.drains.drop n }

def execTackBufferDrain (s : State) : Result := .next s.drainStores

/-- ist writes whose sixth cycle has come perform (R106). -/
def State.performIsts (s : State) : State :=
  let now := fun (w : IstWrite) => decide (w.due ≤ s.run)
  let t := (s.core.ists.filter now).foldl State.performIst s
  { t with core := { t.core with ists := s.core.ists.filter fun w => !now w } }

def execIstWritePerform (s : State) : Result := .next s.performIsts

/-- A multicast store lands in the scratchpad of every core of its mask (R186, R188). -/
def State.landMcast (s : State) (m : McastStore) : State :=
  ((List.range 16).filter fun i => m.mask.getLsbD i).foldl (fun s i =>
    s.engineStore [m.cells.map fun c => (scratchBase m.die i + c.1, c.2)] []) s

/-- A multicast store of another core of the die as it lands. -/
def landsFrom (die : Nat) (m : Multicast) : McastStore := { due := m.due, die := die, mask := m.mask, cells := m.cells }

/-- The landings of the cycle that has passed, in the order of their source cores, the highest last (R188): this core's and
those of others. -/
def State.landings (s : State) : List McastStore :=
  (List.range 16).flatMap fun k =>
    (if k = s.ownCore then s.core.mcast.filter fun m => decide (m.due < s.clock) else []) ++
      (s.casts.filter fun m => m.core.toNat == k && decide (m.due < s.clock)).map (landsFrom s.ownDie)

/-- Multicast stores land (R188). -/
def State.landMcasts (s : State) : State :=
  let t := s.landings.foldl State.landMcast s
  { t with
    core := { t.core with mcast := s.core.mcast.filter fun m => !decide (m.due < s.clock) },
    casts := s.casts.filter fun m => !decide (m.due < s.clock) }

def execMulticastLanding (s : State) : Result := .next s.landMcasts

/-- Transposed bytes land (R241). -/
def execXtrOutLanding (s : State) : Result := .next s.landTransposer

/-! ## Engine commands -/

/-- An engine starts the next committed command of its queue (R50). -/
def execEngineCommandStart (e : Engine) (s : State) : Result :=
  match e with
  | .copy => .next s.startCopy
  | .matrix => .next s.startMatrix
  | .shuttle => .next s.startShuttle
  | .outbox => .next s.startOutbox
  | .clause => .next s.startClause

def execCopyCommandComplete (n : Nat) (s : State) : Result := .next (s.completeCopy n)
def execMatrixCommandComplete (n : Nat) (bad : MatrixFault) (s : State) : Result := .next (s.completeMatrix n bad)
def execShuttleSourceRead (n : Nat) (s : State) : Result := .next (s.sourceRead n)
def execShuttleDelivery (d : Delivery) (s : State) : Result := .next (s.stepDelivery d)
def execClauseCommandComplete (n : Nat) (bad : ArrayFault) (s : State) : Result := .next (s.completeClause n bad)

/-- A held acwait has waited its time (R264). -/
def execAcwaitTimeout (s : State) : Result := .next (s.expireWaits 0)

end Sys2Proof.Machine
end

