-- ==== Sys2Proof/Machine/Dispatch.lean ====
section
/-! DEFINITION. The dispatch of every instruction to its meaning. -/

namespace Sys2Proof.Machine

def exec (i : Instr) (s : State) : Host.Outcome State Fault Refusal :=
  match i with
  | .nop => Sys2Proof.Machine.execNop s
  | .shd => Sys2Proof.Machine.execShd s
  | .halt p => Sys2Proof.Machine.execHalt p s
  | .idle p => Sys2Proof.Machine.execIdle p s
  | .add d a b p w => Sys2Proof.Machine.execAdd d a b p w s
  | .sub d a b p w => Sys2Proof.Machine.execSub d a b p w s
  | .mul d a b p w => Sys2Proof.Machine.execMul d a b p w s
  | .mulh d a b p w => Sys2Proof.Machine.execMulh d a b p w s
  | .mulhn d a b p w => Sys2Proof.Machine.execMulhn d a b p w s
  | .div d a b p w => Sys2Proof.Machine.execDiv d a b p w s
  | .divn d a b p w => Sys2Proof.Machine.execDivn d a b p w s
  | .rem d a b p w => Sys2Proof.Machine.execRem d a b p w s
  | .remn d a b p w => Sys2Proof.Machine.execRemn d a b p w s
  | .andOp d a b p w => Sys2Proof.Machine.execAndOp d a b p w s
  | .orOp d a b p w => Sys2Proof.Machine.execOrOp d a b p w s
  | .xorOp d a b p w => Sys2Proof.Machine.execXorOp d a b p w s
  | .shl d a b p w => Sys2Proof.Machine.execShl d a b p w s
  | .shr d a b p w => Sys2Proof.Machine.execShr d a b p w s
  | .sar d a b p w => Sys2Proof.Machine.execSar d a b p w s
  | .minOp d a b p w => Sys2Proof.Machine.execMinOp d a b p w s
  | .maxOp d a b p w => Sys2Proof.Machine.execMaxOp d a b p w s
  | .minn d a b p w => Sys2Proof.Machine.execMinn d a b p w s
  | .maxn d a b p w => Sys2Proof.Machine.execMaxn d a b p w s
  | .sel d a b p w => Sys2Proof.Machine.execSel d a b p w s
  | .crc d a b p w => Sys2Proof.Machine.execCrc d a b p w s
  | .addi d a p i0 => Sys2Proof.Machine.execAddi d a p i0 s
  | .andi d a p i0 => Sys2Proof.Machine.execAndi d a p i0 s
  | .ori d a p i0 => Sys2Proof.Machine.execOri d a p i0 s
  | .xori d a p i0 => Sys2Proof.Machine.execXori d a p i0 s
  | .shli d a p c => Sys2Proof.Machine.execShli d a p c s
  | .shri d a p c => Sys2Proof.Machine.execShri d a p c s
  | .sari d a p c => Sys2Proof.Machine.execSari d a p c s
  | .movi d p i0 => Sys2Proof.Machine.execMovi d p i0 s
  | .movh d p i0 => Sys2Proof.Machine.execMovh d p i0 s
  | .clz d a => Sys2Proof.Machine.execClz d a s
  | .ctz d a => Sys2Proof.Machine.execCtz d a s
  | .popc d a => Sys2Proof.Machine.execPopc d a s
  | .sext d a n => Sys2Proof.Machine.execSext d a n s
  | .zext d a n => Sys2Proof.Machine.execZext d a n s
  | .bfx d a o n => Sys2Proof.Machine.execBfx d a o n s
  | .bfi d a o n => Sys2Proof.Machine.execBfi d a o n s
  | .cmp d c w p a b => Sys2Proof.Machine.execCmp d c w p a b s
  | .cmpi d c w p a i0 => Sys2Proof.Machine.execCmpi d c w p a i0 s
  | .pand d a b p => Sys2Proof.Machine.execPand d a b p s
  | .por d a b p => Sys2Proof.Machine.execPor d a b p s
  | .pxor d a b p => Sys2Proof.Machine.execPxor d a b p s
  | .pnot d a p => Sys2Proof.Machine.execPnot d a p s
  | .pmov d a p => Sys2Proof.Machine.execPmov d a p s
  | .mand d a b p => Sys2Proof.Machine.execMand d a b p s
  | .mor d a b p => Sys2Proof.Machine.execMor d a b p s
  | .mxor d a b p => Sys2Proof.Machine.execMxor d a b p s
  | .mnot d a p => Sys2Proof.Machine.execMnot d a p s
  | .mpop d a p => Sys2Proof.Machine.execMpop d a p s
  | .mfirst d a p => Sys2Proof.Machine.execMfirst d a p s
  | .mset d a p => Sys2Proof.Machine.execMset d a p s
  | .xcp d a k p => Sys2Proof.Machine.execXcp d a k p s
  | .xcpv d a k p => Sys2Proof.Machine.execXcpv d a k p s
  | .xcpm d a k p => Sys2Proof.Machine.execXcpm d a k p s
  | .xcpw d a k p => Sys2Proof.Machine.execXcpw d a k p s
  | .aadd d a p b => Sys2Proof.Machine.execAadd d a p b s
  | .aaddImm d a p i0 => Sys2Proof.Machine.execAaddImm d a p i0 s
  | .amov d a p => Sys2Proof.Machine.execAmov d a p s
  | .aread d a p => Sys2Proof.Machine.execAread d a p s
  | .luset d a p l => Sys2Proof.Machine.execLuset d a p l s
  | .lurd d a p l => Sys2Proof.Machine.execLurd d a p l s
  | .br p o => Sys2Proof.Machine.execBr p o s
  | .call p o => Sys2Proof.Machine.execCall p o s
  | .jr p a => Sys2Proof.Machine.execJr p a s
  | .ret p => Sys2Proof.Machine.execRet p s
  | .bswap p a => Sys2Proof.Machine.execBswap p a s
  | .loop a e => Sys2Proof.Machine.execLoop a e s
  | .loopi n e => Sys2Proof.Machine.execLoopi n e s
  | .lbrk p => Sys2Proof.Machine.execLbrk p s
  | .lidx d k => Sys2Proof.Machine.execLidx d k s
  | .tack => Sys2Proof.Machine.execTack s
  | .seam i0 => Sys2Proof.Machine.execSeam i0 s
  | .notch n => Sys2Proof.Machine.execNotch n s
  | .ifence => Sys2Proof.Machine.execIfence s
  | .chkEq a b p => Sys2Proof.Machine.execChkEq a b p s
  | .chkNe a b p => Sys2Proof.Machine.execChkNe a b p s
  | .trapOp c p => Sys2Proof.Machine.execTrapOp c p s
  | .fmt v p => Sys2Proof.Machine.execFmt v p s
  | .fmtr d p => Sys2Proof.Machine.execFmtr d p s
  | .mfsr d r p c k => Sys2Proof.Machine.execMfsr d r p c k s
  | .mtsr a r p c k => Sys2Proof.Machine.execMtsr a r p c k s
  | .eret c p => Sys2Proof.Machine.execEret c p s
  | .lyield p => Sys2Proof.Machine.execLyield p s
  | .inject a p => Sys2Proof.Machine.execInject a p s
  | .agr g x y o c h n => Sys2Proof.Machine.execAgr g x y o c h n s
  | .agv g d x o n => Sys2Proof.Machine.execAgv g d x o n s
  | .agj g => Sys2Proof.Machine.execAgj g s
  | .agst g d a => Sys2Proof.Machine.execAgst g d a s
  | .vaddF d a b m t => Sys2Proof.Machine.execVaddF d a b m t s
  | .vsubF d a b m t => Sys2Proof.Machine.execVsubF d a b m t s
  | .vmulF d a b m t => Sys2Proof.Machine.execVmulF d a b m t s
  | .vmin d a b m t => Sys2Proof.Machine.execVmin d a b m t s
  | .vmax d a b m t => Sys2Proof.Machine.execVmax d a b m t s
  | .vabs d a m t => Sys2Proof.Machine.execVabs d a m t s
  | .vneg d a m t => Sys2Proof.Machine.execVneg d a m t s
  | .vcopysign d a b m t => Sys2Proof.Machine.execVcopysign d a b m t s
  | .vfma d a b m t => Sys2Proof.Machine.execVfma d a b m t s
  | .vfms d a b m t => Sys2Proof.Machine.execVfms d a b m t s
  | .vfnma d a b m t => Sys2Proof.Machine.execVfnma d a b m t s
  | .vfnms d a b m t => Sys2Proof.Machine.execVfnms d a b m t s
  | .vaddI d a b m t => Sys2Proof.Machine.execVaddI d a b m t s
  | .vsubI d a b m t => Sys2Proof.Machine.execVsubI d a b m t s
  | .vmulI d a b m t => Sys2Proof.Machine.execVmulI d a b m t s
  | .vmulh d a b m t => Sys2Proof.Machine.execVmulh d a b m t s
  | .vadds d a b m t => Sys2Proof.Machine.execVadds d a b m t s
  | .vsubs d a b m t => Sys2Proof.Machine.execVsubs d a b m t s
  | .vand d a b m t => Sys2Proof.Machine.execVand d a b m t s
  | .vor d a b m t => Sys2Proof.Machine.execVor d a b m t s
  | .vxor d a b m t => Sys2Proof.Machine.execVxor d a b m t s
  | .vnot d a m t => Sys2Proof.Machine.execVnot d a m t s
  | .vpopc d a m t => Sys2Proof.Machine.execVpopc d a m t s
  | .vclz d a m t => Sys2Proof.Machine.execVclz d a m t s
  | .vshl d a b m t => Sys2Proof.Machine.execVshl d a b m t s
  | .vshr d a b m t => Sys2Proof.Machine.execVshr d a b m t s
  | .vsar d a b m t => Sys2Proof.Machine.execVsar d a b m t s
  | .vmulhN d a b m t => Sys2Proof.Machine.execVmulhN d a b m t s
  | .vaddsN d a b m t => Sys2Proof.Machine.execVaddsN d a b m t s
  | .vsubsN d a b m t => Sys2Proof.Machine.execVsubsN d a b m t s
  | .vcmp d a b m t c => Sys2Proof.Machine.execVcmp d a b m t c s
  | .vcmpN d a b m t c => Sys2Proof.Machine.execVcmpN d a b m t c s
  | .vrankGt d a b m t => Sys2Proof.Machine.execVrankGt d a b m t s
  | .vrankGe d a b m t => Sys2Proof.Machine.execVrankGe d a b m t s
  | .vsel d a b m t => Sys2Proof.Machine.execVsel d a b m t s
  | .vcx x y d m t => Sys2Proof.Machine.execVcx x y d m t s
  | .vclass d a m t => Sys2Proof.Machine.execVclass d a m t s
  | .vperm d a b m t => Sys2Proof.Machine.execVperm d a b m t s
  | .vrot d a b m t => Sys2Proof.Machine.execVrot d a b m t s
  | .vslide d a b m t => Sys2Proof.Machine.execVslide d a b m t s
  | .vbcast d a m t => Sys2Proof.Machine.execVbcast d a m t s
  | .vext d a b t => Sys2Proof.Machine.execVext d a b t s
  | .vins d a b t => Sys2Proof.Machine.execVins d a b t s
  | .vidx d m t => Sys2Proof.Machine.execVidx d m t s
  | .vzipLo d a b m t => Sys2Proof.Machine.execVzipLo d a b m t s
  | .vzipHi d a b m t => Sys2Proof.Machine.execVzipHi d a b m t s
  | .vextN d a b t => Sys2Proof.Machine.execVextN d a b t s
  | .vredsum d a m t => Sys2Proof.Machine.execVredsum d a m t s
  | .vredmax d a m t => Sys2Proof.Machine.execVredmax d a m t s
  | .vredmin d a m t => Sys2Proof.Machine.execVredmin d a m t s
  | .vredand d a m t => Sys2Proof.Machine.execVredand d a m t s
  | .vredor d a m t => Sys2Proof.Machine.execVredor d a m t s
  | .vredmaxN d a m t => Sys2Proof.Machine.execVredmaxN d a m t s
  | .vredminN d a m t => Sys2Proof.Machine.execVredminN d a m t s
  | .vredsumN d a m t => Sys2Proof.Machine.execVredsumN d a m t s
  | .vcvt d a m st t r u => Sys2Proof.Machine.execVcvt d a m st t r u s
  | .vldexp d a b m t => Sys2Proof.Machine.execVldexp d a b m t s
  | .vexp2 d a m t => Sys2Proof.Machine.execVexp2 d a m t s
  | .vlog2 d a m t => Sys2Proof.Machine.execVlog2 d a m t s
  | .vrcp d a m t => Sys2Proof.Machine.execVrcp d a m t s
  | .vrsqrt d a m t => Sys2Proof.Machine.execVrsqrt d a m t s
  | .vdiv d a b m t => Sys2Proof.Machine.execVdiv d a b m t s
  | .vsqrt d a m t => Sys2Proof.Machine.execVsqrt d a m t s
  | .ld d h a w i0 => Sys2Proof.Machine.execLd d h a w i0 s
  | .ist d a p i0 => Sys2Proof.Machine.execIst d a p i0 s
  | .st d h a w i0 => Sys2Proof.Machine.execSt d h a w i0 s
  | .vld d h a m i0 => Sys2Proof.Machine.execVld d h a m i0 s
  | .vlds d n m x w => Sys2Proof.Machine.execVlds d n m x w s
  | .vgath d n m x => Sys2Proof.Machine.execVgath d n m x s
  | .mld d n x => Sys2Proof.Machine.execMld d n x s
  | .vst d h a m i0 => Sys2Proof.Machine.execVst d h a m i0 s
  | .vsts d n m x w => Sys2Proof.Machine.execVsts d n m x w s
  | .vscat d n m x => Sys2Proof.Machine.execVscat d n m x s
  | .mst d n x => Sys2Proof.Machine.execMst d n x s
  | .lamOp d h a b w o => Sys2Proof.Machine.execLamOp d h a b w o s
  | .lamCas d h a b w => Sys2Proof.Machine.execLamCas d h a b w s
  | .lamFac d h a b => Sys2Proof.Machine.execLamFac d h a b s
  | .lamFacRd d h a => Sys2Proof.Machine.execLamFacRd d h a s
  | .drain sc => Sys2Proof.Machine.execDrain sc s
  | .xlat h a => Sys2Proof.Machine.execXlat h a s
  | .hstat d h => Sys2Proof.Machine.execHstat d h s
  | .hdrop h => Sys2Proof.Machine.execHdrop h s
  | .tdef n a => Sys2Proof.Machine.execTdef n a s
  | .tstat n d => Sys2Proof.Machine.execTstat n d s
  | .tset n t => Sys2Proof.Machine.execTset n t s
  | .qdef n a => Sys2Proof.Machine.execQdef n a s
  | .qpop n => Sys2Proof.Machine.execQpop n s
  | .qstat n d => Sys2Proof.Machine.execQstat n d s
  | .mma z a b => Sys2Proof.Machine.execMma z a b s
  | .mmas z a b => Sys2Proof.Machine.execMmas z a b s
  | .mzero z => Sys2Proof.Machine.execMzero z s
  | .mdrain d t p c z => Sys2Proof.Machine.execMdrain d t p c z s
  | .mload d t => Sys2Proof.Machine.execMload d t s
  | .mwait d => Sys2Proof.Machine.execMwait d s
  | .xtrIn a t r => Sys2Proof.Machine.execXtrIn a t r s
  | .xtrOut n => Sys2Proof.Machine.execXtrOut n s
  | .ceCopyTile t h a k => Sys2Proof.Machine.execCeCopyTile t h a k s
  | .ceCopy h a k => Sys2Proof.Machine.execCeCopy h a k s
  | .ceGath h a k => Sys2Proof.Machine.execCeGath h a k s
  | .ceScat h a k => Sys2Proof.Machine.execCeScat h a k s
  | .ceFill h a k => Sys2Proof.Machine.execCeFill h a k s
  | .ceChk h a k => Sys2Proof.Machine.execCeChk h a k s
  | .shSend t p a k => Sys2Proof.Machine.execShSend t p a k s
  | .shRedAr g d k c => Sys2Proof.Machine.execShRedAr g d k c s
  | .shRedRs g d k c => Sys2Proof.Machine.execShRedRs g d k c s
  | .shRedArFac g d k c => Sys2Proof.Machine.execShRedArFac g d k c s
  | .shRedRsFac g d k c => Sys2Proof.Machine.execShRedRsFac g d k c s
  | .shGath g d k => Sys2Proof.Machine.execShGath g d k s
  | .shBcast g d k r => Sys2Proof.Machine.execShBcast g d k r s
  | .shA2a g d k => Sys2Proof.Machine.execShA2a g d k s
  | .shRot g t k r => Sys2Proof.Machine.execShRot g t k r s
  | .shStat d => Sys2Proof.Machine.execShStat d s
  | .acset k a p => Sys2Proof.Machine.execAcset k a p s
  | .acadd k p i0 => Sys2Proof.Machine.execAcadd k p i0 s
  | .acwait k t p n => Sys2Proof.Machine.execAcwait k t p n s
  | .acrd k d p => Sys2Proof.Machine.execAcrd k d p s
  | .thLd h a b k => Sys2Proof.Machine.execThLd h a b k s
  | .thSt h a b k => Sys2Proof.Machine.execThSt h a b k s
  | .thAmo h a b k => Sys2Proof.Machine.execThAmo h a b k s
  | .thCas h a b k => Sys2Proof.Machine.execThCas h a b k s
  | .thEnq h a b k => Sys2Proof.Machine.execThEnq h a b k s
  | .thDeq h a b k => Sys2Proof.Machine.execThDeq h a b k s
  | .thChase h a b k => Sys2Proof.Machine.execThChase h a b k s
  | .thClaim h a b k => Sys2Proof.Machine.execThClaim h a b k s
  | .thFac h a b k => Sys2Proof.Machine.execThFac h a b k s
  | .thCall h a b k => Sys2Proof.Machine.execThCall h a b k s
  | .mbPost t b k => Sys2Proof.Machine.execMbPost t b k s
  | .mbTake n b t p k => Sys2Proof.Machine.execMbTake n b t p k s
  | .clBind a k => Sys2Proof.Machine.execClBind a k s
  | .clLd h a k => Sys2Proof.Machine.execClLd h a k s
  | .clClr a k => Sys2Proof.Machine.execClClr a k s
  | .clDec a k => Sys2Proof.Machine.execClDec a k s
  | .clProp a k => Sys2Proof.Machine.execClProp a k s
  | .clBt a k => Sys2Proof.Machine.execClBt a k s
  | .clSt h a k => Sys2Proof.Machine.execClSt h a k s
  | .clRd d a => Sys2Proof.Machine.execClRd d a s
  | .clCol a k => Sys2Proof.Machine.execClCol a k s
  | .clMask m sel => Sys2Proof.Machine.execClMask m sel s
  | .clLvl m a => Sys2Proof.Machine.execClLvl m a s
  | .routineEnd d a b i0 => Sys2Proof.Machine.execRoutineEnd d a b i0 s
  | .routineLd d a b i0 => Sys2Proof.Machine.execRoutineLd d a b i0 s
  | .routineSt d a b i0 => Sys2Proof.Machine.execRoutineSt d a b i0 s
  | .routineLdc d a b i0 => Sys2Proof.Machine.execRoutineLdc d a b i0 s
  | .routineStc d a b i0 => Sys2Proof.Machine.execRoutineStc d a b i0 s
  | .routineAdd d a b i0 => Sys2Proof.Machine.execRoutineAdd d a b i0 s
  | .routineSub d a b i0 => Sys2Proof.Machine.execRoutineSub d a b i0 s
  | .routineAnd d a b i0 => Sys2Proof.Machine.execRoutineAnd d a b i0 s
  | .routineOr d a b i0 => Sys2Proof.Machine.execRoutineOr d a b i0 s
  | .routineXor d a b i0 => Sys2Proof.Machine.execRoutineXor d a b i0 s
  | .routineMin d a b i0 => Sys2Proof.Machine.execRoutineMin d a b i0 s
  | .routineMax d a b i0 => Sys2Proof.Machine.execRoutineMax d a b i0 s
  | .routineMinn d a b i0 => Sys2Proof.Machine.execRoutineMinn d a b i0 s
  | .routineMaxn d a b i0 => Sys2Proof.Machine.execRoutineMaxn d a b i0 s
  | .routineShl d a b i0 => Sys2Proof.Machine.execRoutineShl d a b i0 s
  | .routineShr d a b i0 => Sys2Proof.Machine.execRoutineShr d a b i0 s
  | .routineAddi d a b i0 => Sys2Proof.Machine.execRoutineAddi d a b i0 s
  | .routineMovi d a b i0 => Sys2Proof.Machine.execRoutineMovi d a b i0 s
  | .routineBeq d a b i0 => Sys2Proof.Machine.execRoutineBeq d a b i0 s
  | .routineBne d a b i0 => Sys2Proof.Machine.execRoutineBne d a b i0 s
  | .routineBlt d a b i0 => Sys2Proof.Machine.execRoutineBlt d a b i0 s
  | .routineBltn d a b i0 => Sys2Proof.Machine.execRoutineBltn d a b i0 s
  | .resultLand c => Sys2Proof.Machine.execResultLand c s
  | .replyArrival n => Sys2Proof.Machine.execReplyArrival n s
  | .replyWatchdogExpiry => Sys2Proof.Machine.execReplyWatchdogExpiry s
  | .freezeAlert => Sys2Proof.Machine.execFreezeAlert s
  | .shareWindow => Sys2Proof.Machine.execShareWindow s
  | .liningEventEntry => Sys2Proof.Machine.execLiningEventEntry s
  | .rewindEnd => Sys2Proof.Machine.execRewindEnd s
  | .notchHoldTimeout => Sys2Proof.Machine.execNotchHoldTimeout s
  | .tackBufferDrain => Sys2Proof.Machine.execTackBufferDrain s
  | .istWritePerform => Sys2Proof.Machine.execIstWritePerform s
  | .multicastLanding => Sys2Proof.Machine.execMulticastLanding s
  | .xtrOutLanding => Sys2Proof.Machine.execXtrOutLanding s
  | .drainAck n => Sys2Proof.Machine.execDrainAck n s
  | .walkComplete => Sys2Proof.Machine.execWalkComplete s
  | .engineCommandStart e => Sys2Proof.Machine.execEngineCommandStart e s
  | .copyCommandComplete n => Sys2Proof.Machine.execCopyCommandComplete n s
  | .matrixCommandComplete n bad => Sys2Proof.Machine.execMatrixCommandComplete n bad s
  | .shuttleSourceRead n => Sys2Proof.Machine.execShuttleSourceRead n s
  | .shuttleDelivery d => Sys2Proof.Machine.execShuttleDelivery d s
  | .clauseCommandComplete n bad => Sys2Proof.Machine.execClauseCommandComplete n bad s
  | .packetSend => Sys2Proof.Machine.execPacketSend s
  | .thimblePacket => Sys2Proof.Machine.execThimblePacket s
  | .thimbleReply r => Sys2Proof.Machine.execThimbleReply r s
  | .mailboxNotice n => Sys2Proof.Machine.execMailboxNotice n s
  | .mbTakeTimeout => Sys2Proof.Machine.execMbTakeTimeout s
  | .acwaitTimeout => Sys2Proof.Machine.execAcwaitTimeout s
  | .agreementContribution c => Sys2Proof.Machine.execAgreementContribution c s
  | .lateLimitExpiry gid => Sys2Proof.Machine.execLateLimitExpiry gid s
  | .agreementOutcome o => Sys2Proof.Machine.execAgreementOutcome o s
  | .joinRequest j => Sys2Proof.Machine.execJoinRequest j s
  | .joinReply j => Sys2Proof.Machine.execJoinReply j s
  | .ringSlotArrival p => Sys2Proof.Machine.execRingSlotArrival p s
  | .bounceResend n => Sys2Proof.Machine.execBounceResend n s
  | .flitReceive l f => Sys2Proof.Machine.execFlitReceive l f s
  | .linkFail l => Sys2Proof.Machine.execLinkFail l s
  | .frameStart => Sys2Proof.Machine.execFrameStart s
  | .healthBeacon die => Sys2Proof.Machine.execHealthBeacon die s
  | .beaconTimeout die => Sys2Proof.Machine.execBeaconTimeout die s
  | .deathReport die => Sys2Proof.Machine.execDeathReport die s
  | .ptpMessage offset => Sys2Proof.Machine.execPtpMessage offset s
  | .ppsInput offset => Sys2Proof.Machine.execPpsInput offset s
  | .ptpSourceLoss => Sys2Proof.Machine.execPtpSourceLoss s
  | .preemptionDeadline kill => Sys2Proof.Machine.execPreemptionDeadline kill s
  | .kill => Sys2Proof.Machine.execKill s
  | .contextSave => Sys2Proof.Machine.execContextSave s
  | .contextRestore => Sys2Proof.Machine.execContextRestore s
  | .contextPortDone => Sys2Proof.Machine.execContextPortDone s
  | .multicastControlWrite w k v => Sys2Proof.Machine.execMulticastControlWrite w k v s
  | .scrubLine c errs => Sys2Proof.Machine.execScrubLine c errs s
  | .scrubberControlWrite w c v => Sys2Proof.Machine.execScrubberControlWrite w c v s
  | .wipeComplete => Sys2Proof.Machine.execWipeComplete s
  | .invalidate w v => Sys2Proof.Machine.execInvalidate w v s
  | .invalidationComplete => Sys2Proof.Machine.execInvalidationComplete s
  | .splitWordWrite w v => Sys2Proof.Machine.execSplitWordWrite w v s
  | .clauseWindowSave i0 => Sys2Proof.Machine.execClauseWindowSave i0 s
  | .clauseWindowRestore i0 => Sys2Proof.Machine.execClauseWindowRestore i0 s
  | .clauseWindowRebind i0 => Sys2Proof.Machine.execClauseWindowRebind i0 s
  | .clauseWindowRelease i0 => Sys2Proof.Machine.execClauseWindowRelease i0 s
  | .clauseWindowDone i0 => Sys2Proof.Machine.execClauseWindowDone i0 s
  | .registerWrite w o n v => Sys2Proof.Machine.execRegisterWrite w o n v s
  | .nwptrWrite timed v => Sys2Proof.Machine.execNwptrWrite timed v s
  | .fectlClr => Sys2Proof.Machine.execFectlClr s
  | .fectlEnable nen ten => Sys2Proof.Machine.execFectlEnable nen ten s
  | .festatWrite => Sys2Proof.Machine.execFestatWrite s
  | .feNop h ws => Sys2Proof.Machine.execFeNop h ws s
  | .loadImem h ws => Sys2Proof.Machine.execLoadImem h ws s
  | .presetAc h ws => Sys2Proof.Machine.execPresetAc h ws s
  | .presetHandle h ws => Sys2Proof.Machine.execPresetHandle h ws s
  | .feRelease h ws => Sys2Proof.Machine.execFeRelease h ws s
  | .callIb h ws => Sys2Proof.Machine.execCallIb h ws s
  | .feReturn h ws => Sys2Proof.Machine.execFeReturn h ws s
  | .feWait h ws => Sys2Proof.Machine.execFeWait h ws s
  | .waitPoll timed => Sys2Proof.Machine.execWaitPoll timed s
  | .feWrite h ws => Sys2Proof.Machine.execFeWrite h ws s
  | .fePost h ws => Sys2Proof.Machine.execFePost h ws s
  | .postRetry timed => Sys2Proof.Machine.execPostRetry timed s
  | .timedRelease h ws => Sys2Proof.Machine.execTimedRelease h ws s
  | .timedReleaseFire => Sys2Proof.Machine.execTimedReleaseFire s
  | .feBarrier h ws => Sys2Proof.Machine.execFeBarrier h ws s
  | .barrierArrival id n => Sys2Proof.Machine.execBarrierArrival id n s
  | .feTimeout timed => Sys2Proof.Machine.execFeTimeout timed s
  | .hostPostedWrite a bs => Sys2Proof.Machine.execHostPostedWrite a bs s
  | .hostRead a n => Sys2Proof.Machine.execHostRead a n s
  | .recoveryJob f => Sys2Proof.Machine.execRecoveryJob f s
  | .recoveryPartition f => Sys2Proof.Machine.execRecoveryPartition f s
  | .recoveryDie f => Sys2Proof.Machine.execRecoveryDie f s
  | .recoveryPackage f => Sys2Proof.Machine.execRecoveryPackage f s
  | .lifecycleProvision f => Sys2Proof.Machine.execLifecycleProvision f s
  | .lifecycleDeploy f => Sys2Proof.Machine.execLifecycleDeploy f s
  | .lifecycleReturn f => Sys2Proof.Machine.execLifecycleReturn f s
  | .attestationQuote nonce part => Sys2Proof.Machine.execAttestationQuote nonce part s
  | .powerGood => Sys2Proof.Machine.execPowerGood s
  | .s1Entry im => Sys2Proof.Machine.execS1Entry im s
  | .s2Entry lin walk gpm => Sys2Proof.Machine.execS2Entry lin walk gpm s
  | .partitionCreate part im => Sys2Proof.Machine.execPartitionCreate part im s
  | .partitionTeardown part => Sys2Proof.Machine.execPartitionTeardown part s
  | .functionLevelReset part => Sys2Proof.Machine.execFunctionLevelReset part s
  | .inputUndervoltage mv us => Sys2Proof.Machine.execInputUndervoltage mv us s
  | .inputOvervoltage mv us => Sys2Proof.Machine.execInputOvervoltage mv us s
  | .junctionOvertemp mdeg => Sys2Proof.Machine.execJunctionOvertemp mdeg s
  | .coolantOvertemp mdeg us => Sys2Proof.Machine.execCoolantOvertemp mdeg us s
  | .notchHoldArrival h => Sys2Proof.Machine.execNotchHoldArrival h s
  | .linkRetrained l => Sys2Proof.Machine.execLinkRetrained l s
  | .dieReadmission die => Sys2Proof.Machine.execDieReadmission die s
  | .fatalMachineError die => Sys2Proof.Machine.execFatalMachineError die s
  | .postedWriteCredit => Sys2Proof.Machine.execPostedWriteCredit s
  | .stageFailure stage code => Sys2Proof.Machine.execStageFailure stage code s

end Sys2Proof.Machine
end

