-- ==== Sys2Proof/Machine/Events.lean ====
section
/-! DEFINITION. The steps of units and events that the agenda holds, run by the same meanings that the
dispatch of their instructions calls. -/

namespace Sys2Proof.Machine

/-- Runs an event of the agenda. -/
def runEvent (e : Ev) (s : State) : Host.Outcome State Fault Refusal :=
  match e with
  | .resultLand c => execResultLand c s
  | .replyArrival n => execReplyArrival n s
  | .replyWatchdogExpiry => execReplyWatchdogExpiry s
  | .freezeAlert => execFreezeAlert s
  | .shareWindow => execShareWindow s
  | .liningEventEntry => execLiningEventEntry s
  | .rewindEnd => execRewindEnd s
  | .notchHoldTimeout => execNotchHoldTimeout s
  | .tackBufferDrain => execTackBufferDrain s
  | .istWritePerform => execIstWritePerform s
  | .multicastLanding => execMulticastLanding s
  | .xtrOutLanding => execXtrOutLanding s
  | .drainAck n => execDrainAck n s
  | .walkComplete => execWalkComplete s
  | .engineCommandStart e => execEngineCommandStart e s
  | .copyCommandComplete n => execCopyCommandComplete n s
  | .matrixCommandComplete n bad => execMatrixCommandComplete n bad s
  | .shuttleSourceRead n => execShuttleSourceRead n s
  | .shuttleDelivery d => execShuttleDelivery d s
  | .clauseCommandComplete n bad => execClauseCommandComplete n bad s
  | .packetSend => execPacketSend s
  | .thimblePacket => execThimblePacket s
  | .thimbleReply r => execThimbleReply r s
  | .mailboxNotice n => execMailboxNotice n s
  | .mbTakeTimeout => execMbTakeTimeout s
  | .acwaitTimeout => execAcwaitTimeout s
  | .agreementContribution c => execAgreementContribution c s
  | .lateLimitExpiry gid => execLateLimitExpiry gid s
  | .agreementOutcome o => execAgreementOutcome o s
  | .joinRequest j => execJoinRequest j s
  | .joinReply j => execJoinReply j s
  | .ringSlotArrival p => execRingSlotArrival p s
  | .bounceResend n => execBounceResend n s
  | .flitReceive l f => execFlitReceive l f s
  | .linkFail l => execLinkFail l s
  | .frameStart => execFrameStart s
  | .healthBeacon die => execHealthBeacon die s
  | .beaconTimeout die => execBeaconTimeout die s
  | .deathReport die => execDeathReport die s
  | .ptpMessage offset => execPtpMessage offset s
  | .ppsInput offset => execPpsInput offset s
  | .ptpSourceLoss => execPtpSourceLoss s
  | .preemptionDeadline kill => execPreemptionDeadline kill s
  | .kill => execKill s
  | .contextSave => execContextSave s
  | .contextRestore => execContextRestore s
  | .contextPortDone => execContextPortDone s
  | .multicastControlWrite w k v => execMulticastControlWrite w k v s
  | .scrubLine c errs => execScrubLine c errs s
  | .scrubberControlWrite w c v => execScrubberControlWrite w c v s
  | .wipeComplete => execWipeComplete s
  | .invalidate w v => execInvalidate w v s
  | .invalidationComplete => execInvalidationComplete s
  | .splitWordWrite w v => execSplitWordWrite w v s
  | .clauseWindowSave i => execClauseWindowSave i s
  | .clauseWindowRestore i => execClauseWindowRestore i s
  | .clauseWindowRebind i => execClauseWindowRebind i s
  | .clauseWindowRelease i => execClauseWindowRelease i s
  | .clauseWindowDone i => execClauseWindowDone i s
  | .registerWrite w o n v => execRegisterWrite w o n v s
  | .nwptrWrite timed v => execNwptrWrite timed v s
  | .fectlClr => execFectlClr s
  | .fectlEnable nen ten => execFectlEnable nen ten s
  | .festatWrite => execFestatWrite s
  | .feNop h ws => execFeNop h ws s
  | .loadImem h ws => execLoadImem h ws s
  | .presetAc h ws => execPresetAc h ws s
  | .presetHandle h ws => execPresetHandle h ws s
  | .feRelease h ws => execFeRelease h ws s
  | .callIb h ws => execCallIb h ws s
  | .feReturn h ws => execFeReturn h ws s
  | .feWait h ws => execFeWait h ws s
  | .waitPoll timed => execWaitPoll timed s
  | .feWrite h ws => execFeWrite h ws s
  | .fePost h ws => execFePost h ws s
  | .postRetry timed => execPostRetry timed s
  | .timedRelease h ws => execTimedRelease h ws s
  | .timedReleaseFire => execTimedReleaseFire s
  | .feBarrier h ws => execFeBarrier h ws s
  | .barrierArrival id n => execBarrierArrival id n s
  | .feTimeout timed => execFeTimeout timed s
  | .hostPostedWrite a bs => execHostPostedWrite a bs s
  | .hostRead a n => execHostRead a n s
  | .recoveryJob f => execRecoveryJob f s
  | .recoveryPartition f => execRecoveryPartition f s
  | .recoveryDie f => execRecoveryDie f s
  | .recoveryPackage f => execRecoveryPackage f s
  | .lifecycleProvision f => execLifecycleProvision f s
  | .lifecycleDeploy f => execLifecycleDeploy f s
  | .lifecycleReturn f => execLifecycleReturn f s
  | .attestationQuote nonce part => execAttestationQuote nonce part s
  | .powerGood => execPowerGood s
  | .s1Entry im => execS1Entry im s
  | .s2Entry lin walk gpm => execS2Entry lin walk gpm s
  | .partitionCreate part im => execPartitionCreate part im s
  | .partitionTeardown part => execPartitionTeardown part s
  | .functionLevelReset part => execFunctionLevelReset part s
  | .inputUndervoltage mv us => execInputUndervoltage mv us s
  | .inputOvervoltage mv us => execInputOvervoltage mv us s
  | .junctionOvertemp mdeg => execJunctionOvertemp mdeg s
  | .coolantOvertemp mdeg us => execCoolantOvertemp mdeg us s
  | .notchHoldArrival h => execNotchHoldArrival h s
  | .linkRetrained l => execLinkRetrained l s
  | .dieReadmission die => execDieReadmission die s
  | .fatalMachineError die => execFatalMachineError die s
  | .postedWriteCredit => execPostedWriteCredit s
  | .stageFailure stage code => execStageFailure stage code s

/-- Runs a thimble routine word (R300). -/
def runRoutine (w : Nat) (s : State) : Host.Outcome State Fault Refusal :=
  match bits w 26 6 with
  | 0 => execRoutineEnd (fld w 23 3) (fld w 20 3) (fld w 17 3) (fld w 0 17) s
  | 1 => execRoutineLd (fld w 23 3) (fld w 20 3) (fld w 17 3) (fld w 0 17) s
  | 2 => execRoutineSt (fld w 23 3) (fld w 20 3) (fld w 17 3) (fld w 0 17) s
  | 3 => execRoutineLdc (fld w 23 3) (fld w 20 3) (fld w 17 3) (fld w 0 17) s
  | 4 => execRoutineStc (fld w 23 3) (fld w 20 3) (fld w 17 3) (fld w 0 17) s
  | 5 => execRoutineAdd (fld w 23 3) (fld w 20 3) (fld w 17 3) (fld w 0 17) s
  | 6 => execRoutineSub (fld w 23 3) (fld w 20 3) (fld w 17 3) (fld w 0 17) s
  | 7 => execRoutineAnd (fld w 23 3) (fld w 20 3) (fld w 17 3) (fld w 0 17) s
  | 8 => execRoutineOr (fld w 23 3) (fld w 20 3) (fld w 17 3) (fld w 0 17) s
  | 9 => execRoutineXor (fld w 23 3) (fld w 20 3) (fld w 17 3) (fld w 0 17) s
  | 10 => execRoutineMin (fld w 23 3) (fld w 20 3) (fld w 17 3) (fld w 0 17) s
  | 11 => execRoutineMax (fld w 23 3) (fld w 20 3) (fld w 17 3) (fld w 0 17) s
  | 12 => execRoutineMinn (fld w 23 3) (fld w 20 3) (fld w 17 3) (fld w 0 17) s
  | 13 => execRoutineMaxn (fld w 23 3) (fld w 20 3) (fld w 17 3) (fld w 0 17) s
  | 14 => execRoutineShl (fld w 23 3) (fld w 20 3) (fld w 17 3) (fld w 0 17) s
  | 15 => execRoutineShr (fld w 23 3) (fld w 20 3) (fld w 17 3) (fld w 0 17) s
  | 16 => execRoutineAddi (fld w 23 3) (fld w 20 3) (fld w 17 3) (fld w 0 17) s
  | 17 => execRoutineMovi (fld w 23 3) (fld w 20 3) (fld w 17 3) (fld w 0 17) s
  | 18 => execRoutineBeq (fld w 23 3) (fld w 20 3) (fld w 17 3) (fld w 0 17) s
  | 19 => execRoutineBne (fld w 23 3) (fld w 20 3) (fld w 17 3) (fld w 0 17) s
  | 20 => execRoutineBlt (fld w 23 3) (fld w 20 3) (fld w 17 3) (fld w 0 17) s
  | 21 => execRoutineBltn (fld w 23 3) (fld w 20 3) (fld w 17 3) (fld w 0 17) s
  | _ => illegalRoutineWord s

end Sys2Proof.Machine
end

