-- ==== Sys2Proof/Machine/Step.lean ====
section
/-! DEFINITION. One step of the machine: a word of a thimble routine, an event that is due, a slot operation of the main
context, a bundle of the lining, or a cycle in which nothing issues. -/

namespace Sys2Proof.Machine

/-- The slot of the bundle in decode that is up executes; a header performs no operation (R19). -/
def stepSlot (s : State) : Result :=
  match s.slotInstr with
  | some i => exec i s
  | none => .next s.retire

/-- The lining's bundle (R56). -/
def stepLining (s : State) : Result :=
  let d := s.liningDecode
  if d.2 then stepSlot d.1 else .next d.1

/-- The main context at a bundle boundary. -/
def stepBundle (s : State) : Result :=
  if s.landsNow then runEvent (.resultLand .main) s
  else
    let s := if s.core.landed then s else { s with save := s.core, lsave := s.lin }
    match s.status with
    | .halting d => .next (s.haltCycle d)
    | _ =>
      let d := s.decode
      if d.2 then stepSlot d.1 else .next d.1

/-- The main context's part of a cycle. -/
def stepMain (s : State) : Result :=
  match s.status, s.rewind with
  | .running, none => stepBundle s
  | .halting _, none => stepBundle s
  | _, _ => .next s.idleCycle

/-- A step with power. -/
def stepPowered (s : State) : Result :=
  match s.routine with
  | some r => runRoutine (s.routineWord r) s
  | none =>
    match s.ctx with
    | .lining => stepLining s
    | .main =>
      if s.core.slot ≠ 0 then stepSlot s
      else
        match s.agenda with
        | e :: rest => if s.core.landed then stepMain s else runEvent e { s with agenda := rest }
        | [] => stepMain s

/-- A cycle while the compute, vault and HBM rails have no power: time goes on, and what is due of the events that are served
always. -/
def State.darkCycle (s : State) : State :=
  let t := s.tick
  { t with ctx := .main, free := t.free + 1, agenda := (fabricEvents t).filter servedAlways }

/-- A step without power on those rails (R390): the control cores and the protection serve their events, power-good among them;
nothing else runs, and what comes for it is lost. -/
def stepDark (s : State) : Result :=
  match s.agenda.filter servedAlways with
  | e :: rest => runEvent e { s with agenda := rest }
  | [] => .next s.darkCycle

/-- The machine's step. -/
def step (s : State) : Result := if s.boot.power then stepPowered s else stepDark s

/-- The state with an instruction where the next step fetches it (log entry 18). -/
def State.withFetchWord (s : State) (_nbits w : Nat) : State := s.place (w % 2 ^ 32)

end Sys2Proof.Machine
end

