-- ==== Sys2Proof/Safety.lean ====
section
/-! DEFINITION. What claims call a well-kept state, and a step that is safe. -/

namespace Sys2Proof

/-- Memory is in canonical form: addresses rise, and no entry equals what an unlisted address reads as. -/
def Canonical (s : Machine.State) : Prop := s.mem.wf = true

/-- The lining's pending events, and those it goes back to when a cycle is undone, stand in rising order of entry address, one of
each kind (R149). -/
def EventsInOrder (s : Machine.State) : Prop :=
  s.lin.pend.Pairwise (fun x y => x.entry < y.entry) ∧ s.lsave.pend.Pairwise (fun x y => x.entry < y.entry)

/-- The instruction of the table that a step of the agenda is. -/
noncomputable def instrOf : Ev → Instr
  | .resultLand c => .resultLand c
  | .replyArrival n => .replyArrival n
  | .replyWatchdogExpiry => .replyWatchdogExpiry
  | .freezeAlert => .freezeAlert
  | .shareWindow => .shareWindow
  | .liningEventEntry => .liningEventEntry
  | .rewindEnd => .rewindEnd
  | .notchHoldTimeout => .notchHoldTimeout
  | .tackBufferDrain => .tackBufferDrain
  | .istWritePerform => .istWritePerform
  | .multicastLanding => .multicastLanding
  | .xtrOutLanding => .xtrOutLanding
  | .drainAck n => .drainAck n
  | .walkComplete => .walkComplete
  | .engineCommandStart e => .engineCommandStart e
  | .copyCommandComplete n => .copyCommandComplete n
  | .matrixCommandComplete n bad => .matrixCommandComplete n bad
  | .shuttleSourceRead n => .shuttleSourceRead n
  | .shuttleDelivery d => .shuttleDelivery d
  | .clauseCommandComplete n bad => .clauseCommandComplete n bad
  | .packetSend => .packetSend
  | .thimblePacket => .thimblePacket
  | .thimbleReply r => .thimbleReply r
  | .mailboxNotice n => .mailboxNotice n
  | .mbTakeTimeout => .mbTakeTimeout
  | .acwaitTimeout => .acwaitTimeout
  | .agreementContribution c => .agreementContribution c
  | .lateLimitExpiry gid => .lateLimitExpiry gid
  | .agreementOutcome o => .agreementOutcome o
  | .joinRequest j => .joinRequest j
  | .joinReply j => .joinReply j
  | .ringSlotArrival p => .ringSlotArrival p
  | .bounceResend n => .bounceResend n
  | .flitReceive l f => .flitReceive l f
  | .linkFail l => .linkFail l
  | .frameStart => .frameStart
  | .healthBeacon die => .healthBeacon die
  | .beaconTimeout die => .beaconTimeout die
  | .deathReport die => .deathReport die
  | .ptpMessage offset => .ptpMessage offset
  | .ppsInput offset => .ppsInput offset
  | .ptpSourceLoss => .ptpSourceLoss
  | .preemptionDeadline kill => .preemptionDeadline kill
  | .kill => .kill
  | .contextSave => .contextSave
  | .contextRestore => .contextRestore
  | .contextPortDone => .contextPortDone
  | .multicastControlWrite w k v => .multicastControlWrite w k v
  | .scrubLine c errs => .scrubLine c errs
  | .scrubberControlWrite w c v => .scrubberControlWrite w c v
  | .wipeComplete => .wipeComplete
  | .invalidate w v => .invalidate w v
  | .invalidationComplete => .invalidationComplete
  | .splitWordWrite w v => .splitWordWrite w v
  | .clauseWindowSave i => .clauseWindowSave i
  | .clauseWindowRestore i => .clauseWindowRestore i
  | .clauseWindowRebind i => .clauseWindowRebind i
  | .clauseWindowRelease i => .clauseWindowRelease i
  | .clauseWindowDone i => .clauseWindowDone i
  | .registerWrite w o n v => .registerWrite w o n v
  | .nwptrWrite timed v => .nwptrWrite timed v
  | .fectlClr => .fectlClr
  | .fectlEnable nen ten => .fectlEnable nen ten
  | .festatWrite => .festatWrite
  | .feNop h ws => .feNop h ws
  | .loadImem h ws => .loadImem h ws
  | .presetAc h ws => .presetAc h ws
  | .presetHandle h ws => .presetHandle h ws
  | .feRelease h ws => .feRelease h ws
  | .callIb h ws => .callIb h ws
  | .feReturn h ws => .feReturn h ws
  | .feWait h ws => .feWait h ws
  | .waitPoll timed => .waitPoll timed
  | .feWrite h ws => .feWrite h ws
  | .fePost h ws => .fePost h ws
  | .postRetry timed => .postRetry timed
  | .timedRelease h ws => .timedRelease h ws
  | .timedReleaseFire => .timedReleaseFire
  | .feBarrier h ws => .feBarrier h ws
  | .barrierArrival id n => .barrierArrival id n
  | .feTimeout timed => .feTimeout timed
  | .hostPostedWrite a bs => .hostPostedWrite a bs
  | .hostRead a n => .hostRead a n
  | .recoveryJob f => .recoveryJob f
  | .recoveryPartition f => .recoveryPartition f
  | .recoveryDie f => .recoveryDie f
  | .recoveryPackage f => .recoveryPackage f
  | .lifecycleProvision f => .lifecycleProvision f
  | .lifecycleDeploy f => .lifecycleDeploy f
  | .lifecycleReturn f => .lifecycleReturn f
  | .attestationQuote nonce part => .attestationQuote nonce part
  | .powerGood => .powerGood
  | .s1Entry im => .s1Entry im
  | .s2Entry lin walk gpm => .s2Entry lin walk gpm
  | .partitionCreate part im => .partitionCreate part im
  | .partitionTeardown part => .partitionTeardown part
  | .functionLevelReset part => .functionLevelReset part
  | .inputUndervoltage mv us => .inputUndervoltage mv us
  | .inputOvervoltage mv us => .inputOvervoltage mv us
  | .junctionOvertemp mdeg => .junctionOvertemp mdeg
  | .coolantOvertemp mdeg us => .coolantOvertemp mdeg us
  | .notchHoldArrival h => .notchHoldArrival h
  | .linkRetrained l => .linkRetrained l
  | .dieReadmission die => .dieReadmission die
  | .fatalMachineError die => .fatalMachineError die
  | .postedWriteCredit => .postedWriteCredit
  | .stageFailure stage code => .stageFailure stage code

/-- The machine goes on from this state. -/
def GoesOn (s : Machine.State) : Prop := ∃ t, Machine.step s = .next t

/-- What an instruction leaves alone when it writes no memory: every byte reads as before. -/
def KeepsMemory (s t : Machine.State) : Prop := ∀ a, t.mem.byte a = s.mem.byte a

/-- The slot operation issues, and a result of it lands after `lat` running cycles (R42): what it writes, and what the
residue unit checks of it. Nothing else of the state changes but the record of operations with a true predicate and the
slot that is up. -/
def Sends (i : Instr) (s : Machine.State) (lat : Nat) (x : Machine.Landing) (c : Machine.Checked) : Prop :=
  Machine.exec i s = .next (s.markLive.emit lat x c).retire

/-- The slot operation has no effect but that its slot is over. -/
def Skips (i : Instr) (s : Machine.State) : Prop := Machine.exec i s = .next s.retire

/-- Element j of a vector that is cut into elements of w bits (R121). -/
def element (w j : Nat) (v : Vec) : Nat := v.toNat / 2 ^ (w * j) % 2 ^ w

/-- A vector result on its way (R42, R123): elements of w bits, element j enabled by bit j of mask m and equal to f j. -/
def SendsElements (i : Instr) (s : Machine.State) (lat w : Nat) (d : BitVec 5) (m : BitVec 3) (f : Nat → Nat)
    (c : Machine.Checked) : Prop :=
  ∃ en v : Vec, Sends i s lat (.vec d en v) c ∧ ∀ j < 16384 / w,
    (∀ k < w, en.getLsbD (w * j + k) = (s.rm m).getLsbD j) ∧ element w j v = f j % 2 ^ w

/-- A vector result whose operation also raises flags (R68, R69, R126): each enabled element raises its own. -/
def SendsElementsAndFlags (i : Instr) (s : Machine.State) (lat w : Nat) (d : BitVec 5) (m : BitVec 3)
    (f : Nat → Machine.Elem) : Prop :=
  ∃ (en v : Vec) (x : BitVec 5),
    Machine.exec i s = .next ((s.markLive.emit lat (.vec d en v) (.elems w)).emit lat (.flags x)).retire ∧
    (∀ j < 16384 / w, (∀ k < w, en.getLsbD (w * j + k) = (s.rm m).getLsbD j) ∧ element w j v = (f j).1 % 2 ^ w) ∧
    ∀ k < 5, x.getLsbD k = decide (∃ j < 16384 / w, (s.rm m).getLsbD j ∧ (f j).2.getLsbD k)

/-! ## The numbers that words stand for (R61 to R68), apart from the machine's own arithmetic -/

/-- A word of the format is neither a NaN nor an infinity. -/
def finiteWord (F : Machine.Fmt) (x : Nat) : Prop :=
  x < 2 ^ F.bits ∧ (if F.infs then x / 2 ^ F.frac % 2 ^ F.exp ≠ 2 ^ F.exp - 1 else x % 2 ^ (F.exp + F.frac) ≠ 0x7F)

/-- A NaN of a format with infinities, and a signalling one: its first fraction bit is clear. -/
def nanWord (F : Machine.Fmt) (x : Nat) : Prop := x / 2 ^ F.frac % 2 ^ F.exp = 2 ^ F.exp - 1 ∧ x % 2 ^ F.frac ≠ 0
def signallingWord (F : Machine.Fmt) (x : Nat) : Prop := nanWord F x ∧ x % 2 ^ F.frac < 2 ^ (F.frac - 1)

/-- Its sign bit. -/
def signBit (F : Machine.Fmt) (x : Nat) : Bool := x.testBit (F.exp + F.frac)

/-- The value of a finite word: subnormal when its exponent field is zero. -/
noncomputable def valueOf (F : Machine.Fmt) (x : Nat) : ℝ :=
  let e := x / 2 ^ F.frac % 2 ^ F.exp
  let m := x % 2 ^ F.frac
  (if signBit F x then -1 else 1) *
    (if e = 0 then (m : ℝ) * (2 : ℝ) ^ (1 - (F.bias : ℤ) - F.frac) else ((2 ^ F.frac + m : ℕ) : ℝ) * (2 : ℝ) ^ ((e : ℤ) - F.bias - F.frac))

/-- A point of the format's unbounded grid (R65): c = n × 2^(e − F), where n is its significand in units of the last bit. -/
def GridPoint (F : Machine.Fmt) (n e : ℤ) (c : ℝ) : Prop :=
  1 - (F.bias : ℤ) ≤ e ∧ |n| < 2 ^ (F.frac + 1) ∧ (e = 1 - (F.bias : ℤ) ∨ 2 ^ F.frac ≤ |n|) ∧ c = n * (2 : ℝ) ^ (e - F.frac)

/-- RoundTo of R65 on a grid, whose points have a last bit: c is the result for the exact v. -/
def RoundTo (grid : ℝ → Prop) (lastBit : ℝ → ℤ → Prop) (mode : Machine.Mode) (v c : ℝ) : Prop :=
  (grid v → c = v) ∧ (¬ grid v → ∃ lo hi, IsGreatest ({ g | grid g ∧ g < v } : Set ℝ) lo ∧ IsLeast ({ g | grid g ∧ v < g } : Set ℝ) hi ∧
    match mode with
    | .rne => (v - lo < hi - v → c = lo) ∧ (hi - v < v - lo → c = hi) ∧ (v - lo = hi - v → (c = lo ∨ c = hi) ∧ lastBit c 0)
    | .rtz => (0 < v → c = lo) ∧ (v < 0 → c = hi)
    | .rup => c = hi
    | .rdn => c = lo
    | .odd => (c = lo ∨ c = hi) ∧ lastBit c 1)

/-- RoundTo on the grid of a floating-point format, and on the integers. -/
def RoundToFormat (F : Machine.Fmt) : Machine.Mode → ℝ → ℝ → Prop :=
  RoundTo (fun c => ∃ n e, GridPoint F n e c) (fun c b => ∃ n e, GridPoint F n e c ∧ n % 2 = b)
def RoundToInteger : Machine.Mode → ℝ → ℝ → Prop :=
  RoundTo (fun c => ∃ n : ℤ, c = n) (fun c b => ∃ n : ℤ, c = n ∧ n % 2 = b)

/-- RoundTo(FP32, RNE, v) = c: one rounding of an FP32 algorithm. -/
def Near (v c : ℝ) : Prop := RoundToFormat Machine.f32 .rne v c

/-- An element result is the exact v rounded once to the format, with the flags of R68: the candidate of R65, or past the
largest finite magnitude the result of R66, in E4M3 of R71. A non-zero v gives the sign of v (R67). -/
def RoundedOnce (F : Machine.Fmt) (mode : Machine.Mode) (sat : Bool) (v : ℝ) (r : Machine.Elem) : Prop :=
  ∃ c, RoundToFormat F mode v c ∧
    (|c| ≤ valueOf F F.maxFinite →
      finiteWord F r.1 ∧ valueOf F r.1 = c ∧ (v ≠ 0 → (signBit F r.1 = true ↔ v < 0)) ∧ (c = v → r.2 = 0) ∧
      (c ≠ v → |v| < (2 : ℝ) ^ (1 - (F.bias : ℤ)) → r.2 = Machine.flagUNF ||| Machine.flagINX) ∧
      (c ≠ v → (2 : ℝ) ^ (1 - (F.bias : ℤ)) ≤ |v| → r.2 = Machine.flagINX)) ∧
    (valueOf F F.maxFinite < |c| →
      r.2 = Machine.flagOVF ||| Machine.flagINX ∧
      (F.infs = true → 0 < v → r.1 = if mode = .rne ∨ mode = .rup then F.inf false else F.maxFinite) ∧
      (F.infs = true → v < 0 → r.1 = if mode = .rne ∨ mode = .rdn then F.inf true else F.signed true F.maxFinite) ∧
      (F.infs = false → sat = false → r.1 = 0x7F) ∧
      (F.infs = false → sat = true → 0 < v → r.1 = 0x7E) ∧ (F.infs = false → sat = true → v < 0 → r.1 = 0xFE))

/-- A NaN comes out canonical, with INV where an operand is a signalling one (R63, R68). -/
def NanOf (F : Machine.Fmt) (sig : Prop) (r : Machine.Elem) : Prop :=
  r.1 = F.nan ∧ (sig → r.2 = Machine.flagINV) ∧ (¬ sig → r.2 = 0)

/-- An exact result of zero: a zero of the sign, and no flag. -/
def ZeroOf (F : Machine.Fmt) (neg : Bool) (r : Machine.Elem) : Prop := r = (F.signed neg 0, 0)

/-- The block sum of R73 of pairs of words of a format, as an FP32 word: a NaN or infinity among the exact products, or their sum
rounded once; BF16 products are cut to 40 bits below the largest one's first. -/
def IsBlockSum (F : Machine.Fmt) (wide : Prop) (ps : List (Nat × Nat)) (S : Nat) : Prop :=
  let mag := fun (x : Nat) => x % 2 ^ (F.exp + F.frac)
  let isNan := fun (x : Nat) => if F.infs then nanWord F x else mag x = 0x7F
  let isInf := fun (x : Nat) => F.infs = true ∧ mag x = (2 ^ F.exp - 1) * 2 ^ F.frac
  let nan := fun (p : Nat × Nat) => isNan p.1 ∨ isNan p.2 ∨ (isInf p.1 ∧ mag p.2 = 0) ∨ (mag p.1 = 0 ∧ isInf p.2)
  let inf := fun (b : Bool) (p : Nat × Nat) => (isInf p.1 ∨ isInf p.2) ∧ xor (signBit F p.1) (signBit F p.2) = b
  let product := fun (p : Nat × Nat) => valueOf F p.1 * valueOf F p.2
  let once := fun (v : ℝ) => (v = 0 → S = 0) ∧ (v ≠ 0 → ∃ fl, RoundedOnce Machine.f32 .rne false v (S, fl))
  ((∃ p ∈ ps, nan p) ∨ ((∃ p ∈ ps, inf false p) ∧ ∃ p ∈ ps, inf true p) → S = Machine.f32.nan) ∧
  ((∀ p ∈ ps, ¬ nan p) → ∀ b, (∃ p ∈ ps, inf b p) → (∀ p ∈ ps, ¬ inf (!b) p) → S = Machine.f32.inf b) ∧
  ((∀ p ∈ ps, ¬ nan p ∧ ¬ inf false p ∧ ¬ inf true p) →
    ((∀ p ∈ ps, product p = 0) → S = 0) ∧
    (¬ wide → once (ps.map product).sum) ∧
    (wide → ∀ top : ℤ, (∀ p ∈ ps, |product p| < (2 : ℝ) ^ (top + 1)) → (∃ p ∈ ps, (2 : ℝ) ^ top ≤ |product p|) →
      let cut := fun (v : ℝ) => (if v < 0 then (⌈v / (2 : ℝ) ^ (top - 39)⌉ : ℝ) else (⌊v / (2 : ℝ) ^ (top - 39)⌋ : ℝ)) * (2 : ℝ) ^ (top - 39)
      once (ps.map fun p => cut (product p)).sum))

/-- An element as mdrain writes it (R72), in the type of a code of DTYPE: what mulE and convertE give is said of them. -/
def IsDrained (type : BitVec 3) (scale : Option Nat) (a e : Nat) : Prop :=
  let y := match scale with | some d => (Machine.mulE Machine.f32 a d).1 | none => a
  (type = 0 → (nanWord Machine.f32 y → e = 0x7FC00000) ∧ (¬ nanWord Machine.f32 y → e = y)) ∧
  (type = 1 → (nanWord Machine.f32 y → e = 0x7FC0) ∧ (∀ b, y = Machine.f32.inf b → e = if b then 0xFF7F else 0x7F7F) ∧
    (finiteWord Machine.f32 y → e = (Machine.convertE 0 1 .rtz false false false y).1)) ∧
  (type = 3 → e = (Machine.convertE 0 3 .rtz true false false y).1)

/-- A mask result on its way: bit j is set where mask m enables it and f j holds, for j below n; the others are clear. -/
def SendsMask (i : Instr) (s : Machine.State) (d : BitVec 3) (m : BitVec 3) (n : Nat) (f : Nat → Bool) : Prop :=
  ∃ v : Mask, Sends i s 2 (.m d (BitVec.allOnes 2048) v) .no ∧
    ∀ j < 2048, v.getLsbD j = (decide (j < n) && (s.rm m).getLsbD j && f j)

/-- A command on its way: the operation ends before slot 3, and its queue has one more command, held by the open panel
(R156). State u is the machine once the operation has claimed what its operands name. -/
def Queues (i : Instr) (s u : Machine.State) (q : Machine.Core → List Machine.Cmd) (ac : BitVec 6)
    (use : Machine.CmdUse) (op : Machine.CmdOp) : Prop :=
  ∃ t c, Machine.exec i s = .next t ∧ q t.core = q s.core ++ [c] ∧ c.id = s.core.nextId ∧ c.held = true ∧ c.lining = false ∧
    c.ac = ac ∧ c.fmt = s.core.regs.fmt ∧ c.reads = use.reads ∧ c.pops = use.pops ∧ c.writes = use.writes ∧ c.z = use.z ∧
    c.op = op ∧ t.core.nextId = s.core.nextId + 1 ∧ t.core.regs = u.core.regs ∧ t.core.spool = u.core.spool ∧
    t.core.flights = u.core.flights ∧ t.core.iss.hold = s.core.iss.hold ∧ t.core.iss.trap = s.core.iss.trap ∧
    t.core.iss.trigger = s.core.iss.trigger

/-- A tile operand names tile n, ready and not being written, and its ring is legal where it has one (R191, R192, R195). -/
def ReadsTile (s : Machine.State) (c : BitVec 8) (n : Nat) : Prop :=
  s.operandLegal c = true ∧ n = s.readTile c ∧ (s.tile n).state = 2 ∧ s.wb n = false

/-- A tile operand names tile n for a write: through a ring it is empty, directly it is empty or ready; nothing reads or
writes it (R191, R192, R195). -/
def WritesTile (s : Machine.State) (c : BitVec 8) (n : Nat) : Prop :=
  s.operandLegal c = true ∧ n = s.writeTile c ∧ s.rb n = false ∧ s.wb n = false ∧
    (if Machine.isRing c then (s.tile n).state = 0 else (s.tile n).state = 0 ∨ (s.tile n).state = 2)

/-- The machine after the claims of an operand that is read, and of one that is written: a ring advances its pointer (R191). -/
def afterRead (s : Machine.State) (c : BitVec 8) : Machine.State :=
  if Machine.isRing c then
    let q := s.core.regs.rq (Machine.ringOf c)
    { s with core := { s.core with regs := s.core.regs.wq (Machine.ringOf c) q.popped } }
  else s

def afterWrite (s : Machine.State) (c : BitVec 8) : Machine.State :=
  if Machine.isRing c then
    let q := s.core.regs.rq (Machine.ringOf c)
    { s with core := { s.core with regs := s.core.regs.wq (Machine.ringOf c) q.pushed } }
  else s

/-- Nothing forbids the accesses of n bytes at these offsets of the handle in a register (R181, R182, R209, R215): the handle is
valid and of a kind that the operation may use, each access lies in its page and has its permissions, and each is aligned. -/
structure Reaches (s : Machine.State) (hn : BitVec 4) (h : Machine.Handle) (os : List Nat) (n align : Nat) (ps : List Machine.Perm)
    (k : Machine.AccessKind) : Prop where
  valid   : h.valid = true
  kind    : s.kindAllowed hn h k (k == .store) = true
  inside  : ∀ o ∈ os, o + n ≤ Machine.spanSize h.ps
  allowed : ∀ p ∈ ps, h.allows p = true
  aligned : ∀ o ∈ os, o % align = 0

/-- The state as an operation with a true predicate finds it, once it has noted what its accesses add up to (R120, R164). -/
def noted (s : Machine.State) (l : List (Machine.Cl × Option Nat × Nat)) : Machine.State :=
  s.markLive.setIss { s.markLive.iss with sums := s.markLive.iss.sums ++ l }

/-- A load goes out; what it reads lands after `lat` running cycles, or when its reply comes (R45). -/
def SendsLoad (i : Instr) (s : Machine.State) (lat : Nat) (dst : Machine.LoadDest) (acc : List Machine.Access) : Prop :=
  ∃ l late, Machine.exec i s = .next ((noted s l).emit lat (.load dst acc) .no late).retire

/-- A store goes out. The main context's waits in the tack buffer; one through a multicast handle goes to the scratchpads of
its mask, but waits for the outcome of a prediction (R313); the lining's performs at its own point (R157, R188, R268). -/
def SendsStore (i : Instr) (s : Machine.State) (h : Machine.Handle) (lat : Nat) (cells : List Host.Cell) : Prop :=
  ∃ l, (s.ctx = .main → h.region ≠ 3 → Machine.exec i s = .next ((noted s l).gate cells lat).retire) ∧
    (h.region = 3 → (s.ctx = .main → s.runsAhead = false) → Machine.exec i s = .next ((noted s l).multicast h cells).retire) ∧
    (h.region = 3 → s.ctx = .main → s.runsAhead = true → Machine.exec i s = .next ((noted s l).holdOn 7).retire) ∧
    (s.ctx = .lining → h.region ≠ 3 → Machine.exec i s = .next ((noted s l).liningStore cells lat).retire)

/-- The lanes below n that a mask enables. -/
def lanesOf (n : Nat) (m : Mask) : List Nat := (List.range n).filter fun j => m.getLsbD j

/-- The main context is in one of slots 0 to 2 of its bundle. -/
def BeforeLastSlot (s : Machine.State) : Prop := s.ctx = .main ∧ s.core.slot.val < 3

/-- The main context is in the last slot of a bundle that nothing holds, traps or rolls back (R45, R148, R159), with no
injection armed (R119) and no lining cycle before it (R57). -/
def LastSlotClean (s : Machine.State) : Prop :=
  s.ctx = .main ∧ s.core.slot = 3 ∧ s.core.iss.hold = none ∧ s.core.iss.trap = none ∧ s.core.iss.trigger = none ∧
  s.sys.engine = none ∧ Machine.overflowTrap s = none ∧ s.liningReady = false ∧ s.sys.inject.getLsbD 63 = false

/-- What the end of a cycle, and the units that work meanwhile, leave of the core and of its control: registers, accumulator
tiles, group, panel, queues, status, system registers, the freeze, instruction memories, the bundle. -/
structure Kept (s t : Machine.State) : Prop where
  regs   : t.core.regs = s.core.regs
  z      : t.core.z = s.core.z
  group  : t.core.group = s.core.group
  panel  : t.core.panel = s.core.panel
  slot   : t.core.slot = s.core.slot
  iss    : t.core.iss = s.core.iss
  landed : t.core.landed = s.core.landed
  backs  : t.core.backs = s.core.backs
  offEnd : t.core.offEnd = s.core.offEnd
  loose  : t.core.loose = s.core.loose
  ists   : t.core.ists = s.core.ists
  lbuf   : t.core.lbuf = s.core.lbuf
  queues : t.core.queued = s.core.queued
  spool  : t.core.spool = s.core.spool
  status : t.status = s.status
  rewind : t.rewind = s.rewind
  sys    : t.sys = s.sys
  hold   : t.hold = s.hold
  imem   : t.imem = s.imem
  pend   : t.lin.pend = s.lin.pend

end Sys2Proof
end

