-- ==== Sys2Proof/Certificates/Slice0/Obligations.lean ====
section
/-! DEFINITION. The statements about the machine. -/

open Sys2Proof Sys2Proof.Machine

/-! ## Encoding, and the machine as a whole -/

/-- R15, R26, R300: the decoder reads every well-formed instruction back from its word, with either stop bit, and the stop bit
is no part of the operation. -/
def Obligations.EveryInstructionDecodesBack : Prop :=
  ∀ i : Instr, WellFormed i → isEvent i = false →
    (isRoutine i = true → encode i < 2 ^ 32 ∧ decodeRoutine (encode i) = some i) ∧
    (isRoutine i = false → ∀ stop : Bool,
      let w := encode i + (if stop then 2 ^ 31 else 0)
      w < 2 ^ 32 ∧ decodeBytes (bytesOfWord w) = .ok i ∧ stopBit w = stop)

/-- R15, R23: a word that decodes to an operation decodes to a well-formed one, whose own word it is. -/
def Obligations.EachWordHasOneMeaning : Prop :=
  ∀ (w : Nat) (i : Instr), w < 2 ^ 31 → decodeSlot w = .ok i → WellFormed i ∧ isEvent i = false ∧ isRoutine i = false ∧ encode i = w

/-- Words written out from the encodings that R27, R86, R91, R95, R127, R217, R236, R322, R343, R313 and R300 give, one bit field
after another: each decodes to the operation it stands for. -/
def Obligations.SampleWordsDecode : Prop :=
  (∀ x ∈ ([(0b0_000001_0000000000000000000000000, .nop),
      (0b0_000010_01101_10101_00010_001_1_000000, .add 13 21 2 1 1),
      (0b0_001000_110_101_1_1_011_10110_111000010, .cmpi 6 5 1 3 22 450),
      (0b1_001100_0_100_111001100010001101111, .br 4 1885295),
      (0b0_010011_01011_11000_01001_100_010_0000, .vaddF 11 24 9 4 2),
      (0b1_011011_10001_1110_1010_010_101100110, .ld 17 14 10 2 358),
      (0b0_100010_000_010101_00011000_10111001, .mma 21 24 185),
      (0b0_100111_0010_0011_0101_0001_001100_000, .thAmo 3 5 1 12),
      (0b0_101001_0000_10000_100011_0000000000, .clBind 16 35),
      (0b0_010010_0_00100_00100_11100_101_100_10_1, .agr 4 4 28 5 4 2 1)] : List (Nat × Instr)), decodeSlot x.1 = .ok x.2) ∧
  (∀ x ∈ ([(0b000101_001_010_011_00000000000000000, .routineAdd 1 2 3 0), (0b010001_111_000_000_11111111111110000, .routineMovi 7 0 0 0x1FFF0),
      (0b010010_000_101_110_00000000000000100, .routineBeq 0 5 6 4)] : List (Nat × Instr)), decodeRoutine x.1 = some x.2)

/-- R13, R14, R42, R56, R300: a step with power runs the operation of the slot that is up, the first operation of the bundle
at the program counter, the step that is due, the lining's operation, or the word of the routine in progress; a bundle or
group that is illegal is trapped. The order in which one step follows another inside a cycle is the model's choice (log
entry 6). -/
def Obligations.StepRunsTheDecodedInstruction : Prop :=
  ∀ s : State, s.boot.power = true →
    (∀ r, s.routine = some r → ∀ i, decodeRoutine (s.routineWord r) = some i → step s = exec i s) ∧
    (s.routine = none → s.ctx = .lining → ∀ d i, s.liningDecode = (d, true) → decodeSlot d.opword.toNat = .ok i → step s = exec i d) ∧
    (s.routine = none → s.ctx = .main → s.core.slot ≠ 0 → (∀ i, decodeSlot s.opword.toNat = .ok i → step s = exec i s) ∧
      (∀ e, decodeSlot s.opword.toNat = .error e → step s = .next s.retire)) ∧
    (s.routine = none → s.ctx = .main → s.core.slot = 0 → s.core.landed = false → ∀ e r, s.agenda = e :: r →
      step s = exec (instrOf e) ({ s with agenda := r } : State)) ∧
    (s.routine = none → s.ctx = .main → s.core.slot = 0 → s.agenda = [] → s.status = .running → s.rewind = none → s.landsNow = false →
      s.waitsForOutcome = false → s.core.offEnd = false → fetchable s.core.regs.pc.toNat = true → s.runsAhead = false →
      (∀ x ∈ s.core.lbuf, x.1 ≠ s.core.regs.pc) → ∀ k, s.imem.key s.core.regs.pc.toNat = some k →
      let words := s.imem.bundle k
      let head := s.headerAt s.core.regs.pc.toNat
      let u : State := if s.core.landed then s else { s with save := s.core, lsave := s.lin }
      let v : State := { u with found := u.core, core := { u.core with bundle := ⟨s.core.regs.pc, words, head⟩, slot := 0 } }
      (illegalBundle words head = none → (groupScan words s.core.group).2 = [] →
        ∀ i, decodeBytes (cellsRead s.imem.cells k 4) = .ok i →
          step s = exec i ({ v with core := { v.core with group := (groupScan words s.core.group).1 } } : State)) ∧
      (∀ r m, illegalBundle words head = some (r, m) →
        step s = .next (v.rejectBundle { cause := 1, smask := m, reason := r, code := 0, detail := 0 })) ∧
      (illegalBundle words head = none → ∀ q r, (groupScan words s.core.group).2 = q :: r → ∃ m,
        step s = .next (v.rejectBundle { cause := 2, smask := m, reason := 0, code := 0, detail := 0 })))

/-- R390: every instruction answers a next state, and so does every step; without power on the cut rails the steps that the
control cores and the protection serve run, power-good among them, and otherwise time alone goes on. Which steps go on
without power is the model's reading (log entry 55). -/
def Obligations.StepsGoOnWithPower : Prop :=
  (∀ i s, ∃ t, exec i s = .next t) ∧
  (∀ s : State, GoesOn s) ∧
  (∀ s : State, s.boot.power = false →
    (∀ e r, s.agenda.filter servedAlways = e :: r → step s = exec (instrOf e) ({ s with agenda := r } : State)) ∧
    (s.agenda.filter servedAlways = [] → ∃ t, step s = .next t ∧ t.clock = s.clock + 1 ∧ t.run = s.run ∧ t.core = s.core ∧ t.lin = s.lin ∧
      t.mem = s.mem ∧ t.boot = s.boot ∧ t.outs = s.outs ∧ ∀ e ∈ t.agenda, servedAlways e = true))

/-- R149: every step keeps the canonical form of memory, where addresses rise and no entry is zero (the form is the model's
own), and the rising order of the lining's pending events, one of each kind, so that the first is the one with the lowest
entry address. The form, and zero as what an unlisted address reads as, are choices of the model (log entry 3). -/
def Obligations.StepKeepsMemoryAndEventOrder : Prop :=
  ∀ s t : State, step s = .next t → (Canonical s → Canonical t) ∧ (EventsInOrder s → EventsInOrder t)

/-- R4, R46: a step ends at most one core-clock cycle, and a running cycle only with a core-clock cycle; neither count ever
falls. That a cycle is cut into steps is the model's choice (log entry 6). -/
def Obligations.CyclesAreCounted : Prop :=
  ∀ s t : State, step s = .next t →
    (t.clock = s.clock ∧ t.run = s.run) ∨ (t.clock = s.clock + 1 ∧ (t.run = s.run ∨ t.run = s.run + 1))

/-- R385, R387, R389: no step lowers the fuse count or takes back a leaf; the life cycle, the owner key and the identity key
change only where the wipe of a transition ends; and only a frame changes the replay counter. -/
def Obligations.BootRegistersMoveForward : Prop :=
  ∀ (i : Instr) (s t : State), exec i s = .next t →
    s.boot.fuses ≤ t.boot.fuses ∧ s.boot.leaf ≤ t.boot.leaf ∧ s.boot.keys ≤ t.boot.keys ∧
    (i ≠ .wipeComplete ∨ s.boot.change = none → t.boot.life = s.boot.life ∧ t.boot.owner = s.boot.owner ∧ t.boot.identity = s.boot.identity ∧
      t.boot.keys = s.boot.keys) ∧
    ((∀ f, i ≠ .lifecycleProvision f ∧ i ≠ .lifecycleDeploy f ∧ i ≠ .lifecycleReturn f ∧ i ≠ .recoveryJob f ∧ i ≠ .recoveryPartition f ∧
        i ≠ .recoveryDie f ∧ i ≠ .recoveryPackage f) → i ≠ .wipeComplete → t.boot.ctr = s.boot.ctr)

/-- The frame of every slot operation of the main context in slots 0 to 2 (R42): what it writes is on its way, so the registers
stand but for ring pointers (R191), tile states (R241), group sequence numbers (R253), the transposer's array (R240) and mailbox
counts (R329); memory, accumulator tiles, instruction memories, status and the lining stand whole. -/
def Obligations.SlotOperationsActThroughTheirResults : Prop :=
  ∀ (i : Instr) (s t : State), isEvent i = false → isRoutine i = false → BeforeLastSlot s → exec i s = .next t →
    t.core.regs = { s.core.regs with q := t.core.regs.q, t := t.core.regs.t, g := t.core.regs.g, mbc := t.core.regs.mbc,
                                     xarr := t.core.regs.xarr, xwidth := t.core.regs.xwidth } ∧
    t.sys = { s.sys with cut := t.sys.cut, handleinfo := t.sys.handleinfo } ∧
    t.core.z = s.core.z ∧ ((∀ d, i ≠ .seam d) → t.core.panel = s.core.panel) ∧ t.core.slot = s.core.slot + 1 ∧ t.mem = s.mem ∧ t.drains = s.drains ∧
    t.imem = s.imem ∧ t.status = s.status ∧ t.lin = s.lin ∧ t.clock = s.clock ∧ t.run = s.run ∧ t.ptime = s.ptime ∧
    t.running = s.running ∧ t.clause = s.clause ∧ t.reg6 = s.reg6 ∧ t.fe = s.fe ∧ t.boot = s.boot ∧ t.outs = s.outs

/-- R40, R57, R60, R112, R163, R201, R240, R263, R326, R369, R378: the machine right after reset, as far as the manual gives
it; its memory is canonical. That no byte is listed is the model's form of the wiped memory (log entry 3); the front end's
registers, of which the manual gives the enables alone, are the model's choice (log entry 4). -/
def Obligations.ResetState : Prop :=
  let s := State.reset
  let r := s.core.regs
  Canonical s ∧ EventsInOrder s ∧ s.mem.cells = [] ∧ s.status = .notReleased ∧ s.core.panel = none ∧ s.boot.power = true ∧ s.boot.stage = 0 ∧
  r.xarr = 0 ∧ (∀ n < 4, r.mbc.toArray.getD n 0 = 0) ∧ (∀ k < 16, ∀ n < 4, (s.mailbox k n).en = false) ∧
  r.fmt = 1 ∧ (∀ k : Cl, ∀ n, (r.cluster k).rs n = 0 ∧ (r.cluster k).fp = 0) ∧ (∀ k d, r.rv k d = 0) ∧ (∀ n, r.ra n = 0) ∧
  (∀ n, (r.rh n).valid = false) ∧ (∀ n, r.rac n = ⟨0, false⟩) ∧ (∀ n, (r.rg n).v = false) ∧ r.depth = 0 ∧
  s.lin.share = 16 ∧ s.lin.wdexp = 16 ∧ s.fe = FrontEnd.reset ∧ s.boot.mr0 = List.replicate 32 0 ∧ s.boot.mr1 = List.replicate 32 0

/-! ## Scalar instructions (chapter 5) -/

/-- R86: the members of major 0x02 that add, subtract, multiply and work on bits, in the 64-bit form and the .w form, which
sign-extends its 32-bit result; the latencies are those of R43's table. R86: a shift counts modulo its width; minimum and
maximum compare in the width and signedness of the member. R86: divisions truncate toward zero. A division by zero gives all
ones and the remainder the dividend; the quotient of the most negative number and −1 is that number, and its remainder 0. -/
def Obligations.ScalarArithmeticResults : Prop :=
  (∀ (s : State) (d a b : BitVec 5) (p : BitVec 3), s.rp p = true →
     let x := s.rs a
     let y := s.rs b
     let u : Word := x.setWidth 32
     let v : Word := y.setWidth 32
     let res := fun (i : Instr) (lat : Nat) (r : Dword) => Sends i s lat (.s d r) .scalar
     (res (.add d a b p 0) 1 (x + y) ∧ res (.add d a b p 1) 1 ((u + v).signExtend 64)) ∧
     (res (.sub d a b p 0) 1 (x - y) ∧ res (.sub d a b p 1) 1 ((u - v).signExtend 64)) ∧
     (res (.mul d a b p 0) 3 (x * y) ∧ res (.mul d a b p 1) 3 ((u * v).signExtend 64)) ∧
     (res (.mulh d a b p 0) 3 ((x.signExtend 128 * y.signExtend 128).extractLsb' 64 64) ∧
       res (.mulh d a b p 1) 3 (((u.signExtend 64 * v.signExtend 64).extractLsb' 32 32).signExtend 64)) ∧
     (res (.mulhn d a b p 0) 3 ((x.setWidth 128 * y.setWidth 128).extractLsb' 64 64) ∧
       res (.mulhn d a b p 1) 3 (((u.setWidth 64 * v.setWidth 64).extractLsb' 32 32).signExtend 64)) ∧
     (res (.andOp d a b p 0) 1 (x &&& y) ∧ res (.andOp d a b p 1) 1 ((u &&& v).signExtend 64)) ∧
     (res (.orOp d a b p 0) 1 (x ||| y) ∧ res (.orOp d a b p 1) 1 ((u ||| v).signExtend 64)) ∧
     (res (.xorOp d a b p 0) 1 (x ^^^ y) ∧ res (.xorOp d a b p 1) 1 ((u ^^^ v).signExtend 64))) ∧
  (∀ (s : State) (d a b : BitVec 5) (p : BitVec 3), s.rp p = true →
     let x := s.rs a
     let y := s.rs b
     let u : Word := x.setWidth 32
     let v : Word := y.setWidth 32
     let res := fun (i : Instr) (r : Dword) => Sends i s 1 (.s d r) .scalar
     (res (.shl d a b p 0) (x <<< (y.toNat % 64)) ∧ res (.shl d a b p 1) ((u <<< (y.toNat % 32)).signExtend 64)) ∧
     (res (.shr d a b p 0) (x >>> (y.toNat % 64)) ∧ res (.shr d a b p 1) ((u >>> (y.toNat % 32)).signExtend 64)) ∧
     (res (.sar d a b p 0) (x.sshiftRight (y.toNat % 64)) ∧ res (.sar d a b p 1) ((u.sshiftRight (y.toNat % 32)).signExtend 64)) ∧
     (res (.minOp d a b p 0) (if x.sle y then x else y) ∧ res (.minOp d a b p 1) ((if u.sle v then u else v).signExtend 64)) ∧
     (res (.maxOp d a b p 0) (if y.sle x then x else y) ∧ res (.maxOp d a b p 1) ((if v.sle u then u else v).signExtend 64)) ∧
     (res (.minn d a b p 0) (if x.ule y then x else y) ∧ res (.minn d a b p 1) ((if u.ule v then u else v).signExtend 64)) ∧
     (res (.maxn d a b p 0) (if y.ule x then x else y) ∧ res (.maxn d a b p 1) ((if v.ule u then u else v).signExtend 64))) ∧
  (∀ (s : State) (d a b : BitVec 5) (p : BitVec 3), s.rp p = true →
     let x := s.rs a
     let y := s.rs b
     let u : Word := x.setWidth 32
     let v : Word := y.setWidth 32
     let res := fun (i : Instr) (r : Dword) => Sends i s 18 (.s d r) .scalar
     (res (.div d a b p 0) (if y = 0 then BitVec.allOnes 64 else x.sdiv y) ∧
       res (.div d a b p 1) ((if v = 0 then BitVec.allOnes 32 else u.sdiv v).signExtend 64)) ∧
     (res (.divn d a b p 0) (if y = 0 then BitVec.allOnes 64 else x / y) ∧
       res (.divn d a b p 1) ((if v = 0 then BitVec.allOnes 32 else u / v).signExtend 64)) ∧
     (res (.rem d a b p 0) (if y = 0 then x else x.srem y) ∧ res (.rem d a b p 1) ((if v = 0 then u else u.srem v).signExtend 64)) ∧
     (res (.remn d a b p 0) (if y = 0 then x else x % y) ∧ res (.remn d a b p 1) ((if v = 0 then u else u % v).signExtend 64)))

/-- R87 to R89 and the sel of R86: sel always executes and its pred field chooses; crc folds the bytes of s_b, the lowest
first, into a CRC-32C remainder; the immediates are widened as R21 says; movh shifts its widened immediate in. R90: leading
zeros, trailing zeros, ones, extensions, and bit fields; bfi keeps the bits of s_d outside its field. R21: without a header
and in slot 0 a field has its own width; a header of kind 0 gives slots 1 to 3 eight more bits each, one of kind 1 six. -/
def Obligations.ImmediateAndBitResults : Prop :=
  (∀ (s : State) (d a b : BitVec 5) (p : BitVec 3) (i : BitVec 12) (j : BitVec 10) (c : BitVec 6),
     let x := s.rs a
     let res := fun (i : Instr) (lat : Nat) (r : Dword) => Sends i s lat (.s d r) .scalar
     (res (.sel d a b p 0) 1 (if s.rp p then x else s.rs b) ∧
       res (.sel d a b p 1) 1 (((if s.rp p then x else s.rs b).setWidth 32 : Word).signExtend 64)) ∧
     (s.rp p = true →
       (res (.crc d a b p 0) 2 (BitVec.ofNat 64 (crcFold 8 (x.setWidth 32 : Word).toNat (s.rs b).toNat)) ∧
         res (.crc d a b p 1) 2 (BitVec.ofNat 64 (crcFold 4 (x.setWidth 32 : Word).toNat ((s.rs b).setWidth 32 : Word).toNat))) ∧
       res (.addi d a p i) 1 (x + s.signedField i) ∧
       res (.andi d a p j) 1 (x &&& s.signedField j) ∧
       res (.ori d a p j) 1 (x ||| s.signedField j) ∧
       res (.xori d a p j) 1 (x ^^^ s.signedField j) ∧
       res (.shli d a p c) 1 (x <<< c.toNat) ∧
       res (.shri d a p c) 1 (x >>> c.toNat) ∧
       res (.sari d a p c) 1 (x.sshiftRight c.toNat) ∧
       res (.movi d p i) 1 (s.signedField i) ∧
       res (.movh d p i) 1 ((s.rs d <<< (s.plainField i).2) ||| BitVec.ofNat 64 (s.plainField i).1))) ∧
  (∀ (s : State) (d a : BitVec 5) (o n : BitVec 6),
     let x := s.rs a
     let res := fun (i : Instr) (r : Dword) => Sends i s 1 (.s d r) .scalar
     res (.clz d a) x.clz ∧ res (.ctz d a) x.ctz ∧ res (.popc d a) x.cpop ∧
     res (.sext d a n) ((x.setWidth (n.toNat + 1)).signExtend 64) ∧
     res (.zext d a n) ((x.setWidth (n.toNat + 1)).setWidth 64) ∧
     res (.bfx d a o n) (((x >>> o.toNat).setWidth (n.toNat + 1)).setWidth 64) ∧
     (o.toNat + n.toNat < 64 → ∃ r : Dword, res (.bfi d a o n) r ∧
       ∀ j < 64, r.getLsbD j = if o.toNat ≤ j ∧ j < o.toNat + n.toNat + 1 then x.getLsbD (j - o.toNat) else (s.rs d).getLsbD j)) ∧
  (∀ (s : State) (h : Word), s.ctx = .main → isAgreed s.core.bundle.words[0] = false →
     (s.core.bundle.header = none → ∀ f : BitVec 12, s.signedField f = f.signExtend 64 ∧ s.plainField f = (f.toNat, 12)) ∧
     (s.core.bundle.header = some h → ∀ f : BitVec 12,
       (s.core.slot = 0 → s.signedField f = f.signExtend 64 ∧ s.plainField f = (f.toNat, 12)) ∧
       (s.core.slot = 1 → h.getLsbD 24 = false →
         s.signedField f = (h.extractLsb' 0 8 ++ f : BitVec 20).signExtend 64 ∧
         s.plainField f = ((h.extractLsb' 0 8 ++ f : BitVec 20).toNat, 20)) ∧
       (s.core.slot = 2 → h.getLsbD 24 = false → s.signedField f = (h.extractLsb' 8 8 ++ f : BitVec 20).signExtend 64) ∧
       (s.core.slot = 3 → h.getLsbD 24 = false → s.signedField f = (h.extractLsb' 16 8 ++ f : BitVec 20).signExtend 64) ∧
       (s.core.slot = 1 → h.getLsbD 24 = true →
         s.signedField f = (h.extractLsb' 0 6 ++ f : BitVec 18).signExtend 64 ∧
         s.plainField f = ((h.extractLsb' 0 6 ++ f : BitVec 18).toNat, 18)) ∧
       (s.core.slot = 2 → h.getLsbD 24 = true → s.signedField f = (h.extractLsb' 6 6 ++ f : BitVec 18).signExtend 64) ∧
       (s.core.slot = 3 → h.getLsbD 24 = true → s.signedField f = (h.extractLsb' 12 6 ++ f : BitVec 18).signExtend 64)))

/-- R91: the six comparisons, in 64 bits and in the low 32. R92: operations on predicates and masks; the low three bits of a
field name the register. -/
def Obligations.ComparisonAndPredicateResults : Prop :=
  (∀ (s : State) (d p : BitVec 3) (a b : BitVec 5) (i : BitVec 9), s.rp p = true →
     let x := s.rs a
     let holds := fun (n : Nat) (c : BitVec 3) (x y : BitVec n) =>
       if c = 0 then decide (x = y) else if c = 1 then decide (x ≠ y) else if c = 2 then decide (x.toInt < y.toInt)
       else if c = 3 then decide (x.toInt ≤ y.toInt) else if c = 4 then decide (x.toNat < y.toNat) else decide (x.toNat ≤ y.toNat)
     let res := fun (i : Instr) (r : Bool) => Sends i s 1 (.p d r) .scalar
     ∀ c : BitVec 3, c.toNat < 6 →
       res (.cmp d c 0 p a b) (holds 64 c x (s.rs b)) ∧ res (.cmp d c 1 p a b) (holds 32 c (x.setWidth 32) ((s.rs b).setWidth 32)) ∧
       res (.cmpi d c 0 p a i) (holds 64 c x (s.signedField i)) ∧
       res (.cmpi d c 1 p a i) (holds 32 c (x.setWidth 32) ((s.signedField i).setWidth 32))) ∧
  (∀ (s : State) (d a b : BitVec 5) (p : BitVec 3), s.rp p = true →
     let d3 : BitVec 3 := d.setWidth 3
     let a3 : BitVec 3 := a.setWidth 3
     let b3 : BitVec 3 := b.setWidth 3
     let toP := fun (i : Instr) (r : Bool) => Sends i s 1 (.p d3 r) .no
     let toM := fun (i : Instr) (r : Mask) => Sends i s 1 (.m d3 (BitVec.allOnes 2048) r) .no
     let toS := fun (i : Instr) (r : Dword) => Sends i s 1 (.s d r) .no
     toP (.pand d a b p) (s.rp a3 && s.rp b3) ∧ toP (.por d a b p) (s.rp a3 || s.rp b3) ∧
     toP (.pxor d a b p) (xor (s.rp a3) (s.rp b3)) ∧ toP (.pnot d a p) (!s.rp a3) ∧ toP (.pmov d a p) (s.rp a3) ∧
     toM (.mand d a b p) (s.rm a3 &&& s.rm b3) ∧ toM (.mor d a b p) (s.rm a3 ||| s.rm b3) ∧
     toM (.mxor d a b p) (s.rm a3 ^^^ s.rm b3) ∧ toM (.mnot d a p) (~~~s.rm a3) ∧
     toS (.mpop d a p) ((s.rm a3).cpop.setWidth 64) ∧
     toS (.mfirst d a p) (if s.rm a3 = 0 then BitVec.allOnes 64 else (s.rm a3).ctz.setWidth 64) ∧
     (∃ r : Mask, toM (.mset d a p) r ∧ ∀ j < 2048, r.getLsbD j = decide (j < (s.rs a).toNat)))

/-- R93: a copy takes a register of any cluster as it stands at issue; xcpw writes one of w0 to w15. R94: address registers
and loop-update entries. -/
def Obligations.CopyAndAddressResults : Prop :=
  (∀ (s : State) (d a : BitVec 5) (k : BitVec 2) (p : BitVec 3), s.rp p = true →
     let c := s.core.regs.cluster k.toFin
     Sends (.xcp d a k p) s 2 (.s d (c.rs a)) .no ∧
     Sends (.xcpv d a k p) s 4 (.vec d (BitVec.allOnes 16384) (s.core.regs.rv k.toFin a)) .no ∧
     Sends (.xcpm d a k p) s 4 (.m (d.setWidth 3) (BitVec.allOnes 2048) (c.rm (a.setWidth 3))) .no ∧
     (d.toNat < 16 →
       Sends (.xcpw d a k p) s 4 (.vec (BitVec.ofNat 5 (16 + d.toNat)) (BitVec.allOnes 16384) (s.core.regs.rv k.toFin a)) .no)) ∧
  (∀ (s : State) (d a b : BitVec 5) (p l : BitVec 3) (i : BitVec 9), s.rp p = true →
     let d4 : BitVec 4 := d.setWidth 4
     let a4 : BitVec 4 := a.setWidth 4
     Sends (.aadd d a p b) s 1 (.a d4 (s.ra a4 + s.rs b)) .scalar ∧
     Sends (.aaddImm d a p i) s 1 (.a d4 (s.ra a4 + s.signedField i)) .scalar ∧
     Sends (.amov d a p) s 1 (.a d4 (s.rs a)) .scalar ∧
     Sends (.aread d a p) s 1 (.s d (s.ra a4)) .scalar ∧
     Sends (.luset d a p l) s 1 (.lu d4 l ((s.rs a).setWidth 32)) .scalar ∧
     (s.ctx = .main → Sends (.lurd d a p l) s 1 (.s d ((s.core.regs.delta_ a4 l.toNat).signExtend 64)) .scalar))

/-! ## Vector instructions (chapter 6) -/

/-- R127, R128, R147: floating-point arithmetic, element by element, in FP32, BF16 or FP16. Each element is the exact result
rounded once to nearest even. The fused forms take the destination's old element as their addend. R141 to R146: scaling by a
power of two and the four functions, which round an FP32 algorithm's result. -/
def Obligations.VectorFloatingPointAndFunctionResults : Prop :=
  (∀ (s : State) (d a b : BitVec 5) (m t : BitVec 3), t.toNat < 3 →
     let w := typeWidth t
     let x := fun j => element w j (s.rv a)
     let y := fun j => element w j (s.rv b)
     let z := fun j => element w j (s.rv d)
     let F := typeFmt t
     SendsElementsAndFlags (.vaddF d a b m t) s 4 w d m (fun j => addE F (x j) (y j)) ∧
     SendsElementsAndFlags (.vsubF d a b m t) s 4 w d m (fun j => subE F (x j) (y j)) ∧
     SendsElementsAndFlags (.vmulF d a b m t) s 4 w d m (fun j => mulE F (x j) (y j)) ∧
     SendsElementsAndFlags (.vmin d a b m t) s 4 w d m (fun j => minE F (x j) (y j)) ∧
     SendsElementsAndFlags (.vmax d a b m t) s 4 w d m (fun j => maxE F (x j) (y j)) ∧
     SendsElementsAndFlags (.vfma d a b m t) s 4 w d m (fun j => fmaE F false false (x j) (y j) (z j)) ∧
     SendsElementsAndFlags (.vfms d a b m t) s 4 w d m (fun j => fmaE F false true (x j) (y j) (z j)) ∧
     SendsElementsAndFlags (.vfnma d a b m t) s 4 w d m (fun j => fmaE F true true (x j) (y j) (z j)) ∧
     SendsElementsAndFlags (.vfnms d a b m t) s 4 w d m (fun j => fmaE F true false (x j) (y j) (z j)) ∧
     SendsElementsAndFlags (.vdiv d a b m t) s 20 w d m (fun j => divE F (x j) (y j)) ∧
     SendsElementsAndFlags (.vsqrt d a m t) s 20 w d m (fun j => sqrtE F (x j))) ∧
  (∀ (s : State) (d a b : BitVec 5) (m t : BitVec 3), t.toNat < 3 →
     let w := typeWidth t
     let x := fun j => element w j (s.rv a)
     SendsElementsAndFlags (.vldexp d a b m t) s 3 w d m
       (fun j => ldexpE (typeFmt t) (x j) (BitVec.ofNat w (element w j (s.rv b))).toInt) ∧
     SendsElementsAndFlags (.vexp2 d a m t) s 12 w d m (fun j => viaF32 t exp2E (x j)) ∧
     SendsElementsAndFlags (.vlog2 d a m t) s 12 w d m (fun j => viaF32 t log2E (x j)) ∧
     SendsElementsAndFlags (.vrcp d a m t) s 12 w d m (fun j => viaF32 t rcpE (x j)) ∧
     SendsElementsAndFlags (.vrsqrt d a m t) s 12 w d m (fun j => viaF32 t rsqrtE (x j)))

/-- R127, R135: sign operations change the sign bit alone, in every floating-point type, and class words are one-hot. R130
to R132, R123: compares and ranks write a whole mask register, clear where the mask field disables them and past the last
element. -/
def Obligations.VectorSignClassAndComparisonResults : Prop :=
  (∀ (s : State) (d a b : BitVec 5) (m t : BitVec 3), t.toNat < 4 →
     let w := typeWidth t
     let x := fun j => element w j (s.rv a)
     let y := fun j => element w j (s.rv b)
     let sign := 2 ^ (w - 1)
     SendsElements (.vabs d a m t) s 2 w d m (fun j => x j % sign) .no ∧
     SendsElements (.vneg d a m t) s 2 w d m (fun j => if x j < sign then x j + sign else x j - sign) .no ∧
     SendsElements (.vcopysign d a b m t) s 2 w d m (fun j => x j % sign + y j / sign * sign) .no ∧
     (t.toNat < 3 → SendsElements (.vclass d a m t) s 2 w d m (fun j => classE (typeFmt t) (x j)) .no) ∧
     ∀ v, ∃ k < 10, classE (typeFmt t) v = 2 ^ k) ∧
  (∀ (s : State) (d a b : BitVec 5) (m t : BitVec 3),
     let w := typeWidth t
     let n := 16384 / w
     let d3 : BitVec 3 := d.setWidth 3
     let x := fun j => element w j (s.rv a)
     let y := fun j => element w j (s.rv b)
     (∀ c : BitVec 3, SendsMask (.vcmp d a b m t c) s d3 m n (fun j => cmpE t false c.toNat (x j) (y j))) ∧
     (t.toNat = 5 ∨ t.toNat = 6 →
       SendsMask (.vcmpN d a b m t 0) s d3 m n (fun j => decide (x j < y j)) ∧
       SendsMask (.vcmpN d a b m t 1) s d3 m n (fun j => decide (x j ≤ y j)) ∧
       SendsMask (.vcmpN d a b m t 2) s d3 m n (fun j => decide (y j < x j)) ∧
       SendsMask (.vcmpN d a b m t 3) s d3 m n (fun j => decide (y j ≤ x j))) ∧
     SendsMask (.vrankGt d a b m t) s d3 m n (fun j => aboveE t (x j) (y j)) ∧
     SendsMask (.vrankGe d a b m t) s d3 m n (fun j => !aboveE t (y j) (x j)))

/-- R129: integer arithmetic, element by element, modulo the width. R129: the high half of a product, and saturating sums
and differences, in the signedness of the type and in the unsigned narrow forms. -/
def Obligations.VectorIntegerAndSaturatingResults : Prop :=
  (∀ (s : State) (d a b : BitVec 5) (m t : BitVec 3), 4 ≤ t.toNat →
     let w := typeWidth t
     let x := fun j => element w j (s.rv a)
     let y := fun j => element w j (s.rv b)
     SendsElements (.vaddI d a b m t) s 2 w d m (fun j => x j + y j) (.elems w) ∧
     SendsElements (.vsubI d a b m t) s 2 w d m (fun j => x j + (2 ^ w - y j)) (.elems w) ∧
     SendsElements (.vmulI d a b m t) s 4 w d m (fun j => x j * y j) (.elems w) ∧
     SendsElements (.vand d a b m t) s 2 w d m (fun j => x j &&& y j) (.elems w) ∧
     SendsElements (.vor d a b m t) s 2 w d m (fun j => x j ||| y j) (.elems w) ∧
     SendsElements (.vxor d a b m t) s 2 w d m (fun j => x j ^^^ y j) (.elems w) ∧
     SendsElements (.vnot d a m t) s 2 w d m (fun j => 2 ^ w - 1 - x j) (.elems w) ∧
     SendsElements (.vshl d a b m t) s 2 w d m (fun j => x j * 2 ^ (y j % w)) (.elems w) ∧
     SendsElements (.vshr d a b m t) s 2 w d m (fun j => x j / 2 ^ (y j % w)) (.elems w) ∧
     SendsElements (.vsar d a b m t) s 2 w d m
       (fun j => ((BitVec.ofNat w (x j)).sshiftRight (y j % w)).toNat) (.elems w) ∧
     SendsElements (.vpopc d a m t) s 2 w d m (fun j => (BitVec.ofNat w (x j)).cpop.toNat) (.elems w) ∧
     SendsElements (.vclz d a m t) s 2 w d m (fun j => (BitVec.ofNat w (x j)).clz.toNat) (.elems w)) ∧
  (∀ (s : State) (d a b : BitVec 5) (m t : BitVec 3), 4 ≤ t.toNat →
     let w := typeWidth t
     let x := fun j => element w j (s.rv a)
     let y := fun j => element w j (s.rv b)
     let si := fun (n : Nat) => (BitVec.ofNat w n).toInt
     let bits := fun (z : Int) => (BitVec.ofInt w z).toNat
     let top : Int := 2 ^ (w - 1)
     (t.toNat < 7 →
       SendsElements (.vmulh d a b m t) s 4 w d m (fun j => bits ((si (x j) * si (y j)) / 2 ^ w)) (.elems w) ∧
       SendsElements (.vadds d a b m t) s 2 w d m (fun j => bits (max (-top) (min (top - 1) (si (x j) + si (y j))))) (.elems w) ∧
       SendsElements (.vsubs d a b m t) s 2 w d m (fun j => bits (max (-top) (min (top - 1) (si (x j) - si (y j))))) (.elems w)) ∧
     (t.toNat = 7 →
       SendsElements (.vmulh d a b m t) s 4 w d m (fun j => x j * y j / 2 ^ w) (.elems w) ∧
       SendsElements (.vadds d a b m t) s 2 w d m (fun j => min (2 ^ w - 1) (x j + y j)) (.elems w) ∧
       SendsElements (.vsubs d a b m t) s 2 w d m (fun j => x j - y j) (.elems w)) ∧
     (t.toNat = 5 ∨ t.toNat = 6 →
       SendsElements (.vmulhN d a b m t) s 4 w d m (fun j => x j * y j / 2 ^ w) (.elems w) ∧
       SendsElements (.vaddsN d a b m t) s 2 w d m (fun j => min (2 ^ w - 1) (x j + y j)) (.elems w) ∧
       SendsElements (.vsubsN d a b m t) s 2 w d m (fun j => x j - y j) (.elems w)))

/-- R133: vsel writes every element: that of v_a where the mask has a one, and that of v_b elsewhere. -/
def Obligations.SelectTakesEachElement : Prop :=
  ∀ (s : State) (d a b : BitVec 5) (m t : BitVec 3),
    let w := typeWidth t
    ∃ v, Sends (.vsel d a b m t) s 1 (.vec d (BitVec.allOnes 16384) v) .no ∧
      ∀ j < 16384 / w, element w j v = if (s.rm m).getLsbD j then element w j (s.rv a) else element w j (s.rv b)

/-- R134: vcx puts the higher-ranked of two enabled elements in x and the other in y, and marks the exchanges in bits 0 to N
− 1 of its swap mask, the others of which it clears. R136: permutations, moves, and the passage of one element between a
vector and a scalar register. -/
def Obligations.VectorExchangeAndMoveResults : Prop :=
  (∀ (s : State) (a b : BitVec 5) (m3 m t : BitVec 3),
     let w := typeWidth t
     ∃ (en u v : Vec) (k : Mask),
       exec (.vcx a b m3 m t) s = .next (((s.markLive.emit 3 (.vec a en u) (.pair w v)).emit 3 (.vec b en v) (.pair w u)).emit 3
         (.m m3 (BitVec.allOnes 2048) k)).retire ∧
       (∀ j < 2048, 16384 / w ≤ j → k.getLsbD j = false) ∧
       ∀ j < 16384 / w, let x := element w j (s.rv a); let y := element w j (s.rv b)
         let swap := (s.rm m).getLsbD j && aboveE t y x
         (∀ l < w, en.getLsbD (w * j + l) = (s.rm m).getLsbD j) ∧ k.getLsbD j = swap ∧
         element w j u = (if swap then y else x) ∧ element w j v = (if swap then x else y)) ∧
  (∀ (s : State) (d a b : BitVec 5) (m t : BitVec 3),
     let w := typeWidth t
     let n := 16384 / w
     let x := fun j => element w j (s.rv a)
     let y := fun j => element w j (s.rv b)
     let k := (s.rs b).toNat
     SendsElements (.vperm d a b m t) s 4 w d m
       (fun j => x (if w = 8 then j / 256 * 256 + y j % 256 else y j % n)) .no ∧
     SendsElements (.vrot d a b m t) s 4 w d m (fun j => x ((j + k) % n)) .no ∧
     SendsElements (.vslide d a b m t) s 4 w d m
       (fun j => if 0 ≤ (j : Int) + (s.rs b).toInt ∧ (j : Int) + (s.rs b).toInt < n then x ((j : Int) + (s.rs b).toInt).toNat else 0) .no ∧
     SendsElements (.vbcast d a m t) s 2 w d m (fun _ => (s.rs a).toNat) .no ∧
     SendsElements (.vidx d m t) s 2 w d m (fun j => j) .no ∧
     SendsElements (.vzipLo d a b m t) s 4 w d m (fun j => if j % 2 = 0 then x (j / 2) else y (j / 2)) .no ∧
     SendsElements (.vzipHi d a b m t) s 4 w d m (fun j => if j % 2 = 0 then x (j / 2 + n / 2) else y (j / 2 + n / 2)) .no ∧
     Sends (.vext d a b t) s 2 (.s d (if 4 ≤ t.toNat ∧ t.toNat < 7 then (BitVec.ofNat w (x (k % n))).signExtend 64
       else BitVec.ofNat 64 (x (k % n)))) .no ∧
     (t.toNat = 5 ∨ t.toNat = 6 → Sends (.vextN d a b t) s 2 (.s d (BitVec.ofNat 64 (x (k % n)))) .no) ∧
     ∃ en v : Vec, Sends (.vins d a b t) s 2 (.vec d en v) .no ∧
       (∀ j < n, ∀ l < w, en.getLsbD (w * j + l) = decide (j = k % n)) ∧ element w (k % n) v = (s.rs a).toNat % 2 ^ w)

/-- R137: integer reductions of the enabled elements: the sum modulo 2^64, the least and greatest with the type's own
extreme where no element is enabled, and bitwise and and or. R138: a floating-point reduction is a pairwise tree on elements
widened to FP32, in which a disabled element is −0 for a sum and NaN for the others. R139, R140: a conversion takes as many
elements as both types have; the destination's further elements become zero, whatever the mask. -/
def Obligations.VectorReductionAndConversionResults : Prop :=
  (∀ (s : State) (d a : BitVec 5) (m t : BitVec 3),
     let w := typeWidth t
     let on := (List.range (16384 / w)).filter fun j => (s.rm m).getLsbD j
     let x := fun j => element w j (s.rv a)
     let si := fun j => (BitVec.ofNat w (x j)).toInt
     let res := fun (i : Instr) (r : Dword) => Sends i s 9 (.s d r) .scalar
     let signed := 4 ≤ t.toNat ∧ t.toNat < 7
     (signed →
       res (.vredsum d a m t) (BitVec.ofInt 64 (on.map si).sum) ∧
       res (.vredmax d a m t) (BitVec.ofInt 64 ((on.map si).foldl max (-(2 ^ (w - 1))))) ∧
       res (.vredmin d a m t) (BitVec.ofInt 64 ((on.map si).foldl min (2 ^ (w - 1) - 1)))) ∧
     (t.toNat = 7 →
       res (.vredsum d a m t) (BitVec.ofNat 64 (on.map x).sum) ∧
       res (.vredmax d a m t) (BitVec.ofNat 64 ((on.map x).foldl max 0)) ∧
       res (.vredmin d a m t) (BitVec.ofNat 64 ((on.map x).foldl min (2 ^ w - 1)))) ∧
     (t.toNat = 5 ∨ t.toNat = 6 →
       res (.vredsumN d a m t) (BitVec.ofNat 64 (on.map x).sum) ∧
       res (.vredmaxN d a m t) (BitVec.ofNat 64 ((on.map x).foldl max 0)) ∧
       res (.vredminN d a m t) (BitVec.ofNat 64 ((on.map x).foldl min (2 ^ w - 1)))) ∧
     (4 ≤ t.toNat →
       res (.vredand d a m t) (BitVec.ofNat 64 ((on.map x).foldl (· &&& ·) (2 ^ w - 1))) ∧
       res (.vredor d a m t) (BitVec.ofNat 64 ((on.map x).foldl (· ||| ·) 0))) ∧
     (t.toNat < 3 → ∃ l : Nat → Nat,
       (∀ j < 16384 / w, (s.rm m).getLsbD j → (t.toNat = 0 → l j = x j) ∧
         (0 < t.toNat → (typeFmt t).decode (x j) ≠ .nan true → l j = roundF ((typeFmt t).decode (x j)))) ∧
       let tree := fun (op : Nat → Nat → Elem) (other : Nat) => treeFold op (if t.toNat = 0 then 9 else 10)
         ((List.range (16384 / w)).map fun j => if (s.rm m).getLsbD j then l j else other)
       let sends := fun (i : Instr) (r : List Nat × BitVec 5) =>
         exec i s = .next ((s.markLive.emit 9 (.s d (BitVec.ofNat 64 (r.1.headD 0))) .scalar).emit 9 (.flags r.2)).retire
       sends (.vredsum d a m t) (tree (addE f32) 0x80000000) ∧
       sends (.vredmax d a m t) (tree (maxE f32) f32.nan) ∧
       sends (.vredmin d a m t) (tree (minE f32) f32.nan))) ∧
  (∀ (s : State) (d a : BitVec 5) (m st t r u : BitVec 3),
     let w := typeWidth t
     let n := min (16384 / typeWidth st) (16384 / w)
     let f := fun j => convertE st t (Mode.ofCode r) (u.getLsbD 0) (u.getLsbD 1) (u.getLsbD 2) (element (typeWidth st) j (s.rv a))
     ∃ (en v tail : Vec) (x : BitVec 5) (c : Checked),
       exec (.vcvt d a m st t r u) s = .next (((s.markLive.emit 3 (.vec d en v) c).emit 3 (.vec d tail 0) .no).emit 3 (.flags x)).retire ∧
       (∀ j < 16384 / w, ∀ k < w, en.getLsbD (w * j + k) = (decide (j < n) && (s.rm m).getLsbD j)) ∧
       (∀ j < n, element w j v = (f j).1 % 2 ^ w) ∧
       (∀ j < 16384 / w, ∀ k < w, tail.getLsbD (w * j + k) = decide (n ≤ j)) ∧
       ∀ k < 5, x.getLsbD k = decide (∃ j < n, (s.rm m).getLsbD j ∧ (f j).2.getLsbD k))

/-- R63, R65 to R68, R128, R141, R147: in FP32, BF16 and FP16 a sum, difference, product, fused multiply-add, quotient, square
root and scaling is the exact real value rounded once to nearest even, with its flags; exact zeros, infinities and NaNs as
R67, R68 and R147 lay down. What is exact is said in real numbers, apart from the machine's own arithmetic. -/
def Obligations.FloatingPointIsRoundedOnce : Prop :=
  ∀ F ∈ [f32, bf16, f16],
    (∀ x y z : Nat, finiteWord F x → finiteWord F y → finiteWord F z →
      let X := valueOf F x
      let Y := valueOf F y
      let Z := valueOf F z
      let sx := signBit F x
      let sy := signBit F y
      let sz := signBit F z
      let is := fun (v : ℝ) (neg : Bool) (r : Elem) => (v ≠ 0 → RoundedOnce F .rne false v r) ∧ (v = 0 → ZeroOf F neg r)
      is (X + Y) (sx && sy) (addE F x y) ∧ is (X - Y) (sx && !sy) (subE F x y) ∧ is (X * Y) (xor sx sy) (mulE F x y) ∧
      is (X * Y + Z) (xor sx sy && sz) (fmaE F false false x y z) ∧ is (X * Y - Z) (xor sx sy && !sz) (fmaE F false true x y z) ∧
      is (-(X * Y) - Z) (!(xor sx sy) && !sz) (fmaE F true true x y z) ∧ is (-(X * Y) + Z) (!(xor sx sy) && sz) (fmaE F true false x y z) ∧
      (Y ≠ 0 → is (X / Y) (xor sx sy) (divE F x y)) ∧
      (Y = 0 → X ≠ 0 → divE F x y = (F.inf (xor sx sy), flagDIV)) ∧ (Y = 0 → X = 0 → divE F x y = (F.nan, flagINV)) ∧
      (0 ≤ X → is (Real.sqrt X) sx (sqrtE F x)) ∧ (X < 0 → sqrtE F x = (F.nan, flagINV)) ∧
      (∀ n : ℤ, is (X * (2 : ℝ) ^ n) sx (ldexpE F x n)) ∧
      (∀ b, addE F (F.inf b) y = (F.inf b, 0) ∧ addE F x (F.inf b) = (F.inf b, 0) ∧ subE F (F.inf b) y = (F.inf b, 0) ∧
        subE F x (F.inf b) = (F.inf (!b), 0) ∧ divE F x (F.inf b) = (F.signed (xor sx b) 0, 0) ∧ divE F (F.inf b) y = (F.inf (xor b sy), 0) ∧
        mulE F (F.inf b) y = (if y % 2 ^ (F.exp + F.frac) = 0 then (F.nan, flagINV) else (F.inf (xor b sy), 0)) ∧
        mulE F x (F.inf b) = (if x % 2 ^ (F.exp + F.frac) = 0 then (F.nan, flagINV) else (F.inf (xor sx b), 0)) ∧
        ∀ p d : Bool, fmaE F p d x y (F.inf b) = (F.inf (xor b d), 0) ∧
          (Y = 0 → fmaE F p d (F.inf b) y z = (F.nan, flagINV) ∧ fmaE F p d y (F.inf b) z = (F.nan, flagINV)) ∧
          (Y ≠ 0 → let u := xor (xor b sy) p
            fmaE F p d (F.inf b) y z = (F.inf u, 0) ∧ fmaE F p d y (F.inf b) z = (F.inf u, 0) ∧
            ∀ c : Bool, fmaE F p d (F.inf b) y (F.inf c) = (if u = xor c d then (F.inf u, 0) else (F.nan, flagINV))))) ∧
    (∀ b c : Bool, addE F (F.inf b) (F.inf c) = (if b = c then (F.inf b, 0) else (F.nan, flagINV)) ∧
      subE F (F.inf b) (F.inf c) = (if b = c then (F.nan, flagINV) else (F.inf b, 0)) ∧
      mulE F (F.inf b) (F.inf c) = (F.inf (xor b c), 0) ∧ divE F (F.inf b) (F.inf c) = (F.nan, flagINV) ∧
      sqrtE F (F.inf b) = (if b then (F.nan, flagINV) else (F.inf false, 0)) ∧ ∀ n, ldexpE F (F.inf b) n = (F.inf b, 0)) ∧
    (∀ x y z : Nat, x < 2 ^ F.bits → y < 2 ^ F.bits → z < 2 ^ F.bits →
      (nanWord F x ∨ nanWord F y → ∀ op ∈ [addE, subE, mulE, divE], NanOf F (signallingWord F x ∨ signallingWord F y) (op F x y)) ∧
      (nanWord F x ∨ nanWord F y → ∀ p d, NanOf F (signallingWord F x ∨ signallingWord F y ∨ signallingWord F z) (fmaE F p d x y z)) ∧
      (nanWord F z → finiteWord F x → finiteWord F y → ∀ p d, NanOf F (signallingWord F z) (fmaE F p d x y z)) ∧
      (nanWord F x → NanOf F (signallingWord F x) (sqrtE F x) ∧ ∀ n, NanOf F (signallingWord F x) (ldexpE F x n)))

/-- R65, R66, R71: a conversion rounds the exact value once, in the mode of its rnd field: to a floating-point format, or to an
integer, which saturates with INV; an integer to an integer saturates without a flag. -/
def Obligations.ConversionIsRoundedOnce : Prop :=
  ∀ (st dt : BitVec 3) (mode : Mode) (sat su du : Bool) (x : Nat), x < 2 ^ typeWidth st →
    let F := typeFmt st
    let G := typeFmt dt
    let r := convertE st dt mode sat su du x
    let w := typeWidth dt
    let i : ℤ := if st = 7 ∨ su = true then x else (BitVec.ofNat (typeWidth st) x).toInt
    let lo : ℤ := if dt = 7 ∨ du = true then 0 else -(2 ^ (w - 1))
    let hi : ℤ := if dt = 7 ∨ du = true then 2 ^ w - 1 else 2 ^ (w - 1) - 1
    let bits := fun (c : ℤ) => (BitVec.ofInt w c).toNat
    (st.toNat < 4 → dt.toNat < 4 →
      (finiteWord F x → (valueOf F x ≠ 0 → RoundedOnce G mode sat (valueOf F x) r) ∧ (valueOf F x = 0 → ZeroOf G (signBit F x) r)) ∧
      (F.infs = true → ∀ b, x = F.inf b →
        r = if G.infs then (G.inf b, 0) else if sat then (G.signed b 0x7E, flagOVF ||| flagINX) else (0x7F, flagINV)) ∧
      (F.infs = true → nanWord F x → NanOf G (signallingWord F x) r) ∧
      (F.infs = false → x % 128 = 127 → r = (G.nan, 0))) ∧
    (st.toNat < 4 → 4 ≤ dt.toNat →
      (finiteWord F x → ∃ c : ℤ, RoundToInteger mode (valueOf F x) c ∧
        (c < lo → r = (bits lo, flagINV)) ∧ (hi < c → r = (bits hi, flagINV)) ∧
        (lo ≤ c → c ≤ hi → r.1 = bits c ∧ ((c : ℝ) = valueOf F x → r.2 = 0) ∧ ((c : ℝ) ≠ valueOf F x → r.2 = flagINX))) ∧
      (F.infs = true → ∀ b, x = F.inf b → r = (bits (if b then lo else hi), flagINV)) ∧
      (F.infs = true → nanWord F x → r = (0, flagINV)) ∧ (F.infs = false → x % 128 = 127 → r = (0, flagINV))) ∧
    (4 ≤ st.toNat → dt.toNat < 4 → (i ≠ 0 → RoundedOnce G mode sat i r) ∧ (i = 0 → r = (0, 0))) ∧
    (4 ≤ st.toNat → 4 ≤ dt.toNat → r = (bits (max lo (min hi i)), 0))

/-- R142 to R146: the four functions follow their FP32 algorithms, every step of which is one rounding of an exact real value and
every constant the rounding of the one that the manual names; in BF16 and FP16 the FP32 result is rounded again. -/
def Obligations.FunctionsFollowTheirAlgorithms : Prop :=
  let V := valueOf f32
  (∃ E : ℕ → ℝ, (∀ k, 1 ≤ k → k ≤ 7 → Near (Real.log 2 ^ k / (k.factorial : ℝ)) (E k)) ∧ ∀ x, finiteWord f32 x →
    (128 ≤ V x → exp2E x = (f32.inf false, flagOVF ||| flagINX)) ∧ (V x < -150 → exp2E x = (0, flagUNF ||| flagINX)) ∧
    (-150 ≤ V x → V x < 128 → ∃ (n : ℤ) (p : ℕ → ℝ) (fl : BitVec 5), RoundToInteger .rne (V x) n ∧ p 0 = E 7 ∧
      (∀ i < 6, Near (p i * (V x - n) + E (6 - i)) (p (i + 1))) ∧ Near (p 6 * (V x - n) + 1) (p 7) ∧
      RoundedOnce f32 .rne false (p 7 * (2 : ℝ) ^ n) ((exp2E x).1, fl) ∧
      (V x = n → -149 ≤ n → (exp2E x).2 = 0) ∧
      (V x ≠ n ∨ n < -149 → (exp2E x).2 = if (exp2E x).1 < 0x00800000 then flagUNF ||| flagINX else flagINX))) ∧
  (∃ (SQ : ℝ) (L : ℕ → ℝ), Near (Real.sqrt 2) SQ ∧ (∀ k : ℕ, k ≤ 5 → Near (2 / ((2 * (k : ℝ) + 1) * Real.log 2)) (L k)) ∧
    ∀ x, finiteWord f32 x → 0 < V x → ∃ (e : ℤ) (m v s z p : ℝ) (q : ℕ → ℝ) (fl : BitVec 5),
      V x = m * (2 : ℝ) ^ e ∧ (1 ≤ m ∧ m ≤ SQ ∨ SQ / 2 < m ∧ m < 1) ∧ Near (m + 1) v ∧ Near ((m - 1) / v) s ∧ Near (s * s) z ∧
      q 0 = L 5 ∧ (∀ i < 5, Near (q i * z + L (4 - i)) (q (i + 1))) ∧ Near (q 5 * s) p ∧
      RoundedOnce f32 .rne false (e + p) ((log2E x).1, fl) ∧ (m = 1 → (log2E x).2 = 0) ∧ (m ≠ 1 → (log2E x).2 = flagINX)) ∧
  (∃ C1 C2 : ℝ, Near (48 / 17) C1 ∧ Near (32 / 17) C2 ∧
    ∀ x, finiteWord f32 x → V x ≠ 0 → ∃ (e : ℤ) (m Y : ℝ) (y h : ℕ → ℝ) (fl : BitVec 5),
      |V x| = m * (2 : ℝ) ^ e ∧ 1 ≤ m ∧ m < 2 ∧ (m = 1 → Y = 1) ∧
      (m ≠ 1 → Near (C1 - C2 * m) (y 0) ∧ (∀ i < 3, Near (1 - m * y i) (h i) ∧ Near (y i + y i * h i) (y (i + 1))) ∧ Y = y 3) ∧
      RoundedOnce f32 .rne false (V x / |V x| * Y * (2 : ℝ) ^ (-e)) ((rcpE x).1, fl) ∧
      (m = 1 → (rcpE x).2 = fl) ∧ (m ≠ 1 → (rcpE x).2 = fl ||| flagINX)) ∧
  (∃ A1 B1 A2 B2 : ℝ, Near (13 / 10) A1 ∧ Near (3 / 10) B1 ∧ Near (9 / 10) A2 ∧ Near (1 / 10) B2 ∧
    ∀ x, finiteWord f32 x → 0 < V x → ∃ (e : ℤ) (m Y : ℝ) (t y h : ℕ → ℝ) (fl : BitVec 5),
      V x = m * (2 : ℝ) ^ (2 * e) ∧ 1 ≤ m ∧ m < 4 ∧ (m = 1 → Y = 1) ∧
      (m ≠ 1 → (m < 2 → Near (A1 - B1 * m) (y 0)) ∧ (2 ≤ m → Near (A2 - B2 * m) (y 0)) ∧
        (∀ i < 3, Near (m * y i) (t i) ∧ Near (1 - t i * y i) (h i) ∧ Near (y i + y i / 2 * h i) (y (i + 1))) ∧ Y = y 3) ∧
      RoundedOnce f32 .rne false (Y * (2 : ℝ) ^ (-e)) ((rsqrtE x).1, fl) ∧
      (m = 1 → (rsqrtE x).2 = 0) ∧ (m ≠ 1 → (rsqrtE x).2 = flagINX)) ∧
  (∀ b : Bool, exp2E (f32.inf b) = (if b then 0 else f32.inf false, 0) ∧
    log2E (f32.inf b) = (if b then (f32.nan, flagINV) else (f32.inf false, 0)) ∧ log2E (f32.signed b 0) = (f32.inf true, flagDIV) ∧
    rcpE (f32.inf b) = (f32.signed b 0, 0) ∧ rcpE (f32.signed b 0) = (f32.inf b, flagDIV) ∧
    rsqrtE (f32.inf b) = (if b then (f32.nan, flagINV) else (0, 0)) ∧ rsqrtE (f32.signed b 0) = (f32.inf b, flagDIV)) ∧
  (∀ x, finiteWord f32 x → V x < 0 → log2E x = (f32.nan, flagINV) ∧ rsqrtE x = (f32.nan, flagINV)) ∧
  (∀ x, x < 2 ^ 32 → nanWord f32 x → ∀ f ∈ [exp2E, log2E, rcpE, rsqrtE], NanOf f32 (signallingWord f32 x) (f x)) ∧
  (∀ t : BitVec 3, t = 1 ∨ t = 2 → let G := typeFmt t
    ∀ x, x < 2 ^ 16 → ∀ f ∈ [exp2E, log2E, rcpE, rsqrtE],
      (nanWord G x → NanOf G (signallingWord G x) (viaF32 t f x)) ∧
      (∀ b, x = G.inf b → ∃ q, viaF32 t f x = (q.1, (f (f32.inf b)).2 ||| q.2) ∧
        q = convertE 0 t .rne false false false (f (f32.inf b)).1) ∧
      (finiteWord G x → ∃ y q, finiteWord f32 y ∧ V y = valueOf G x ∧ signBit f32 y = signBit G x ∧
        q = convertE 0 t .rne false false false (f y).1 ∧ viaF32 t f x = (q.1, (f y).2 ||| q.2)))

/-! ## Control instructions (chapter 5) -/

/-- R28: with a false predicate an operation of any of these families has no effect: its slot is over. -/
def Obligations.FalsePredicateMeansNoEffect : Prop :=
  ∀ (s : State) (d a b : BitVec 5) (p q l : BitVec 3) (w : BitVec 1) (k : BitVec 2) (i : BitVec 12) (j r : BitVec 10) (o : BitVec 21)
    (h : BitVec 4) (n : BitVec 9) (c : BitVec 6), s.rp p = false →
    (∀ op ∈ [Instr.add d a b p w, .sub d a b p w, .mul d a b p w, .mulh d a b p w, .mulhn d a b p w, .div d a b p w,
      .divn d a b p w, .rem d a b p w, .remn d a b p w, .andOp d a b p w, .orOp d a b p w, .xorOp d a b p w, .shl d a b p w,
      .shr d a b p w, .sar d a b p w, .minOp d a b p w, .maxOp d a b p w, .minn d a b p w, .maxn d a b p w, .crc d a b p w],
      Skips op s) ∧
    (∀ op ∈ [Instr.addi d a p i, .andi d a p j, .ori d a p j, .xori d a p j, .shli d a p c, .shri d a p c, .sari d a p c,
      .movi d p i, .movh d p i, .cmp q l w p a b, .cmpi q l w p a n, .pand d a b p, .por d a b p, .pxor d a b p, .pnot d a p,
      .pmov d a p, .mand d a b p, .mor d a b p, .mxor d a b p, .mnot d a p, .mpop d a p, .mfirst d a p, .mset d a p],
      Skips op s) ∧
    (∀ op ∈ [Instr.xcp d a k p, .xcpv d a k p, .xcpm d a k p, .xcpw d a k p, .aadd d a p b, .aaddImm d a p n, .amov d a p,
      .aread d a p, .luset d a p l, .lurd d a p l, .br p o, .call p o, .jr p a, .ret p, .bswap p a, .lbrk p, .halt p, .idle p,
      .chkEq a b p, .chkNe a b p, .trapOp j p, .fmt j p, .fmtr d p, .mfsr d r p w k, .mtsr a r p w k, .eret r p, .lyield p,
      .inject a p, .ist d h p n, .acset c a p, .acadd c p n, .acrd c d p], Skips op s)

/-- R95, R96, R80: a taken branch goes on at its target; one outside both regions, or not at a bundle, raises the
instruction-address trap (cause 3) with the target. call also writes s31 with the address of the bundle after it. R97: a
taken bswap exchanges the halves and goes on at s_a; while an ist write to the idle half is uncovered, or the body of an
open loop lies in the active half, it traps (cause 4) and exchanges nothing. -/
def Obligations.BranchesAndHalfSwap : Prop :=
  (∀ (s : State) (p : BitVec 3) (a : BitVec 5) (o : BitVec 21), s.rp p = true → s.ctx = .main →
     let m := s.markLive
     let b : Int := s.core.bundle.addr.toNat
     let good := fun (t : Int) => 0 ≤ t ∧ t < 0x12000 ∧ t % 16 = 0
     let goes := fun (i : Instr) (u : State) (t : Int) =>
       (good t → exec i s = .next (u.flowTo (.jump t.toNat)).retire) ∧
       (¬ good t → exec i s = .next (u.trapOn 3 (BitVec.ofInt 64 t)).retire)
     goes (.br p o) m (b + 16 * o.toInt) ∧
     goes (.call p o) (m.emit 1 (.s 31 (BitVec.ofInt 64 (b + 16))) .no) (b + 16 * o.toInt) ∧
     goes (.jr p a) m (s.rs a).toNat ∧
     goes (.ret p) m (s.rs 31).toNat) ∧
  (∀ (s : State) (p : BitVec 3) (a : BitVec 5), s.rp p = true → s.ctx = .main →
     let t := s.rs a
     let good := t.toNat < 0x12000 ∧ t.toNat % 16 = 0
     let blocked := s.core.loose ≠ [] ∨ ∃ l ∈ s.core.regs.loops.toList, l.valid = true ∧ l.start.toNat < 0x1000
     (good → ¬ blocked → exec (.bswap p a) s = .next (s.markLive.flowTo (.bswap t.toNat)).retire) ∧
     (good → blocked → exec (.bswap p a) s = .next ((s.markLive.trapOn 4 t).flowTo (.bswap t.toNat)).retire) ∧
     (¬ good → ¬ blocked → exec (.bswap p a) s = .next (s.markLive.trapOn 3 t).retire))

/-- R100, R101: a loop opens a level whose body ends e bundles ahead and which runs n times; with a count of zero the bundle
after its end is next; with six levels open it traps (cause 4). An end outside the bundle's region traps with cause 3, and
one beyond the end of the innermost open level with cause 4. R102: lbrk leaves the innermost level; with none open it traps.
DETAIL of a loop with a full stack and of lbrk, and the open group after a loop of count zero, are the model's choice (log
entries 25 and 26). -/
def Obligations.LoopsOpenAndBreak : Prop :=
  (∀ (s : State) (a : BitVec 5) (e : BitVec 15) (k f : BitVec 10), s.ctx = .main → s.core.iss.trap = none →
     let m := s.markLive
     let r := s.core.regs
     let b := s.core.bundle.addr.toNat
     let region := fun (x : Nat) => if x < 0x10000 then 0 else if x < 0x12000 then 1 else 2
     let opens := fun (i : Instr) (n stop : Nat) =>
       (region stop = region b → (r.depth = 0 ∨ stop / 16 ≤ (r.loop (r.depth - 1)).stop.toNat) →
         (n = 0 → exec i s = .next (m.flowTo (.skip stop)).retire) ∧
         (n ≠ 0 → r.depth < 6 → exec i s = .next (m.flowTo (.openLoop (BitVec.ofNat 16 (stop / 16)) (BitVec.ofNat 32 (n - 1)))).retire) ∧
         (n ≠ 0 → r.depth = 6 → exec i s = .next (m.trapOn 4 (BitVec.ofNat 64 n)).retire)) ∧
       (region stop ≠ region b → ∃ t : State, exec i s = .next t.retire ∧
         t.core.iss.trap = some { cause := 3, smask := slotBit s.core.slot, reason := 0, code := 0, detail := BitVec.ofNat 64 stop }) ∧
       (region stop = region b → 0 < r.depth → (r.loop (r.depth - 1)).stop.toNat < stop / 16 →
         ∃ t : State, exec i s = .next t.retire ∧ ∃ x : TrapRec, t.core.iss.trap = some x ∧ x.cause = 4)
     opens (.loop a e) ((s.rs a).toNat % 2 ^ 32) (b + 16 * e.toNat) ∧ opens (.loopi k f) k.toNat (b + 16 * f.toNat)) ∧
  (∀ (s : State) (p : BitVec 3), s.rp p = true →
     (0 < s.core.regs.depth → exec (.lbrk p) s = .next (s.markLive.flowTo .lbrk).retire) ∧
     (s.core.regs.depth = 0 → exec (.lbrk p) s = .next (s.markLive.trapOn 4 0).retire))

/-- R103: lidx writes the index of the level at its issue, zero-extended, and 0 when the level is not open. -/
def Obligations.LoopIndexIsRead : Prop :=
  ∀ (s : State) (d : BitVec 5) (k : BitVec 3), k.toNat < 6 →
    Sends (.lidx d k) s 1
      (.s d (if (s.core.regs.loop k.toNat).valid then (s.core.regs.loop k.toNat).index.setWidth 64 else 0)) .no

/-- R27, R83, R105, R154, R107: nop and shd do nothing; a tack notes that its bundle opens a panel, and traps while a result
of an earlier bundle is still due later; ifence notes that its bundle covers the ist writes issued six cycles before or
earlier. R109, R110, R84, R85: a failed check traps with both operands; a software trap, a halt and an idle are recorded for
the end of the bundle; a software trap of the lining is a lining fault with the next bundle's address as DETAIL. -/
def Obligations.FillersChecksAndStops : Prop :=
  (∀ s : State,
     let m := s.markLive
     exec .nop s = .next m.retire ∧ exec .shd s = .next s.retire ∧
     (s.pendingResult = none → exec .tack s = .next (m.setIss { m.iss with tack := some s.core.regs }).retire) ∧
     (∀ f, s.pendingResult = some f → exec .tack s = .next (m.trapOn 4 (f.baddr.setWidth 64)).retire) ∧
     (s.pendingResult = none ↔ ∀ f ∈ s.core.flights, isResult f = true → f.due ≤ s.run) ∧
     exec .ifence s = .next (m.setIss { m.iss with ifence := true }).retire) ∧
  (∀ (s : State) (a b : BitVec 5) (p : BitVec 3) (c : BitVec 10), s.rp p = true →
     let m := s.markLive
     let both : Dword := ((s.rs a).setWidth 32 : Word) ++ ((s.rs b).setWidth 32 : Word)
     exec (.chkEq a b p) s = .next (if s.rs a = s.rs b then m else m.trapOn 5 both).retire ∧
     exec (.chkNe a b p) s = .next (if s.rs a = s.rs b then m.trapOn 5 both else m).retire ∧
     (s.ctx = .main → s.core.iss.soft = none →
       exec (.trapOp c p) s = .next (m.setIss { m.iss with soft := some (slotBit s.core.slot, c) }).retire) ∧
     (s.ctx = .lining → exec (.trapOp c p) s = .next (m.trapCoded 6 c (BitVec.ofNat 64 (s.lin.bundle.addr.toNat + 16))).retire) ∧
     exec (.halt p) s = .next (m.setIss { m.iss with stop := some .halt }).retire ∧
     exec (.idle p) s = .next (m.setIss { m.iss with stop := some .idle }).retire)

/-! ## Bundles, panels, traps and rollbacks (chapters 2, 3, 5 and 7) -/

/-- R14, R42, R81: a bundle that nothing holds, traps or rolls back and that changes no flow commits: the next bundle of its
region is up, the registers are as they were but for the pc, its stores join the open panel, and the cycle is over. R54,
R107: an ifence of the bundle covers the ist writes issued six cycles before or earlier and empties the loop buffer. R95,
R97, R52, R53, R100, R102: where a committed bundle goes: to a branch's target; to the first body bundle at a loop-back,
which counts the level down and its index up; past the end of each level that closes, from the innermost outward; into a
level that opens; and past the end of a loop with a count of zero. -/
def Obligations.BundlesCommitAndFlow : Prop :=
  (∀ s : State, LastSlotClean s → s.core.iss.flow = .none → s.core.iss.tack = none → s.core.iss.stop = none →
     s.core.iss.soft = none → s.core.iss.agree = none → s.core.iss.notch = none → s.core.iss.seam = none →
     s.core.regs.depth = 0 →
     ∃ t, exec .nop s = .next t ∧
       t.core.regs = { s.core.regs with pc := s.core.bundle.addr + 16 } ∧ t.core.slot = 0 ∧ t.core.landed = false ∧
       t.core.iss = Issue.start ∧ t.status = s.status ∧ t.hold.cause = 0 ∧
       t.core.panel = s.core.panel.map (fun p => { p with
         gates := p.gates ++ s.core.iss.stores.map (·.2), irrev := p.irrev || s.core.iss.irrev, replay := false }) ∧
       (t.core.offEnd = true ↔ s.core.bundle.addr = 0xFFF0 ∨ s.core.bundle.addr = 0x11FF0) ∧
       t.run = s.run + 1 ∧ t.clock = s.clock + 1 ∧
       (s.core.iss.ifence = false → t.core.loose = s.core.loose) ∧
       (s.core.iss.ifence = true → t.core.lbuf = [] ∧ t.core.loose = s.core.loose.filter fun c => decide (s.run < c + 6))) ∧
  (∀ s : State, LastSlotClean s → s.core.iss.tack = none → s.core.iss.stop = none → s.core.iss.soft = none →
     s.core.iss.agree = none → s.core.iss.notch = none → s.core.iss.seam = none →
     let r := s.core.regs
     let n := s.core.bundle.addr.toNat / 16
     let goes := fun (r' : Regs) => ∃ t, exec .nop s = .next t ∧ t.core.regs = r'
     (∀ a, s.core.iss.flow = .jump a → goes { r with pc := BitVec.ofNat 17 a }) ∧
     (∀ a, s.core.iss.flow = .bswap a → ∃ t, exec .nop s = .next t ∧ t.core.regs = { r with pc := BitVec.ofNat 17 a } ∧
       t.imem.swapped = !s.imem.swapped) ∧
     (∀ a k, s.core.iss.flow = .openLoop a k → goes
       { r.setLoop r.depth ⟨true, BitVec.ofNat 16 (n + 1), a, k, 0⟩ with pc := s.core.bundle.addr + 16 }) ∧
     (∀ d, r.depth = d + 1 →
       let l := r.loop d
       (s.core.iss.flow = .none → l.valid = true → l.stop.toNat = n → l.count ≠ 0 →
         ∃ t, exec .nop s = .next t ∧ t.core.regs = { r.setLoop d { l with count := l.count - 1, index := l.index + 1 } with
           pc := BitVec.ofNat 17 (l.start.toNat * 16) } ∧ t.core.backs = [d] ∧ t.core.group = []) ∧
       (s.core.iss.flow = .none → l.stop.toNat ≠ n → goes { r with pc := s.core.bundle.addr + 16 }) ∧
       (s.core.iss.flow = .lbrk → goes { r.setLoop d { l with valid := false } with
         pc := BitVec.ofNat 17 (l.stop.toNat * 16 + 16) })) ∧
     (∀ e, s.core.iss.flow = .skip e → goes { r with pc := BitVec.ofNat 17 (e + 16) }) ∧
     (∀ j ≤ r.depth, s.core.iss.flow = .none →
       (∀ i, j ≤ i → i < r.depth → (r.loop i).valid = true ∧ (r.loop i).stop.toNat = n ∧ (r.loop i).count = 0) →
       let closed := (List.range' j (r.depth - j)).foldr (fun i (q : Regs) => q.setLoop i { q.loop i with valid := false }) r
       (j = 0 ∨ (r.loop (j - 1)).stop.toNat ≠ n → goes { closed with pc := s.core.bundle.addr + 16 }) ∧
       (∀ d, j = d + 1 → let l := r.loop d
         l.valid = true → l.stop.toNat = n → l.count ≠ 0 →
         ∃ t, exec .nop s = .next t ∧ t.core.regs = { closed.setLoop d { l with count := l.count - 1, index := l.index + 1 } with
           pc := BitVec.ofNat 17 (l.start.toNat * 16) } ∧ t.core.backs = [d])))

/-- R105, R153, R156, R157: a tack commits the open panel, whose stores leave for memory and whose commands are released,
and opens a new one whose entry is the tack's own bundle with the registers at its issue. The stores leave in order; of
their bytes those stay out that something else writes in the same cycle, which is nothing when nothing else is under way.
That the old panel's entries of the tack buffer are free at once is the model's reading (log entry 24). -/
def Obligations.TackCommitsAndOpensPanel : Prop :=
  ∀ (s : State) (r : Regs), LastSlotClean s → s.core.iss.tack = some r → s.core.iss.stop = none → s.core.iss.soft = none →
    s.core.iss.agree = none → s.core.iss.notch = none → s.core.iss.seam = none →
    (∀ p, s.core.panel = some p → p.replay = false) →
    let left := s.drains ++ (match s.core.panel with | some p => p.gates.map (fun g => { g with commit := s.run }) | none => [])
    ∃ t, exec .nop s = .next t ∧
      t.core.panel = some { entryPc := s.core.bundle.addr, entry := r, irrev := s.core.iss.irrev, retry := 0, eaten := [],
                            replay := false, gates := s.core.iss.stores.map (·.2) } ∧
      t.drains.map (fun g => (g.iss, g.local_)) = left.map (fun g => (g.iss, g.local_)) ∧
      (s.running = [] → s.arriving = [] → s.lin.stores = [] → s.core.flights = [] → s.core.iss.performs = [] → t.drains = left) ∧
      ∀ c ∈ s.core.queued, c.id < s.save.nextId → ∃ c' ∈ t.core.queued, c' = { c with held := false }

/-- R45 to R48: a bundle that is held issues nothing in this cycle: the core is as it was before the cycle, the lowest cause is in
FCAUSE, and core time goes on while running time does not. A freeze with cause 1, 2, 3 or 6 among its causes is timed, and the
watchdog counts while cause 4 or 5 is one of them. -/
def Obligations.HeldBundleChangesNothing : Prop :=
  ∀ (s : State) (c : Nat), s.ctx = .main → s.core.slot = 3 → s.core.iss.hold = some c → s.liningReady = false →
    ∃ t, exec .nop s = .next t ∧ t.core.regs = s.save.regs ∧ t.core.panel = s.save.panel ∧ t.core.queued = s.save.queued ∧
      t.core.slot = s.save.slot ∧ t.hold.cause = c ∧ t.sys = s.sys ∧ t.imem = s.imem ∧ t.clock = s.clock + 1 ∧ t.run = s.run ∧
      t.hold.len = (if ∃ x ∈ c :: s.core.iss.causes, x = 1 ∨ x = 2 ∨ x = 3 ∨ x = 6 then s.hold.len + 1 else 0) ∧
      t.hold.wdog = (if ∃ x ∈ c :: s.core.iss.causes, x = 4 ∨ x = 5 then s.hold.wdog + 1 else 0)

/-- R148 to R151, R49: a trap leaves the registers as its bundle found them, writes TRAPINFO, stops the main context, ends
its group, and calls the lining at 0x40 times its cause. R151: of several traps of one bundle the lowest cause is taken,
with the slots that raised it gathered. That the registers are those the bundle found, with the results of its cycle landed,
is the model's reading (log entry 23); that of two slots with one cause the lower slot's DETAIL and CODE stand is its choice
(log entry 58). -/
def Obligations.TrapsAreTaken : Prop :=
  (∀ (s : State) (x : TrapRec), s.ctx = .main → s.core.slot = 3 → s.core.iss.hold = none → s.core.iss.trap = some x →
     s.core.iss.trigger = none → s.sys.engine = none → overflowTrap s = none → s.liningReady = false → s.runsAhead = false →
     s.sys.inject.getLsbD 63 = false → x.cause < 256 → x.reason < 8 →
     ∃ t, exec .nop s = .next t ∧ t.core.regs = s.found.regs ∧ t.core.panel = s.found.panel ∧ t.core.queued = s.found.queued ∧
       t.status = .trapped ∧ t.core.group = [] ∧ t.hold.cause = 9 ∧ t.imem = s.imem ∧ t.sys.trapinfo1 = x.detail ∧
       t.sys.trapinfo0.toNat / 2 ^ 56 = x.cause ∧
       t.sys.trapinfo0.toNat % 2 ^ 17 = s.core.bundle.addr.toNat ∧
       (∃ e ∈ t.lin.pend, e.entry = 0x40 * x.cause)) ∧
  (∀ (s : State) (c : Nat) (d : Dword),
     (s.trapOn c d).iss.trap = some (match s.iss.trap with
       | none => { cause := c, smask := slotBit s.slot, reason := 0, code := 0, detail := d }
       | some o => if o.cause < c then o else if c < o.cause then
           { cause := c, smask := slotBit s.slot, reason := 0, code := 0, detail := d }
           else { o with smask := o.smask ||| slotBit s.slot }))

/-- R159 to R162, R166, R167: a trigger in a panel that is not irrevocable rewinds to the panel's entry: the registers are
those of the entry, results on their way, gated stores and held commands are gone, and the core is frozen for eight cycles.
A handle or page fault, causes 5 and 6, ends in the trap of cause 8 with the trigger's DETAIL; a poisoned line that the
panel consumed before ends in the trap of cause 10 with its address; of the others the first two are replayed, each raising
the retry count, and the third ends in the trap of cause 9. The lines consumed are known to the panel. R158, R167: in an
irrevocable panel a trigger is the trap of cause 11, and the poisoned lines that it consumed are known to the panel. What
the bundle found is the model's reading (log entry 23), and so is what counts as the same panel, which rewinds RETRY counts
(log entry 13) and that trap 10 comes before trap 9 (log entry 72). -/
def Obligations.TriggersRollBackOrTrap : Prop :=
  (∀ (s : State) (g : Trigger) (p : Panel), s.ctx = .main → s.core.slot = 3 → s.core.iss.hold = none → s.core.iss.trap = none →
     s.core.iss.trigger = some g → s.sys.engine = none → overflowTrap s = none → s.liningReady = false → s.runsAhead = false →
     s.sys.inject.getLsbD 63 = false → s.found.panel = some p → p.irrev = false → g.cause < 16 →
     let again := g.lines.find? fun l => p.eaten.contains l
     let faults := g.cause = 5 ∨ g.cause = 6
     let trap := fun (c : Nat) (d : Dword) =>
       RewindAfter.trap { cause := c, smask := 0, reason := 0, code := 0, detail := d }
     ∃ t, exec .nop s = .next t ∧ t.core.regs = { p.entry with pc := p.entryPc } ∧ t.core.flights = [] ∧
       (∃ q, t.core.panel = some q ∧ q.entryPc = p.entryPc ∧ q.entry = p.entry ∧ q.gates = [] ∧ q.irrev = false ∧
         q.retry = (if ¬ faults ∧ again = none ∧ p.retry < 2 then p.retry + 1 else p.retry) ∧
         ∀ l, l ∈ q.eaten ↔ l ∈ p.eaten ∨ l ∈ g.lines) ∧
       (∀ c ∈ t.core.queued, c.held = false) ∧
       t.hold.cause = 9 ∧
       (∃ after, t.rewind = some { until_ := s.clock + 8, after := after } ∧ (faults → after = trap 8 g.detail) ∧
         (¬ faults → ∀ l, again = some l → after = trap 10 (BitVec.ofNat 64 (l * 64))) ∧
         (¬ faults → again = none → after = if p.retry < 2 then .replay else trap 9 0)) ∧
       (g.cause = 5 → s.xlate.confl = 0 →
         t.sys.handleinfo = BitVec.ofNat 64 (g.info.toNat + s.sys.handleinfo.toNat / 2 ^ 32 % 2 ^ 16 * 2 ^ 32)) ∧
       t.sys.mcinfo0.toNat / 2 ^ 60 = g.cause ∧ t.sys.mcinfo0.toNat % 2 ^ 32 = g.word.toNat) ∧
  (∀ (s : State) (g : Trigger) (p : Panel), s.ctx = .main → s.core.slot = 3 → s.core.iss.hold = none → s.core.iss.trap = none →
     s.core.iss.trigger = some g → s.sys.engine = none → overflowTrap s = none → s.liningReady = false → s.runsAhead = false →
     s.sys.inject.getLsbD 63 = false → s.found.panel = some p → p.irrev = true →
     ∃ t, exec .nop s = .next t ∧ t.core.regs = s.found.regs ∧ t.status = .trapped ∧
       t.sys.trapinfo0.toNat / 2 ^ 56 = 11 ∧
       t.core.panel = some { p with eaten := t.core.panel.elim [] (·.eaten) } ∧
       ∀ l, l ∈ (t.core.panel.elim [] (·.eaten)) ↔ l ∈ p.eaten ∨ l ∈ g.lines)

/-- R84, R85, R110, R171: halt, and a seam that stops the core, commit the panel with the bundle's own stores, which leave
for memory, and its commands, which are released; a seam leaves the pc on its own bundle. idle stops and leaves the panel
open, which its bundle's stores join. A software trap is taken after its bundle has committed likewise, with the address of
the bundle that would have been next. Bytes of leaving stores that something else writes in the same cycle stay out, which
is nothing when nothing else is under way. That a halt commits the stores of its own bundle, and leaves the pc at the next
one, are the model's readings (log entries 44 and 49). -/
def Obligations.StopsAtTheEndOfABundle : Prop :=
  ∀ s : State, LastSlotClean s → s.core.iss.flow = .none → s.core.iss.tack = none → s.core.iss.agree = none →
    s.core.iss.notch = none → s.core.regs.depth = 0 →
    let open_ := s.core.panel.map fun p => { p with
      gates := p.gates ++ s.core.iss.stores.map (·.2), irrev := p.irrev || s.core.iss.irrev, replay := false }
    let left := s.drains ++ (match open_ with | some p => p.gates.map (fun g => { g with commit := s.run + 1 }) | none => [])
    let leaves := fun (t : State) => t.core.panel = none ∧ t.drains.map (fun g => (g.iss, g.local_)) = left.map (fun g => (g.iss, g.local_)) ∧
      (s.running = [] → s.arriving = [] → s.lin.stores = [] → s.core.flights = [] → s.core.iss.performs = [] → t.drains = left) ∧
      ∀ c ∈ s.core.queued, c.id < s.core.nextId → ∃ c' ∈ t.core.queued, c' = { c with held := false }
    let next := { s.core.regs with pc := s.core.bundle.addr + 16 }
    (s.core.iss.stop = some .halt → s.core.iss.soft = none → s.core.iss.seam = none →
      ∃ t, exec .nop s = .next t ∧ t.status = .halting none ∧ t.core.regs = next ∧ leaves t) ∧
    (∀ d n, s.core.iss.stop = some (.seam d) → s.core.iss.soft = none → s.core.iss.seam = some n →
      ∃ t, exec .nop s = .next t ∧ t.status = .halting (some d) ∧ t.core.regs = { s.core.regs with pc := s.core.bundle.addr } ∧
        t.sys.lastSeam = n ∧ leaves t) ∧
    (s.core.iss.stop = some .idle → s.core.iss.soft = none → s.core.iss.seam = none →
      ∃ t, exec .nop s = .next t ∧ t.status = .idle ∧ t.core.panel = open_ ∧ t.core.regs = next) ∧
    (∀ m c, s.core.iss.stop = none → s.core.iss.soft = some (m, c) → s.core.iss.seam = none →
      ∃ t, exec .nop s = .next t ∧ t.status = .trapped ∧ t.core.regs = next ∧ t.core.panel = open_ ∧
        t.sys.trapinfo0.toNat / 2 ^ 56 = 6 ∧ t.sys.trapinfo1 = (s.core.bundle.addr + 16).setWidth 64)

/-! ## System instructions (chapter 6) and agreement (chapter 13) -/

/-- R112 to R116, R55: fmt and fmtr; mfsr and mtsr with C = 0, each for the registers that its context may read or write and
the values that their layouts admit, a reserved bit among them being no such value; with C = 1 the lining reads and writes
registers of the main context while it is stopped. Everything else is the trap of cause 4. R117 to R120: eret with code 0 or
1 lets a stopped main context go on, at TRAPINFO's bundle or the one after it, after a software trap at the address in
TRAPINFO1, after an idle at its pc; code 2 rolls it back. lyield and inject; each of the three is for the lining only.
DETAIL of the traps of fmtr, eret, lyield and inject is the model's choice (log entry 25). -/
def Obligations.SystemAndLiningRegisters : Prop :=
  (∀ (s : State) (d a : BitVec 5) (r : BitVec 10) (p : BitVec 3) (k : BitVec 2), s.rp p = true →
     let n := r.toNat
     let v := s.rs a
     let main := s.ctx = .main
     let stopped := s.status ≠ .running ∧ ∀ d, s.status ≠ .halting d
     let clear := fun (lo len : Nat) => v.toNat / 2 ^ lo % 2 ^ len = 0
     let reads := fun (w : Dword) => Sends (.mfsr d r p 0 k) s 1 (.s d w) .no
     let traps := fun (i : Instr) (x : Dword) => exec i s = .next (s.markLive.trapOn 4 x).retire
     (main → Sends (.fmt r p) s 4 (.fmt (r.setWidth 32)) .no ∧ Sends (.fmtr d p) s 1 (.s d (s.core.regs.fmt.setWidth 64)) .no) ∧
     (¬ main → traps (.fmt r p) (r.setWidth 64) ∧ traps (.fmtr d p) 0) ∧
     (main → (n = 0 → reads (s.core.regs.fmt.setWidth 64)) ∧
       (∀ c : Fin 4, n = c.val + 1 → reads ((s.core.regs.cluster c).fp.setWidth 64))) ∧
     (n = 5 → reads s.lshare) ∧ (n = 6 → reads (BitVec.ofNat 64 (s.ptime / 9))) ∧
     (n = 0xE → reads s.sys.agstat) ∧ (n = 0xF → reads s.sys.seamreq) ∧ (n = 0x10 → reads s.tackstat) ∧
     (n = 0x11 → reads s.sys.handleinfo) ∧ (n = 0x12 → reads s.clstat) ∧
     (¬ main → (n = 8 → reads s.sys.trapinfo0) ∧ (n = 9 → reads s.sys.trapinfo1) ∧ (n = 0xA → reads s.sys.mcinfo0) ∧
       (n = 0xB → reads s.sys.mcinfo1) ∧ (n = 0xC → reads s.sys.mcinfo2) ∧ (n = 0xD → reads s.sys.mcinfo3) ∧
       (n = 0x13 → reads s.sys.inject) ∧ (n = 0x14 → reads s.lin.evinfo)) ∧
     (main → (n = 7 ∨ 8 ≤ n ∧ n ≤ 0xD ∨ 0x13 ≤ n) → traps (.mfsr d r p 0 k) (r.setWidth 64)) ∧
     (¬ main → (n < 5 ∨ n = 7 ∨ 0x15 ≤ n) → traps (.mfsr d r p 0 k) (r.setWidth 64)) ∧
     (let writes := fun (legal : Prop) => (legal → Sends (.mtsr a r p 0 k) s 1 (.sys n v) .no) ∧ (¬ legal → traps (.mtsr a r p 0 k) v)
      let fmt := v.extractLsb' 7 25 = 0 ∧ (clear 3 3 ∨ v.extractLsb' 3 3 = 1 ∨ v.extractLsb' 3 3 = 3) ∧
         (v.extractLsb' 0 3 = 1 ∨ v.extractLsb' 0 3 = 3)
      (main → (n = 0 → (fmt → Sends (.mtsr a r p 0 k) s 4 (.fmt (v.extractLsb' 0 32)) .no) ∧ (¬ fmt → traps (.mtsr a r p 0 k) v)) ∧
       (1 ≤ n → n ≤ 4 → writes (clear 5 27)) ∧ (5 ≤ n → traps (.mtsr a r p 0 k) v)) ∧
      (¬ main → (n = 5 → writes (clear 21 7)) ∧ (n = 8 → writes (clear 17 22)) ∧ (n = 9 ∨ n = 0xC ∨ n = 0xD ∨ n = 0xE → writes True) ∧
       (n = 0xA → writes (clear 32 1)) ∧ (n = 0xB → writes (clear 49 15 ∧ clear 17 15)) ∧ (n = 0xF → writes (clear 48 3)) ∧
       (n = 0x11 → writes (clear 48 6)) ∧ (n = 0x13 → writes (injectLegal v = true)) ∧
       (n < 5 ∨ n = 6 ∨ n = 7 ∨ n = 0x10 ∨ n = 0x12 ∨ 0x14 ≤ n → traps (.mtsr a r p 0 k) v))) ∧
     (¬ main → stopped → Sends (.mfsr d r p 1 k) s 1 (.s d (s.core.regs.readContext n k.toFin)) .no ∧
       ((n = 0x51 → sysLegal 0 v = true) → (n = 0x28 → clear 5 27) → Sends (.mtsr a r p 1 k) s 1 (.ctxReg r k v) .no) ∧
       (n = 0x51 ∧ sysLegal 0 v = false ∨ n = 0x28 ∧ ¬ clear 5 27 → traps (.mtsr a r p 1 k) v)) ∧
     (main ∨ ¬ stopped → traps (.mfsr d r p 1 k) (r.setWidth 64) ∧ traps (.mtsr a r p 1 k) v)) ∧
  (∀ (s : State) (c : BitVec 10) (p : BitVec 3) (a : BitVec 5), s.rp p = true →
     let m := s.markLive
     let cause := s.sys.trapinfo0.toNat / 2 ^ 56
     let bundle := s.sys.trapinfo0.toNat % 2 ^ 17
     let goesOn := fun (x : Nat) => ∃ t : State, exec (.eret c p) s = .next t.retire ∧ t.status = .running ∧
       t.core.regs = { s.core.regs with pc := BitVec.ofNat 17 x } ∧ t.core.flights = s.core.flights ∧ t.core.z = s.core.z ∧
       t.mem = s.mem ∧ t.imem = s.imem
     let bad := fun (i : Instr) (x : Dword) => exec i s = .next (m.trapOn 4 x).retire
     (s.ctx = .lining → s.status = .trapped → c = 0 → bundle < 0x12000 → bundle % 16 = 0 → goesOn bundle) ∧
     (s.ctx = .lining → s.status = .trapped → c = 1 → cause ≠ 6 → bundle + 16 < 0x12000 → bundle % 16 = 0 → goesOn (bundle + 16)) ∧
     (s.ctx = .lining → s.status = .trapped → c = 1 → cause = 6 → s.sys.trapinfo1.toNat < 0x12000 → s.sys.trapinfo1.toNat % 16 = 0 →
       goesOn s.sys.trapinfo1.toNat) ∧
     (s.ctx = .lining → s.status = .idle → c.toNat < 2 → s.core.regs.pc.toNat < 0x12000 → s.core.regs.pc.toNat % 16 = 0 →
       goesOn s.core.regs.pc.toNat) ∧
     (s.ctx = .lining → s.status = .trapped → c = 2 → ∀ q, s.core.panel = some q →
       ∃ t : State, exec (.eret c p) s = .next t.retire ∧ t.status = .running ∧ t.core.regs = { q.entry with pc := q.entryPc } ∧
         t.rewind = some { until_ := s.clock + 9, after := .replay } ∧ t.core.flights = []) ∧
     (s.ctx = .main ∨ s.status ≠ .trapped ∧ s.status ≠ .idle → bad (.eret c p) (c.setWidth 64)) ∧
     (s.ctx = .lining → exec (.lyield p) s = .next ({ m with lin := { m.lin with yielded := true } } : State).retire) ∧
     (s.ctx = .lining → injectLegal (s.rs a) = true → exec (.inject a p) s = .next
       ({ m with sys := { m.sys with inject := s.rs a ||| 0x8000000000000000#64 } } : State).retire) ∧
     (s.ctx = .main → bad (.lyield p) 0 ∧ bad (.inject a p) (s.rs a)) ∧
     (injectLegal (s.rs a) = false → bad (.inject a p) (s.rs a)))

/-- R311, R313, R316, R317: agr and agv act as a tack, step ASEQ and form their contribution under the old one; agj asks to
join; agst reads the report of its group. R168 to R171: a notch is held under cause 7 while a partner's hold stands below it
and has not passed, and traps with cause 12 when the wait has run out; otherwise its number takes effect with its bundle. A
seam takes effect likewise, and stops the core at or beyond a cut that SEAMREQ gives. R370: with PEND set, a seam that names
an entry beyond its table traps, with that entry's number as DETAIL. DETAIL of the traps of agj, the number of a seam that
the table lacks, and that a seam's number and CUT are compared without a sign, are the model's choice (log entries 25, 16
and 74). -/
def Obligations.AgreementNotchAndSeam : Prop :=
  (∀ (s : State) (n x y d : BitVec 5) (op cc : BitVec 3) (hint : BitVec 2) (nr : BitVec 1) (hd : Word), s.ctx = .main →
     let g := s.core.regs.rg n
     let off : Int := (hd.extractLsb' 0 14).toInt
     let tag := hd.extractLsb' 14 10
     let here : Int := s.core.bundle.addr.toNat
     let issues := fun (i : Instr) (kind : AgreeKind) (t : Int) (z : Contribution) (ahead : Option Bool) =>
       0 ≤ t → t < 0x12000 → t % 16 = 0 →
       ∃ (u : State) (w : AgreeWait) (f : Flight), exec i s = .next u.retire ∧ u.core.iss.agree = some w ∧ w.slot = n ∧
         w.kind = kind ∧ w.gid = g.gid.toNat ∧ w.seq = g.aseq ∧ w.tag = tag ∧ w.target = t.toNat ∧ w.ahead = ahead ∧
         w.part = some z ∧ w.nr = (nr == 1) ∧ u.core.iss.tack = some s.core.regs ∧ u.core.iss.trap = s.core.iss.trap ∧
         u.core.iss.flow = (if ahead = some true then .arm t.toNat else s.core.iss.flow) ∧ u.core.regs = s.core.regs ∧
         u.core.flights = s.core.flights ++ [f] ∧ f.due = s.run + 1 ∧ f.land = .aseq n (g.aseq + 1)
     (s.core.bundle.header = some hd → tag ≠ 1023 → g.v = true → g.ops.getLsbD op.toNat = true → s.pendingResult = none →
       issues (.agr n x y op cc hint nr) .agr (here + 16 * off)
         { gid := g.gid.toNat, rank := g.rank.toNat, die := s.id.die, core := s.id.core, seq := g.aseq, tag := tag, agv := false,
           op := op, cc := cc, value := (s.rs x).setWidth 32, ref := (s.rs y).setWidth 32 }
         (if hint = 1 then some true else if hint = 2 then some false else none) ∧
       issues (.agv n d x op nr) (.agv d) here
         { gid := g.gid.toNat, rank := g.rank.toNat, die := s.id.die, core := s.id.core, seq := g.aseq, tag := tag, agv := true,
           op := op, cc := 0, value := (s.rs x).setWidth 32, ref := 0 } none) ∧
     (g.v = true → ∃ (u : State) (w : AgreeWait), exec (.agj n) s = .next u.retire ∧ u.core.iss.agree = some w ∧ w.slot = n ∧
       w.kind = .agj ∧ w.gid = g.gid.toNat ∧ w.part = none ∧ u.core.regs = s.core.regs ∧ u.core.iss.trap = s.core.iss.trap) ∧
     (g.v = false → exec (.agj n) s = .next (s.markLive.trapOn 4 (s.opword.setWidth 64)).retire) ∧
     (let v := s.rs x
      let r := s.report n.toNat
      let w := v.toNat / 2 ^ 10 % 2 ^ 14
      let word := fun (m : Nat) => BitVec.ofNat 64 (m / 2 ^ (64 * w))
      v.toNat < 2 ^ 26 → (v.getLsbD 25 = false ∨ v.getLsbD 24 = false) →
       (v.getLsbD 25 = true → Sends (.agst n d x) s 2 (.s d g.word) .no) ∧
       (v.getLsbD 24 = true → Sends (.agst n d x) s 2 (.s d (word r.members)) .no) ∧
       (v.getLsbD 25 = false → v.getLsbD 24 = false → Sends (.agst n d x) s 2 (.s d
         (match r.tags.find? (fun x => x.1 == v.extractLsb' 0 10) with | some x => word x.2 | none => 0)) .no)) ∧
     (2 ^ 26 ≤ (s.rs x).toNat → exec (.agst n d x) s = .next (s.markLive.trapOn 4 (s.rs x)).retire)) ∧
  (∀ (s : State) (n d : BitVec 16),
     let m := s.markLive
     let held := ∃ h ∈ s.sys.holds, h.carried.toNat < n.toNat ∧ h.passed.toNat < n.toNat
     let req := s.sys.seamreq
     let num := s.seamNumber d.toNat
     (¬ held → exec (.notch n) s = .next (m.setIss { m.iss with notch := some n }).retire) ∧
     (held → s.waitHere 2 = none → ∃ u : State, u.core = m.core ∧ u.sys = m.sys ∧ exec (.notch n) s = .next (u.holdOn 7).retire) ∧
     (held → ∀ w, s.waitHere 2 = some w → w.expired = true →
       exec (.notch n) s = .next (m.trapOn 12 (n.setWidth 64)).retire) ∧
     (held → ∀ w, s.waitHere 2 = some w → w.expired = false → exec (.notch n) s = .next (m.holdOn 7).retire) ∧
     (req.getLsbD 63 = false → exec (.seam d) s = .next (m.setIss { m.iss with seam := some num }).retire) ∧
     (req.getLsbD 63 = true → s.sys.seams.length ≤ d.toNat →
       exec (.seam d) s = .next (m.trapOn 4 (d.setWidth 64)).retire) ∧
     (req.getLsbD 63 = true → d.toNat < s.sys.seams.length → req.getLsbD 62 = true → num.toNat < req.toNat % 2 ^ 32 →
       exec (.seam d) s = .next (m.setIss { m.iss with seam := some num }).retire) ∧
     (req.getLsbD 63 = true → d.toNat < s.sys.seams.length → req.getLsbD 62 = true → req.toNat % 2 ^ 32 ≤ num.toNat →
       exec (.seam d) s = .next (m.setIss { m.iss with stop := some (.seam d), seam := some num }).retire))

/-! ## Loads, stores, atomics and handles (chapter 14) -/

/-- R182, R215, R217, R218, R43: where nothing forbids it, ld reads 1, 2, 4 or 8 bytes at the handle's base plus a + imm ×
size, and st puts the low bytes of s_d there; codes 0 to 2 extend the sign. R209, R210, R181, R215: an ld or st through a
handle that is not valid, beyond its page or without permission is the trigger of cause 5, with HANDLEINFO's reason and
kind; one of a kind that the context may not use, or one that is not aligned, is the trap of cause 4. -/
def Obligations.ScalarAccesses : Prop :=
  (∀ (s : State) (d : BitVec 5) (h a : BitVec 4) (w : BitVec 3) (i : BitVec 9),
     let n := 2 ^ (w.toNat % 4)
     let o := (s.ra a + s.signedField i * BitVec.ofNat 64 n).toNat
     let hd := s.rh h
     let lat := if s.isOwnScratch hd then 6 else if s.isVault hd && hd.offset / 2 ^ 28 == s.ownQuad then 20 else 48
     (Reaches s h hd [o] n n [.r] .read →
       SendsLoad (.ld d h a w i) s lat (.scalar d (decide (w.toNat < 4))) [⟨0, hd.pbase.toNat + o, n⟩]) ∧
     (Reaches s h hd [o] n n (if hd.region = 3 then [.m] else [.w]) .store →
       SendsStore (.st d h a w i) s hd lat (cellsAt (hd.pbase.toNat + o) (leBytes n (s.rs d).toNat)))) ∧
  (∀ (s : State) (d : BitVec 5) (h a : BitVec 4) (w : BitVec 3) (i : BitVec 9),
     let n := 2 ^ (w.toNat % 4)
     let o := (s.ra a + s.signedField i * BitVec.ofNat 64 n).toNat
     let hd := s.rh h
     let forbids := fun (op : Instr) (k : AccessKind) (kind : Nat) (p : Perm) =>
       let may := s.kindAllowed h hd k (k == .store)
       let faults := fun (reason : Nat) => ∃ g : Trigger, exec op s = .next (s.markLive.triggerOn g).retire ∧
         g.cause = 5 ∧ g.smask = slotBit s.slot ∧ g.word = s.opword ∧ g.addr = h.setWidth 64 ∧
         g.detail = BitVec.ofNat 64 (hd.vbase.toNat + o) ∧
         g.info = BitVec.ofNat 64 (reason * 2 ^ 60 + h.toNat * 2 ^ 56 + kind * 2 ^ 54 + o % 2 ^ 32)
       (hd.valid = false → faults 1) ∧
       (hd.valid = true → may = false → exec op s = .next (s.markLive.trapOn 4 (h.setWidth 64)).retire) ∧
       (hd.valid = true → may = true → spanSize hd.ps < o + n → faults 2) ∧
       (hd.valid = true → may = true → o + n ≤ spanSize hd.ps → hd.allows p = false → faults 3) ∧
       (hd.valid = true → may = true → o + n ≤ spanSize hd.ps → hd.allows p = true → o % n ≠ 0 →
         exec op s = .next (s.markLive.trapOn 4 (BitVec.ofNat 64 o)).retire)
     forbids (.ld d h a w i) .read 0 .r ∧ forbids (.st d h a w i) .store 1 (if hd.region = 3 then .m else .w))

/-- R219 to R224: vector forms. The enabled lanes of vld and vst are 4 bytes apart from one offset; those of vlds and vsts
start at the low half of s_x and lie its high half apart; vgath and vscat take an offset for each lane; mld and mst move
the 256 bytes of a mask. -/
def Obligations.VectorLoadsAndStores : Prop :=
  ∀ (s : State) (d x : BitVec 5) (h a : BitVec 4) (m : BitVec 3) (i : BitVec 9) (w : BitVec 2), w.toNat < 3 →
    let hd := s.rh h
    let lat := s.accessLatency hd + 2
    let stp := if hd.region = 3 then [Perm.m] else [Perm.w]
    let acc := fun (b : Nat) (js : List Nat) (f : Nat → Nat) => js.map fun j => (⟨j, hd.pbase.toNat + f j, b⟩ : Access)
    let cells := fun (b : Nat) (js : List Nat) (f : Nat → Nat) =>
      js.flatMap fun j => cellsAt (hd.pbase.toNat + f j) (leBytes b (element (8 * b) j (s.rv d)))
    let o := (s.ra a + s.signedField i * 64).toNat
    let b := 4 / 2 ^ w.toNat
    let stride := fun (j : Nat) =>
      (BitVec.ofNat 64 ((s.rs x).toNat % 2 ^ 32) + BitVec.ofNat 64 j * ((s.rs x).extractLsb' 32 32).signExtend 64).toNat
    let index := fun (j : Nat) => element 32 j (s.rv x)
    let js := lanesOf 512 (s.rm m)
    let ks := lanesOf (2048 / b) (s.rm m)
    let d3 := d.extractLsb' 0 3
    (Reaches s h hd [o] 2048 64 [.r] .read → SendsLoad (.vld d h a m i) s lat (.vec d) (acc 4 js fun j => o + 4 * j)) ∧
    (Reaches s h hd [o] 2048 64 stp .store → SendsStore (.vst d h a m i) s hd lat (cells 4 js fun j => o + 4 * j)) ∧
    (Reaches s h hd (ks.map stride) b b [.r] .read → SendsLoad (.vlds d h m x w) s lat (.vec d) (acc b ks stride)) ∧
    (Reaches s h hd (ks.map stride) b b stp .store → SendsStore (.vsts d h m x w) s hd lat (cells b ks stride)) ∧
    (Reaches s h hd (js.map index) 4 4 [.r] .read → SendsLoad (.vgath d h m x) s lat (.vec d) (acc 4 js index)) ∧
    (Reaches s h hd (js.map index) 4 4 stp .store → SendsStore (.vscat d h m x) s hd lat (cells 4 js index)) ∧
    (Reaches s h hd [(s.rs x).toNat] 256 64 [.r] .read →
      SendsLoad (.mld d h x) s lat (.mask d3) [⟨0, hd.pbase.toNat + (s.rs x).toNat, 256⟩]) ∧
    (Reaches s h hd [(s.rs x).toNat] 256 64 stp .store →
      SendsStore (.mst d h x) s hd lat (cellsAt (hd.pbase.toNat + (s.rs x).toNat) (leBytes 256 (s.rm d3).toNat)))

/-- R225 to R227, R158: a local atomic goes out with its operands, and makes the panel of the main context irrevocable,
except lam.facrd. R225: what an atomic returns and stores: the old value sign-extended, and the new one in its place and
nowhere else. R226, R166, R120: it reads what has performed before it, and neither returns nor stores where a line that it
reads is poisoned or an injection poisons its load half. -/
def Obligations.LocalAtomics : Prop :=
  (∀ (s : State) (d b : BitVec 5) (h a : BitVec 4) (w : BitVec 1) (m : BitVec 4),
     let hd := s.rh h
     let o := (s.ra a).toNat
     let n := if w = 1 then 8 else 4
     let op := fun (minor : BitVec 4) (wide : Bool) (x y : Dword) =>
       ({ minor := minor, wide := wide, addr := hd.pbase.toNat + o, off := o, opnd := x, cmp := y } : AtomicOp)
     let goes := fun (i : Instr) (p : AtomicOp) => (s.ctx = .main → s.gatesLine (atomicLines s.performed.mem p) = false) →
       ∃ l late, exec i s = .next (
         let t := (noted s l).emit (s.accessLatency hd) (.atomic d p) .no late
         if p.minor = 11 ∨ s.ctx = .lining then t else t.setIss { t.iss with irrev := true }).retire
     (m.toNat < 9 → Reaches s h hd [o] n n [.a] .atomic → goes (.lamOp d h a b w m) (op m (w == 1) (s.rs b) 0)) ∧
     (Reaches s h hd [o] n n [.a] .atomic → goes (.lamCas d h a b w) (op 9 (w == 1) (s.rs b) (s.rs d))) ∧
     (facCellExists s.markLive.performed.mem hd.pbase.toNat (spanSize hd.ps) hd.cls o = true →
       (Reaches s h hd [o] 16 16 [.a] .atomic → goes (.lamFac d h a b) (op 10 false (s.rs b) 0)) ∧
       (Reaches s h hd [o] 16 16 [.r] .atomic → goes (.lamFacRd d h a) (op 11 false 0 0)))) ∧
  ((∀ (m : Memory) (p : AtomicOp), p.minor.toNat < 10 →
     let n := if p.wide then 8 else 4
     let old := leNat (m.bytes p.addr n)
     let b := p.opnd.toNat % 2 ^ (8 * n)
     let signed := fun (x : Nat) => (BitVec.ofNat (8 * n) x).toInt
     let new := match p.minor.toNat with
       | 0 => (old + b) % 2 ^ (8 * n)
       | 1 => old &&& b
       | 2 => old ||| b
       | 3 => old ^^^ b
       | 4 => if signed old ≤ signed b then old else b
       | 5 => if signed b ≤ signed old then old else b
       | 6 => if old ≤ b then old else b
       | 7 => if b ≤ old then old else b
       | 8 => b
       | _ => if old = p.cmp.toNat % 2 ^ (8 * n) then b else old
     performAtomic m p = ((BitVec.ofNat (8 * n) old).signExtend 64, cellsAt p.addr (leBytes n new))) ∧
   ∀ (s : State) (f : Flight) (d : BitVec 5) (p : AtomicOp), f.land = .atomic d p → f.raw = none →
     let m := s.performed.mem
     let bad := f.upset = .poison ∨ ∃ x ∈ atomicLines m p, x ∈ m.poison
     (¬ bad → (settleAtomic s f).2 = { f with raw := some (leBytes 8 (performAtomic m p).1.toNat) }) ∧
     (bad → settleAtomic s f = (s, f)))

/-- R206 to R208, R229, R230: drain is due one cycle after issue, when what it covers has performed; hstat and hdrop; xlat
takes the smallest page that a buffer holds of its address, asks the walker where none does, and is a page fault beyond 57
bits. R106, R107, R97: ist writes its word six running cycles later; a write to the idle half stays uncovered until an
ifence; an address that is not in ist space is the trap of cause 3. -/
def Obligations.HandleDrainAndInstructionWrites : Prop :=
  (∀ (s : State) (d a : BitVec 5) (h : BitVec 4) (sc : BitVec 2),
     let m := s.markLive
     let hd := s.rh h
     let va := s.rs a
     let hits := (s.xlate.core ++ s.xlate.die).filter fun l => l.covers s.id.part va.toNat
     exec (.drain sc) s = .next (m.emit 1 (.drain sc) .no true).retire ∧
     Sends (.hstat d h) s 1 (.s d (BitVec.ofNat 64 ((if hd.valid then 2 ^ 63 else 0) + hd.inst.toNat * 2 ^ 61 +
       hd.ps.toNat * 2 ^ 59 + hd.rwam.toNat * 2 ^ 55 + hd.cls.toNat * 2 ^ 53 + hd.gen.toNat * 2 ^ 37 + hd.region * 2 ^ 30 +
       hd.die * 2 ^ 16 + hd.mask.toNat))) .no ∧
     Sends (.hdrop h) s 1 (.hdrop h) .no ∧
     (∀ l, va.toNat < 2 ^ 57 → smallest hits = some l → regionOf l.pbase.toNat ≠ 3 →
       ∃ u : State, u.core = m.core ∧ u.lin = m.lin ∧ u.mem = m.mem ∧ exec (.xlat h a) s = .next (u.emit 16 (.h h
         { valid := true, inst := 0, pbase := l.pbase, ps := l.ps, rwam := l.rwam, cls := l.cls, gen := 0, vbase := l.vbase,
           mask := 0 })).retire) ∧
     (va.toNat < 2 ^ 57 → hits = [] → s.walkFaulted va = false →
       ∃ u : State, u.core = m.core ∧ u.lin = m.lin ∧ (∃ w ∈ u.xlate.walks, w.va = va ∧ w.ended = none) ∧
         exec (.xlat h a) s = .next (u.holdOn 5).retire) ∧
     (2 ^ 57 ≤ va.toNat → exec (.xlat h a) s = .next (m.pageFault va).retire)) ∧
  (∀ (s : State) (d : BitVec 5) (a : BitVec 4) (p : BitVec 3) (i : BitVec 9), s.rp p = true →
     let addr := (s.ra a + s.signedField i * 4).toNat
     (addr % 4 = 0 → addr < 0x12000 → ∃ l, let u := noted s l
       exec (.ist d a p i) s = .next (({ u with core := { u.core with
         ists := u.core.ists ++ [{ addr := addr, word := (s.rs d).extractLsb' 0 32, due := s.run + 6, iss := s.run }],
         loose := if addr < 0x10000 then u.core.loose ++ [s.run] else u.core.loose } } : State)).retire) ∧
     (addr % 4 ≠ 0 ∨ 0x12000 ≤ addr → exec (.ist d a p i) s = .next (s.markLive.trapOn 3 (BitVec.ofNat 64 addr)).retire))

/-! ## Tiles, rings and the matrix engine (chapters 10 and 11) -/

/-- R231, R232, R189, R195: definitions and states of tiles and rings are written one cycle after issue, and their words
read back with RB, WB and the number of ready tiles. A definition with a bit set that must be zero, or a geometry that R189
does not admit, is the trap of cause 4. R234 to R238: the matrix commands enter their queue with the tiles that they read,
pop and write, and their accumulator tile; mwait holds its bundle while its tile is busy. R240, R241: xtr.in writes rows of
the array, the elements of one vector in order; xtr.out writes the array's columns to its tile fifteen cycles later, and the
tile is filling from issue. -/
def Obligations.TilesRingsAndMatrixCommands : Prop :=
  (∀ (s : State) (n : BitVec 8) (k : BitVec 3) (a d : BitVec 5) (st : BitVec 2),
     let v := s.rs a
     let e := s.core.regs.rt n
     let q := s.core.regs.rq k
     let free := fun (n : Nat) => s.rb n = false ∧ s.wb n = false
     let bytes := fun (t : BitVec 3) => if t = 0 ∨ t = 4 ∨ t = 7 then 4 else if t = 3 ∨ t = 6 then 1 else 2
     let foot := bytes (v.extractLsb' 59 3) * ((v.extractLsb' 52 7).toNat + 1) * ((v.extractLsb' 45 7).toNat + 1)
     let good := v.toNat / 2 ^ 62 = 0 ∧ v.extractLsb' 21 24 = 0 ∧ (v.extractLsb' 0 21).toNat % 64 = 0 ∧ foot % 64 = 0 ∧
       (v.extractLsb' 0 21).toNat + foot ≤ 0x200000
     (free n.toNat → (e.state = 0 ∨ e.state = 2) → good → Sends (.tdef n a) s 1 (.tile n
       { state := 0, type := v.extractLsb' 59 3, rowsM1 := v.extractLsb' 52 7, colsM1 := v.extractLsb' 45 7,
         base := v.extractLsb' 0 21 }) .no) ∧
     (free n.toNat → (e.state = 0 ∨ e.state = 2) → ¬ good → exec (.tdef n a) s = .next (s.markLive.trapOn 4 v).retire) ∧
     Sends (.tstat n d) s 2 (.s d (BitVec.ofNat 64 (e.state.toNat * 2 ^ 62 + e.type.toNat * 2 ^ 59 + e.rowsM1.toNat * 2 ^ 52 +
       e.colsM1.toNat * 2 ^ 45 + e.base.toNat + (if s.rb n.toNat then 2 ^ 44 else 0) +
       (if s.wb n.toNat then 2 ^ 43 else 0)))) .no ∧
     (free n.toNat → Sends (.tset n st) s 1 (.tileState n.toNat st) .no) ∧
     (let q' : RingEntry := { base := v.extractLsb' 24 8, lenM1 := v.extractLsb' 16 8, head := 0, tail := 0 }
      let legal := v.toNat / 2 ^ 32 = 0 ∧ v.extractLsb' 0 16 = 0 ∧ s.core.regs.ringLegal q' = true
      (legal → (∀ t ∈ q'.tiles, free t) → Sends (.qdef k a) s 1 (.ring k q') .no) ∧
      (¬ legal → exec (.qdef k a) s = .next (s.markLive.trapOn 4 v).retire)) ∧
     ((s.tile (q.base.toNat + q.head.toNat)).state = 2 → s.wb (q.base.toNat + q.head.toNat) = false →
       exec (.qpop k) s = .next ((s.markLive.emit 1 (.pop k)).emit 1
         (.tileState (q.base.toNat + q.head.toNat) 0)).retire) ∧
     Sends (.qstat k d) s 2 (.s d (BitVec.ofNat 64 (
       ((List.range (q.lenM1.toNat + 1)).filter fun j => (s.tile (q.base.toNat + j)).state == 2).length * 2 ^ 32 +
       q.base.toNat * 2 ^ 24 + q.lenM1.toNat * 2 ^ 16 + q.head.toNat * 2 ^ 8 + q.tail.toNat))) .no) ∧
  (∀ (s : State) (z : BitVec 6) (a b : BitVec 8) (x : BitVec 5) (c : BitVec 1),
     let room := BeforeLastSlot s ∧ s.core.matrixQ.length < queueDepth .matrix
     let pops := fun (c : BitVec 8) (n : Nat) => if isRing c then [n] else []
     let square := fun (s : State) (n : Nat) (t : BitVec 3) =>
       (s.tile n).rowsM1 = 127 ∧ (s.tile n).colsM1 = 127 ∧ (s.tile n).type = t
     let fmt := s.core.regs.fmt
     let ty : BitVec 3 := fmt.extractLsb' 0 3
     let out : BitVec 3 := fmt.extractLsb' 3 3
     let tail := fun (n size : Nat) => (s.tile n).base.toNat + (s.tile n).footprint + size ≤ 0x200000
     (∀ ta tb, room → ReadsTile s a ta → square s ta ty → ReadsTile (afterRead s a) b tb → square s tb ty →
       let u := afterRead (afterRead s a) b
       let use : CmdUse := ⟨[ta, tb], pops a ta ++ pops b tb, [], some z.toNat⟩
       Queues (.mma z a b) s u (·.matrixQ) 0 use (.mma z.toNat ta tb false) ∧
       (tail ta 512 → tail tb 4 → Queues (.mmas z a b) s u (·.matrixQ) 0 use (.mma z.toNat ta tb true))) ∧
     (room → Queues (.mzero z) s s (·.matrixQ) 0 ⟨[], [], [], some z.toNat⟩ (.mzero z.toNat)) ∧
     (∀ n, room → WritesTile s a n → square s n out →
       Queues (.mdrain z a 0 x c) s (afterWrite s a) (·.matrixQ) 0 ⟨[], [], [n], some z.toNat⟩
         (.mdrain z.toNat (some n) 0 ((s.rs x).extractLsb' 0 32) (c == 1))) ∧
     (room → s.core.spool.length < 16 →
       Queues (.mdrain z a 1 x c) s { s with core := { s.core with spool := s.core.spool ++
           [{ id := s.core.nextId, type := out, claimed := none, data := none, held := true }] } } (·.matrixQ) 0
         ⟨[], [], [], some z.toNat⟩ (.mdrain z.toNat none s.core.nextId ((s.rs x).extractLsb' 0 32) (c == 1))) ∧
     (∀ n, room → ReadsTile s a n → square s n 0 →
       Queues (.mload z a) s (afterRead s a) (·.matrixQ) 0 ⟨[n], pops a n, [], some z.toNat⟩ (.mload z.toNat n)) ∧
     exec (.mwait z) s = .next (if s.zb z.toNat then s.markLive.holdOn 3 else s.markLive).retire) ∧
  (∀ (s : State) (a : BitVec 5) (t : BitVec 3) (r : BitVec 7) (n : BitVec 8),
     let w := if t = 0 ∨ t = 4 ∨ t = 7 then 32 else if t = 3 ∨ t = 6 then 8 else 16
     let rows := 128 / w
     let x := s.core.regs
     let cell := fun (x : Regs) (i j : Nat) => (x.xarr.extractLsb' (32 * (128 * i + j)) 32).toNat
     (r.toNat % rows = 0 → ∃ u : State, exec (.xtrIn a t r) s = .next u.retire ∧ u.core.regs.xwidth.toNat = w ∧ ∀ i < 128, ∀ j < 128,
       cell u.core.regs i j = if r.toNat ≤ i ∧ i < r.toNat + rows then element w (128 * (i - r.toNat) + j) (s.rv a) else cell x i j) ∧
     (r.toNat % rows ≠ 0 → exec (.xtrIn a t r) s = .next (s.markLive.trapOn 4 (r.setWidth 64)).retire) ∧
     (let e := x.rt n
      (e.state = 0 ∨ e.state = 2) → s.rb n.toNat = false → s.wb n.toNat = false → e.rowsM1 = 127 → e.colsM1 = 127 →
       typeWidth e.type = x.xwidth.toNat →
       (e.state = 0 → ∃ (u : State) (f : Flight), exec (.xtrOut n) s = .next u.retire ∧ u.core.regs = x.wt n { e with state := 1 } ∧
         u.core.flights = s.core.flights ++ [f] ∧ f.due = s.run + 15 ∧ ∃ v, f.land = .xtr n x.xwidth.toNat v ∧
         ∀ i < 128, ∀ j < 128, v.toNat / 2 ^ (x.xwidth.toNat * (128 * i + j)) % 2 ^ x.xwidth.toNat =
           cell x j i % 2 ^ x.xwidth.toNat) ∧
       (e.state = 2 → exec (.xtrOut n) s = .next (s.markLive.trapOn 4 (n.setWidth 64)).retire)))

/-! ## Copy engine, shuttle and arrival counters (chapters 11 and 12) -/

/-- R242, R259, R253: copy commands and transfers enter their queues: a copy into a tile with its length's check, the
descriptor forms with a descriptor in the core's own scratchpad, a send from a tile or from the oldest unclaimed spool slot.
R253, R259: a collective takes the number in its group slot's CSEQ, which then steps, and names the tiles that its member
reads and writes. R253, R259: a collective of a slot without a group, or whose group does not have this member, is the trap
of cause 4. DETAIL of the trap of a collective without a group is the model's choice (log entry 25). -/
def Obligations.CopyAndShuttleCommandsAreQueued : Prop :=
  (∀ (s : State) (t : BitVec 8) (h a : BitVec 4) (k : BitVec 6), BeforeLastSlot s →
     let hd := s.rh h
     let o := (s.ra a).toNat
     let desc : CmdUse := ⟨[], [], [], none⟩
     (∀ n, s.core.copyQ.length < queueDepth .copy → WritesTile s t n → hd.valid = true → hd.allows .r = true →
       o + (s.tile n).footprint ≤ spanSize hd.ps → engineRegion hd.pbase.toNat = true →
       Queues (.ceCopyTile t h a k) s (afterWrite s t) (·.copyQ) k ⟨[], [], [n], none⟩ (.copyTile hd (s.ra a) n)) ∧
     (s.core.copyQ.length < queueDepth .copy → Reaches s h hd [o] 192 64 [.r, .w] .command → s.isOwnScratch hd = true →
       Queues (.ceCopy h a k) s s (·.copyQ) k desc (.copyDesc 1 hd (s.ra a)) ∧
       Queues (.ceGath h a k) s s (·.copyQ) k desc (.copyDesc 2 hd (s.ra a)) ∧
       Queues (.ceScat h a k) s s (·.copyQ) k desc (.copyDesc 3 hd (s.ra a)) ∧
       Queues (.ceFill h a k) s s (·.copyQ) k desc (.copyDesc 4 hd (s.ra a)) ∧
       Queues (.ceChk h a k) s s (·.copyQ) k desc (.copyDesc 5 hd (s.ra a))) ∧
     (∀ n, s.core.shuttleQ.length < queueDepth .shuttle → ReadsTile s t n → o % 8 = 0 →
       Queues (.shSend t 0 a k) s (afterRead s t) (·.shuttleQ) k ⟨[n], if isRing t then [n] else [], [], none⟩ (.send (some n) 0 o)) ∧
     (∀ x r, s.core.shuttleQ.length < queueDepth .shuttle → s.core.spool.filter (fun x => x.claimed.isNone) = x :: r → o % 8 = 0 →
       Queues (.shSend t 1 a k) s (s.claimSpool x.id s.core.nextId) (·.shuttleQ) k desc (.send none x.id o))) ∧
  (∀ (s : State) (g : BitVec 5) (d : BitVec 8) (k : BitVec 6) (c : BitVec 2) (gr : Group), BeforeLastSlot s →
     s.core.shuttleQ.length < queueDepth .shuttle → s.collGroup g = some gr →
     let x := s.core.regs.rg g
     let r := x.rank.toNat
     let p := gr.members.length
     let chunk := (s.plainField c).1
     let step := fun (u : State) => ({ u with core := { u.core with regs := u.core.regs.wg g { x with cseq := x.cseq + 1 } } } : State)
     let coll := fun (minor arg spool dst : Nat) => CmdOp.coll minor x.gid.toNat r x.cseq arg spool dst
     let others := fun (b : Nat) => ((List.range p).filter (· != r)).map (b + ·)
     let canRead := fun (ts : List Nat) => ∀ n ∈ ts, (s.tile n).state = 2 ∧ s.wb n = false
     let canWrite := fun (ts : List Nat) => ∀ n ∈ ts, ((s.tile n).state = 0 ∨ (s.tile n).state = 2) ∧ s.rb n = false ∧ s.wb n = false
     let moves := fun (i : Instr) (minor arg : Nat) (rs ws : List Nat) => canRead rs → canWrite ws →
       Queues i s (step s) (·.shuttleQ) k ⟨rs, [], ws, none⟩ (coll minor arg 0 d.toNat)
     (∀ n y q, WritesTile s d n → s.floatTarget d = true → s.core.spool.filter (fun x => x.claimed.isNone) = y :: q →
       let u := step ((afterWrite s d).claimSpool y.id s.core.nextId)
       Queues (.shRedAr g d k c) s u (·.shuttleQ) k ⟨[], [], [n], none⟩ (coll 1 chunk y.id n) ∧
       Queues (.shRedArFac g d k c) s u (·.shuttleQ) k ⟨[], [], [n], none⟩ (coll 3 chunk y.id n) ∧
       (gr.owner chunk = r → Queues (.shRedRs g d k c) s u (·.shuttleQ) k ⟨[], [], [n], none⟩ (coll 2 chunk y.id n) ∧
         Queues (.shRedRsFac g d k c) s u (·.shuttleQ) k ⟨[], [], [n], none⟩ (coll 4 chunk y.id n))) ∧
     (∀ y q, s.floatTarget d = true → s.core.spool.filter (fun x => x.claimed.isNone) = y :: q → gr.owner chunk ≠ r →
       let n := s.writeTile d
       let v := step (s.claimSpool y.id s.core.nextId)
       Queues (.shRedRs g d k c) s v (·.shuttleQ) k ⟨[], [], [], none⟩ (coll 2 chunk y.id n) ∧
       Queues (.shRedRsFac g d k c) s v (·.shuttleQ) k ⟨[], [], [], none⟩ (coll 4 chunk y.id n)) ∧
     (d.toNat + p ≤ 248 → moves (.shGath g d k) 5 0 [d.toNat + r] (others d.toNat)) ∧
     (chunk < p → r = chunk → moves (.shBcast g d k c) 6 chunk [d.toNat] []) ∧
     (chunk < p → r ≠ chunk → moves (.shBcast g d k c) 6 chunk [] [d.toNat]) ∧
     (d.toNat + p ≤ 248 → moves (.shA2a g d k) 7 0 (others d.toNat) (others d.toNat)) ∧
     (∀ b : BitVec 1, d.toNat < 247 → moves (.shRot g d k b) 8 b.toNat [d.toNat] [d.toNat + 1])) ∧
  (∀ (s : State) (g : BitVec 5) (d : BitVec 8) (k : BitVec 6) (c : BitVec 2) (b : BitVec 1),
     let x := s.core.regs.rg g
     (x.v = false ∨ ∀ gr, s.group x.gid.toNat = some gr → s.isMember gr x.rank.toNat = false) →
     ∀ i ∈ [Instr.shRedAr g d k c, .shRedRs g d k c, .shRedArFac g d k c, .shRedRsFac g d k c, .shGath g d k, .shBcast g d k c,
       .shA2a g d k, .shRot g d k b], exec i s = .next (s.markLive.trapOn 4 (g.setWidth 64)).retire)

/-- R262 to R264: sh.stat; acset, acadd and acrd; acwait writes whether the count was reached without an error, and holds
its bundle under cause 7 while neither is so and its time, if it has one, has not run out. R320, R322, R327 to R329, R272:
with room in the outbox, whose packets that wait count in it, a thimble command names eight bytes of memory through a handle
with its member's permission, and a block of its core's scratchpad; a post names a core; a take consumes one counted entry. -/
def Obligations.CountersThimblesAndMailboxes : Prop :=
  (∀ (s : State) (k : BitVec 6) (a d t : BitVec 5) (p q : BitVec 3) (n : BitVec 9), s.rp p = true →
     let c := s.core.regs.rac k
     let need := (s.plainField n).1
     Sends (.shStat d) s 2 (.s d (BitVec.ofNat 64 (s.sys.shErr.toNat * 2 ^ 16 + (if s.sys.shSat then 2 ^ 14 else 0) +
       s.core.shuttleQ.length * 2 ^ 10 + (s.core.spool.filter fun x => x.claimed.isNone).length * 2 ^ 5 +
       (16 - s.core.spool.length)))) .no ∧
     Sends (.acset k a p) s 1 (.acset k ((s.rs a).setWidth 32)) .no ∧
     Sends (.acadd k p n) s 1 (.acadd k ((s.signedField n).setWidth 32)) .no ∧
     Sends (.acrd k d p) s 2 (.s d (BitVec.ofNat 64 ((if c.err then 2 ^ 32 else 0) + c.count.toNat))) .no ∧
     let out := ∃ w, s.waitHere 0 = some w ∧ w.expired = true
     (out → Sends (.acwait k t q n) s 1 (.p q false) .no) ∧
     (¬ out → need ≤ c.count.toNat ∨ c.err = true →
       Sends (.acwait k t q n) s 1 (.p q (decide (need ≤ c.count.toNat) && !c.err)) .no) ∧
     (c.count.toNat < need → c.err = false → s.ctx = .lining → Sends (.acwait k t q n) s 1 (.p q false) .no) ∧
     (c.count.toNat < need → c.err = false → s.ctx = .main →
       (∀ w, s.waitHere 0 = some w → w.expired = false → exec (.acwait k t q n) s = .next (s.markLive.holdOn 7).retire) ∧
       (s.waitHere 0 = none → ∃ u : State, exec (.acwait k t q n) s = .next (u.holdOn 7).retire ∧ u.core = s.markLive.core ∧
         u.hold.waits = s.hold.waits ++ (if (s.rs t).toNat = 0 then [] else
           [{ slot := s.core.slot.val, kind := 0, since := s.ptime / 9, limit := (s.rs t).toNat, expired := false, what := k.toNat,
              need := need }])))) ∧
  (∀ (s : State) (h a b : BitVec 4) (k : BitVec 6) (t : BitVec 5) (n : BitVec 2) (p : BitVec 3), BeforeLastSlot s →
     s.core.outboxQ.length + s.unsent .outbox < queueDepth .outbox →
     let hd := s.rh h
     let o := s.ra a
     let blk := s.ra b
     let none' : CmdUse := ⟨[], [], [], none⟩
     let block := blk.toNat % 64 = 0 ∧ blk.toNat ≤ 0x1FFF80
     let inHbmOrVault := hd.region = 0 ∨ hd.region = 1
     let cell := hd.region = 5 ∧ offsetOf (hd.pbase.toNat + o.toNat) % 2 ^ 15 < 0x1000
     let goes := fun (i : Instr) (minor : Nat) (perm : Perm) => hd.allows perm = true →
       Queues i s s (·.outboxQ) k none' (.thimble minor hd o blk)
     (block → hd.valid = true → o.toNat + 8 ≤ spanSize hd.ps → o.toNat % 8 = 0 →
       (inHbmOrVault ∨ cell → goes (.thLd h a b k) 0 .r ∧ goes (.thSt h a b k) 1 .w) ∧
       (inHbmOrVault → goes (.thAmo h a b k) 2 .a ∧ goes (.thCas h a b k) 3 .a ∧ goes (.thEnq h a b k) 4 .a ∧
         goes (.thDeq h a b k) 5 .a ∧ goes (.thChase h a b k) 6 .r ∧ goes (.thClaim h a b k) 7 .a ∧
         goes (.thFac h a b k) 8 .a ∧ goes (.thCall h a b k) 9 .a)) ∧
     (block → (s.rs t).toNat < 2 ^ 16 → Queues (.mbPost t b k) s s (·.outboxQ) k none' (.post (s.rs t) blk)) ∧
     (block → 0 < (vget (k := 2) s.core.regs.mbc n).toNat →
       Queues (.mbTake n b t p k) s (({ s with core := { s.core with regs :=
         { s.core.regs with mbc := vput (k := 2) s.core.regs.mbc n (vget (k := 2) s.core.regs.mbc n - 1) } } } : State).emit 1 (.p p true))
         (·.outboxQ) k none' (.take n blk true)) ∧
     (block → vget (k := 2) s.core.regs.mbc n = 0 →
       (∀ w, s.waitHere 1 = some w → w.expired = true →
         Queues (.mbTake n b t p k) s (s.emit 1 (.p p false)) (·.outboxQ) k none' (.take n blk false)) ∧
       (∀ w, s.waitHere 1 = some w → w.expired = false → exec (.mbTake n b t p k) s = .next (s.markLive.holdOn 7).retire)))

/-! ## Thimbles, mailboxes and the clause array (chapters 15 and 16) -/

/-- R342, R344, R345, R349 to R351: clause-array commands with a scalar or through a handle; the three synchronous forms
read the bound instance and trap without one. DETAIL of the traps without a bound instance is the model's choice (log entry
25). -/
def Obligations.ClauseInstructionResults : Prop :=
  ∀ (s : State) (h a : BitVec 4) (k : BitVec 6) (x d : BitVec 5) (m : BitVec 3),
    let hd := s.rh h
    let v := s.rs x
    let none' : CmdUse := ⟨[], [], [], none⟩
    let near := (hd.region = 0 ∨ hd.region = 1) ∧ hd.die = s.ownDie ∨ s.isOwnScratch hd = true
    (BeforeLastSlot s → s.core.clauseQ.length < queueDepth .clause →
      (∀ i ∈ [(Instr.clBind x k, 0), (.clClr x k, 2), (.clDec x k, 3), (.clProp x k, 4), (.clBt x k, 5), (.clCol x k, 8)],
        Queues i.1 s s (·.clauseQ) k none' (.clause i.2 v Handle.reset)) ∧
      (near → hd.valid = true → (s.ra a).toNat % 8 = 0 →
        (hd.allows .r = true → (s.ra a).toNat + 8 ≤ spanSize hd.ps →
          Queues (.clLd h a k) s s (·.clauseQ) k none' (.clause 1 (s.ra a) hd)) ∧
        (hd.allows .w = true → (s.ra a).toNat + contextSize s.ncol ≤ spanSize hd.ps →
          Queues (.clSt h a k) s s (·.clauseQ) k none' (.clause 6 (s.ra a) hd)))) ∧
    (s.myInst = none → exec (.clRd d x) s = .next (s.markLive.trapOn 4 0).retire ∧
      (∀ sel, exec (.clMask m sel) s = .next (s.markLive.trapOn 4 0).retire) ∧ exec (.clLvl m x) s = .next (s.markLive.trapOn 4 0).retire) ∧
    (∀ i, s.myInst = some i →
      let y := s.clauseInst i
      let rows := fun (i : Instr) (f : Nat → Bool) =>
        ∃ w : Mask, Sends i s 4 (.m m (BitVec.allOnes 2048) w) .no ∧ ∀ j < 2048, w.getLsbD j = f j
      (∀ w, y.read s.ncol v.toNat = some w → Sends (.clRd d x) s 2 (.s d (BitVec.ofNat 64 w)) .no) ∧
      (y.read s.ncol v.toNat = none → exec (.clRd d x) s = .next (s.markLive.trapOn 4 v).retire) ∧
      rows (.clMask m 0) (fun j => y.row j == 2) ∧ rows (.clMask m 1) (fun j => y.row j == 1) ∧
      rows (.clMask m 2) (fun j => y.row j == 0) ∧
      rows (.clMask m 3) (fun j => match y.entry j with | some e => e.round != 0 | none => false) ∧
      (v.toNat < 256 → rows (.clLvl m x) (fun j => match y.entry j with | some e => decide (v.toNat ≤ e.level.toNat) | none => false)) ∧
      (256 ≤ v.toNat → exec (.clLvl m x) s = .next (s.markLive.trapOn 4 v).retire))

/-- R300, R301: words of a user routine. The arithmetic words are R86's 64-bit members; ld and st move a doubleword of the
thimble's own memory inside the handle's page, else they end the routine with status 2, and with status 7 where the line is
poisoned or its memory is being wiped (R201); ldc and stc use the thimble's cells; a branch is forward and stays inside the
slot, else the routine ends with status 1; end replies with x0 and x1. Status 7 for memory under a wipe is the model's
reading (log entry 39). -/
def Obligations.RoutineWordResults : Prop :=
  ∀ (s : State) (r : Routine) (d a b : BitVec 3) (i : BitVec 17), s.routine = some r → r.pc < 63 →
    let x := r.get a
    let y := r.get b
    let n : Dword := i.signExtend 64
    let at_ := fun (u : State) (r : Routine) (pc : Nat) => ({ u with routine := some { r with pc := pc } } : State)
    let sets := fun (i : Instr) (v : Dword) => exec i s = .next (at_ s (r.put d v) (r.pc + 1))
    let ends := fun (i : Instr) (u : State) (code : Nat) (data : List (Nat × Dword)) =>
      exec i s = .next (({ u with routine := none } : State).replyTo r.packet code data)
    (sets (.routineAdd d a b i) (x + y) ∧ sets (.routineSub d a b i) (x - y) ∧ sets (.routineAnd d a b i) (x &&& y) ∧
      sets (.routineOr d a b i) (x ||| y) ∧ sets (.routineXor d a b i) (x ^^^ y) ∧
      sets (.routineMin d a b i) (if x.sle y then x else y) ∧ sets (.routineMax d a b i) (if y.sle x then x else y) ∧
      sets (.routineMinn d a b i) (if x.ule y then x else y) ∧ sets (.routineMaxn d a b i) (if y.ule x then x else y) ∧
      sets (.routineShl d a b i) (x <<< (y.toNat % 64)) ∧ sets (.routineShr d a b i) (x >>> (y.toNat % 64)) ∧
      sets (.routineAddi d a b i) (x + n) ∧ sets (.routineMovi d a b i) n) ∧
    (let p := (x + n).toNat
     let home := r.packet.base.toNat
     let good := p % 8 = 0 ∧ home ≤ p ∧ p + 8 ≤ home + r.packet.size ∧ (regionOf p = 0 ∨ regionOf p = 1) ∧
       s.thimbleOf p = some (r.die, r.unit)
     let poisoned := s.performed.mem.poison.contains (p / 64) = true ∨ s.inWipe (64 * (p / 64)) 64 = true
     (good → ¬ poisoned →
       sets (.routineLd d a b i) (BitVec.ofNat 64 (leNat (s.performed.mem.bytes p 8)))) ∧
     (good → poisoned → ends (.routineLd d a b i) s 7 []) ∧
     (¬ good → ends (.routineLd d a b i) s 2 [] ∧ ends (.routineSt d a b i) s 2 []) ∧
     (good → s.inWipe p 8 = true → ends (.routineSt d a b i) s 7 []) ∧
     (good → s.inWipe p 8 = false → s.mem.broken = [] → exec (.routineSt d a b i) s =
       .next (at_ (s.engineStore [cellsAt p (leBytes 8 y.toNat)] []) r (r.pc + 1)))) ∧
    (let c := cellAddr r.die r.unit ((x + n).toNat % 512)
     sets (.routineLdc d a b i) (BitVec.ofNat 64 (leNat (s.performed.mem.bytes c 8))) ∧
     exec (.routineStc d a b i) s = .next (at_ (s.engineStore [cellsAt c (leBytes 8 y.toNat)] []) r (r.pc + 1))) ∧
    (let branch := fun (i' : Instr) (c : Prop) =>
       (∀ k : Nat, i.toInt = k → 1 ≤ k → r.pc + 1 + k ≤ 63 →
         (c → exec i' s = .next (at_ s r (r.pc + 1 + k))) ∧ (¬ c → exec i' s = .next (at_ s r (r.pc + 1)))) ∧
       ((i.toInt < 1 ∨ 63 < r.pc + 1 + i.toInt) → ends i' s 1 [])
     branch (.routineBeq d a b i) (x = y) ∧ branch (.routineBne d a b i) (x ≠ y) ∧
     branch (.routineBlt d a b i) (x.toInt < y.toInt) ∧ branch (.routineBltn d a b i) (x.toNat < y.toNat)) ∧
    (∀ k : Nat, i.toInt = k → k = 0 ∨ 8 ≤ k ∧ k ≤ 15 → ends (.routineEnd d a b i) s k [(0, r.get 0), (1, r.get 1)]) ∧
    ((∀ k : Nat, i.toInt = k → k ≠ 0 ∧ (k < 8 ∨ 15 < k)) → ends (.routineEnd d a b i) s 1 [])

/-! ## Results, stores and the core's own events (chapters 2, 3, 7 and 11) -/

/-- R40, R42, R44, R53, R113, R191, R208, R231, R263: a result whose cycle has come is written to its register and to
nothing else; s0, p0 and m0 keep reading as constants; a handle that lands steps GEN; a qpop moves HEAD alone. A loop-back
adds the deltas of its level to the address registers, as they stand after the results of the cycle. R166, R217, R219, R223,
R225, R226: a load takes its bytes from memory, a vector load those of its enabled elements, a mask load its 256; one from a
poisoned line is the trigger of cause 3 with the first such line's address and writes nothing. An atomic returns the old
value, and its store performs at a vault at once, at a scratchpad as the cycle ends. R60, R112 to R116, R170, R171, R182:
results of the lining land in the registers of its own; mtsr writes the system register that it names, WDEXP of LSHARE kept
between 10 and 24 and ARM of INJECT cleared, and a context form a register of the main context. A stop request that SEAMREQ
newly holds wakes an idle main context; one that is taken back lets a held one go on. That HELD of SEAMREQ stays as it is
for an idle or halted core is the model's choice (log entry 73), and how a held one resumes its reading (log entry 16). -/
def Obligations.ResultsLandInTheirRegisters : Prop :=
  ((∀ (s : State) (f : Flight), s.core.flights = [f] → f.due ≤ s.run → f.late = false → f.upset = .none →
     s.core.agree = none → s.arrivals = [] → s.earlier = [] → s.running = [] → s.arriving = [] →
     let r := s.core.regs
     let k := f.slot
     let keeps := fun (t : State) => t.core.flights = [] ∧ t.core.landed = true ∧ t.core.backs = [] ∧
       t.core.iss = { s.core.iss with performs := [] } ∧ t.core.z = s.core.z ∧ t.core.panel = s.core.panel ∧ t.mem = s.mem ∧
       t.lin = s.lin ∧ t.status = s.status
     let lands := fun (r' : Regs) => s.core.backs = [] → ∃ t, exec (.resultLand .main) s = .next t ∧ t.core.regs = r' ∧ keeps t
     (∀ d v, f.land = .s d v → lands (r.setS k d v)) ∧ (∀ d v, f.land = .p d v → lands (r.setP k d v)) ∧
     (∀ d en v, f.land = .vec d en v → lands (r.wv k d ((r.rv k d &&& ~~~en) ||| (v &&& en)))) ∧
     (∀ d en v, f.land = .m d en v → lands (r.setM k d (((r.cluster k).rm d &&& ~~~en) ||| (v &&& en)))) ∧
     (∀ x, f.land = .flags x → lands (r.setFp k ((r.cluster k).fp ||| x))) ∧
     (∀ (c : Cl) v, f.land = .sys (c.val + 1) v → lands (r.setFp c (v.extractLsb' 0 5))) ∧
     (∀ d v, f.land = .a d v → lands (r.wa d v)) ∧ (∀ d v, f.land = .h d v → lands (r.wh d { v with gen := (r.rh d).gen + 1 })) ∧
     (∀ d, f.land = .hdrop d → lands (r.wh d { r.rh d with valid := false })) ∧
     (∀ d v, f.land = .acset d v → lands (r.wac d { count := v, err := false })) ∧
     (∀ d v, f.land = .acadd d v → lands (r.wac d { r.rac d with count := (r.rac d).count + v })) ∧
     (∀ i (l : BitVec 3) v, f.land = .lu i l v → l.toNat < 6 → lands (r.setDelta i l.toNat v)) ∧
     (∀ v, f.land = .fmt v → lands { r with fmt := v }) ∧
     (∀ n v, f.land = .tile n v → lands (r.wt n v)) ∧
     (∀ n v, f.land = .tileState n v → lands (r.wt (BitVec.ofNat 8 n) { r.rt (BitVec.ofNat 8 n) with state := v })) ∧
     (∀ n v, f.land = .ring n v → lands (r.wq n v)) ∧
     (∀ n, f.land = .pop n → let q := r.rq n
       lands (r.wq n { q with head := BitVec.ofNat 8 ((q.head.toNat + 1) % (q.lenM1.toNat + 1)) })) ∧
     (∀ n v, f.land = .aseq n v → lands (r.wg n { r.rg n with aseq := v })) ∧
     (∀ l < 6, s.core.backs = [l] → (∀ d v, f.land = .a d v → ∃ t, exec (.resultLand .main) s = .next t ∧ keeps t ∧
         t.core.regs = { r with a := t.core.regs.a } ∧
         ∀ i, t.core.regs.ra i = (if i = d then v else r.ra i) + (r.delta_ i l).signExtend 64) ∧
       (∀ d j v, f.land = .lu d j v → ∃ t, exec (.resultLand .main) s = .next t ∧ keeps t ∧
         ∀ i, t.core.regs.ra i = r.ra i + (r.delta_ i l).signExtend 64))) ∧
   (∀ (s : State) (l : Nat), l < 6 → s.core.flights = [] → s.core.backs = [l] → s.running = [] → s.arriving = [] →
     ∃ t, exec (.resultLand .main) s = .next t ∧ t.core.backs = [] ∧ t.core.regs = { s.core.regs with a := t.core.regs.a } ∧
       ∀ i, t.core.regs.ra i = s.core.regs.ra i + (s.core.regs.delta_ i l).signExtend 64) ∧
   (∀ (r : Regs) (k : Cl) (d : BitVec 5) (q : BitVec 3) (v : Dword) (b : Bool) (m : Mask) (x : Vec),
     ((r.setS k d v).cluster k).rs d = (if d = 0 then 0 else v) ∧ ((r.setP k q b).cluster k).rp q = (if q = 0 then true else b) ∧
     ((r.setM k q m).cluster k).rm q = (if q = 0 then BitVec.allOnes 2048 else m) ∧ (r.wv k d x).rv k d = x)) ∧
  (∀ (s : State) (f : Flight), s.core.flights = [f] → f.due ≤ s.run → f.late = false → f.upset = .none → f.raw = none → s.core.backs = [] →
     s.core.agree = none → s.arrivals = [] → s.earlier = [] → s.running = [] → s.arriving = [] → s.drains = [] →
     (∀ p, s.core.panel = some p → p.gates = []) → s.core.iss.trigger = none →
     let r := s.core.regs
     let k := f.slot
     let read := fun (a n : Nat) => leNat (s.mem.bytes a n)
     let lands := fun (r' : Regs) => ∃ t, exec (.resultLand .main) s = .next t ∧ t.core.regs = r' ∧ t.core.flights = [] ∧
       t.core.iss = { s.core.iss with performs := [] } ∧ t.mem = s.mem ∧ t.lin = s.lin
     (∀ dst acc, f.land = .load dst acc →
       let eaten := fun (a : Nat) => s.mem.poison.contains (a / 64)
       let all := acc.flatMap fun x => (List.range x.size).map (x.addr + ·)
       (∀ a ∈ all, eaten a = false) →
         (∀ d sx a n, dst = .scalar d sx → acc = [⟨0, a, n⟩] →
           lands (r.setS k d (if sx then (BitVec.ofNat (8 * n) (read a n)).signExtend 64 else BitVec.ofNat 64 (read a n)))) ∧
         (∀ d a, dst = .mask d → acc = [⟨0, a, 256⟩] → lands (r.setM k d (BitVec.ofNat 2048 (read a 256)))) ∧
         (∀ d b, dst = .vec d → b = 1 ∨ b = 2 ∨ b = 4 → (acc.map (·.elem)).Nodup → (∀ x ∈ acc, x.size = b ∧ x.elem < 2048 / b) →
           ∃ v, lands (r.wv k d v) ∧ ∀ j < 2048 / b, element (8 * b) j v =
             match acc.find? (fun x => x.elem == j) with
             | some x => read x.addr b
             | none => element (8 * b) j (r.rv k d))) ∧
     (∀ dst acc a, f.land = .load dst acc →
       (acc.flatMap fun x => (List.range x.size).map (x.addr + ·)).find? (fun a => s.mem.poison.contains (a / 64)) = some a →
       ∃ t g, exec (.resultLand .main) s = .next t ∧ t.core.regs = r ∧ t.core.iss.trigger = some g ∧ g.cause = 3 ∧
         g.addr = BitVec.ofNat 64 (a / 64 * 64) ∧ a / 64 ∈ g.lines) ∧
     (∀ d p, f.land = .atomic d p → (∀ l ∈ atomicLines s.mem p, s.mem.poison.contains l = false) →
       let x := performAtomic s.mem p
       ∃ t, exec (.resultLand .main) s = .next t ∧ t.core.regs = r.setS k d x.1 ∧ t.core.flights = [] ∧ t.lin = s.lin ∧
         (vaultKey f = none → t.mem = s.mem ∧ t.core.iss.performs = if x.2 = [] then [] else [x.2]) ∧
         (vaultKey f ≠ none → t.core.iss.performs = [] ∧ ∀ a, t.mem.byte a = (s.mem.store x.2).byte a))) ∧
  (∀ (s : State) (f : Flight), s.lin.flights = [f] → f.due ≤ s.lin.cyc → f.upset = .none → f.raw = none → s.running = [] → s.arriving = [] →
     s.drains = [] → s.arrivals = [] →
     let l := s.lin
     let r := s.core.regs
     let out := { l with flights := [] }
     let lands := fun (l' : Lining) => ∃ t, exec (.resultLand .lining) s = .next t ∧ t.lin = l' ∧ t.core = s.core ∧ t.sys = s.sys ∧ t.mem = s.mem
     let core := fun (r' : Regs) => ∃ t, exec (.resultLand .lining) s = .next t ∧ t.lin = out ∧ t.core.regs = r' ∧ t.sys = s.sys ∧ t.mem = s.mem
     let sets := fun (y : SysRegs) => ∃ t, exec (.resultLand .lining) s = .next t ∧ t.lin = out ∧ t.core = s.core ∧ t.sys = y ∧ t.mem = s.mem
     let ws := fun (d : BitVec 5) (v : Dword) => { out with s := if d = 0 then l.s else l.s.set d.toNat v d.isLt }
     (∀ d v, f.land = .s d v → lands (ws d v)) ∧
     (∀ d v, f.land = .p d v → lands { out with p := if d = 0 then l.p else l.p.set d.toNat v d.isLt }) ∧
     (∀ d v, f.land = .a d v → lands { out with a := l.a.set d.toNat v d.isLt }) ∧
     (∀ d v, f.land = .h d v → lands { out with h := l.h.set d.toNat { v with gen := (l.h[d.toNat]'d.isLt).gen + 1 } d.isLt }) ∧
     (∀ d, f.land = .hdrop d → lands { out with h := l.h.set d.toNat { l.h[d.toNat]'d.isLt with valid := false } d.isLt }) ∧
     (∀ d sx a n, f.land = .load (.scalar d sx) [⟨0, a, n⟩] → regionOf a < 3 → (∀ j < n, s.mem.poison.contains ((a + j) / 64) = false) →
       (∀ p, s.core.panel = some p → p.gates = []) →
       lands (ws d (if sx then (BitVec.ofNat (8 * n) (leNat (s.mem.bytes a n))).signExtend 64 else BitVec.ofNat 64 (leNat (s.mem.bytes a n))))) ∧
     (∀ d p, f.land = .atomic d p → (∀ x ∈ atomicLines s.mem p, s.mem.poison.contains x = false) →
       let x := performAtomic s.mem p
       ∃ t, exec (.resultLand .lining) s = .next t ∧ t.lin = ws d x.1 ∧ t.core.regs = r ∧ ∀ a, t.mem.byte a = (s.mem.store x.2).byte a) ∧
     (∀ k v, f.land = .acset k v → core (r.wac k { count := v, err := false })) ∧
     (∀ k v, f.land = .acadd k v → core (r.wac k { r.rac k with count := (r.rac k).count + v })) ∧
     (∀ v, f.land = .sys 5 v → let e := v.extractLsb' 16 5
       lands { out with share := v.extractLsb' 0 8, wdexp := if e < 10 then 10 else if 24 < e then 24 else e }) ∧
     (∀ v, (f.land = .sys 8 v → sets { s.sys with trapinfo0 := v }) ∧ (f.land = .sys 9 v → sets { s.sys with trapinfo1 := v }) ∧
       (f.land = .sys 0xA v → sets { s.sys with mcinfo0 := v }) ∧ (f.land = .sys 0xB v → sets { s.sys with mcinfo1 := v }) ∧
       (f.land = .sys 0xC v → sets { s.sys with mcinfo2 := v }) ∧ (f.land = .sys 0xD v → sets { s.sys with mcinfo3 := v }) ∧
       (f.land = .sys 0xE v → sets { s.sys with agstat := v }) ∧ (f.land = .sys 0x11 v → sets { s.sys with handleinfo := v }) ∧
       (f.land = .sys 0x13 v → sets { s.sys with inject := v &&& 0x7FFFFFFFFFFFFFFF#64 })) ∧
     (∀ v, f.land = .sys 0xF v → ∃ t, exec (.resultLand .lining) s = .next t ∧ t.mem = s.mem ∧
       (∀ j < 64, t.sys.seamreq.getLsbD j = if 51 ≤ j ∧ j < 61 then v.getLsbD j else if j = 63 then v.getLsbD 63
         else v.getLsbD 63 && (decide (61 ≤ j) || decide (j < 48)) && s.sys.seamreq.getLsbD j) ∧
       (v.getLsbD 63 = true → s.sys.seamreq.getLsbD 63 = false → s.status = .idle → t.status = .running ∧ t.hold.resumed = true) ∧
       (v.getLsbD 63 = false → s.status = .held → t.status = .running ∧ t.core.regs = r ∧
         ∃ p, t.core.panel = some p ∧ p.entryPc = r.pc ∧ p.entry = r ∧ p.gates = []) ∧
       (s.status ≠ .idle → s.status ≠ .held → t.status = s.status)) ∧
     (∀ (k : BitVec 2) (n : BitVec 10) (v : Dword), f.land = .ctxReg n k v →
       let c : Cl := k.toFin
       (∀ d : BitVec 5, n = d.setWidth 10 → core (r.setS c d v)) ∧
       (∀ d : BitVec 3, n.toNat = 0x20 + d.toNat → core (r.setP c d (v.getLsbD 0))) ∧
       (n = 0x28 → core (r.setFp c (v.extractLsb' 0 5))) ∧
       (∀ d : BitVec 4, n.toNat = 0x40 + d.toNat → core (r.wa d v)) ∧
       (n = 0x50 → core { r with pc := v.extractLsb' 0 17 }) ∧ (n = 0x51 → core { r with fmt := v.extractLsb' 0 32 }) ∧
       (∀ j < 6, n.toNat = 0x58 + 2 * j → core (r.setLoop j { r.loop j with count := v.extractLsb' 0 32, index := v.extractLsb' 32 32 })) ∧
       (∀ j < 6, n.toNat = 0x59 + 2 * j → core (r.setLoop j { r.loop j with
         valid := v.getLsbD 32, start := v.extractLsb' 16 16, stop := v.extractLsb' 0 16 })) ∧
       (∀ (i : BitVec 4) (j : Nat), j < 6 → n.toNat = 0x80 + 8 * i.toNat + j → core (r.setDelta i j (v.extractLsb' 0 32))) ∧
       (∀ d : BitVec 6, n.toNat = 0x100 + d.toNat → core (r.wac d { count := v.extractLsb' 0 32, err := v.getLsbD 32 }))))

/-- R106, R157, R186, R188, R241: stores on their way reach memory in order and leave every other byte: committed stores of
the tack buffer, which loads that have read before them still see (R268), multicast stores of this core and of another in the
scratchpads of their mask, and transposed tiles; an ist write changes its word of instruction memory. -/
def Obligations.StoresReachTheirBytes : Prop :=
  ∀ s : State, Canonical s → s.mem.broken = [] → s.running = [] → s.arriving = [] →
    (∀ g r, s.drains = g :: r → g.local_ < s.run → (∀ h q, r = h :: q → s.run ≤ h.local_) →
      ∃ t, exec .tackBufferDrain s = .next t ∧ t.core = { s.core with flights := s.core.flights.map (Flight.seeing [g]) } ∧ t.drains = r ∧
        (∀ a, (∀ c ∈ g.cells, c.1 ≠ a) → t.mem.byte a = s.mem.byte a) ∧
        (∀ a c, g.cells.reverse.find? (fun c => c.1 == a) = some c → t.mem.byte a = c.2)) ∧
    (let lands := fun (die : Nat) (mask : BitVec 16) (cells : List Host.Cell) =>
       ∃ t, exec .multicastLanding s = .next t ∧ t.core.mcast = [] ∧ t.casts = [] ∧ t.core.regs = s.core.regs ∧
         (∀ a, (∀ i < 16, mask.getLsbD i = true → ∀ c ∈ cells, scratchBase die i + c.1 ≠ a) → t.mem.byte a = s.mem.byte a) ∧
         (∀ i < 16, mask.getLsbD i = true → (∀ c ∈ cells, c.1 < 2 ^ 21) → ∀ a c,
           cells.reverse.find? (fun c => c.1 == a) = some c → t.mem.byte (scratchBase die i + a) = c.2)
     (∀ m, s.core.mcast = [m] → s.casts = [] → m.due < s.clock → lands m.die m.mask m.cells) ∧
     (∀ x, s.core.mcast = [] → s.casts = [x] → x.due < s.clock → lands s.ownDie x.mask x.cells)) ∧
    (∀ f n w v, s.core.flights = [f] → f.land = .xtr n w v → f.due < s.run →
      ∃ t, exec .xtrOutLanding s = .next t ∧ t.core.flights = [] ∧ t.core.regs = s.core.regs ∧
        let b := s.tileBase n.toNat
        let size := w / 8 * 16384
        t.mem.bytes b size = leBytes size v.toNat ∧ (∀ a, (a < b ∨ b + size ≤ a) → t.mem.byte a = s.mem.byte a)) ∧
    (∀ w, s.core.ists = [w] → w.due ≤ s.run → cellsWf s.imem.cells = true →
      ∃ t, exec .istWritePerform s = .next t ∧ t.core.ists = [] ∧ t.core.regs = s.core.regs ∧ t.mem = s.mem ∧
        t.imem.swapped = s.imem.swapped ∧ ∀ k, s.imem.istKey w.addr = some k → t.imem.word k = w.word)

/-- R46 to R48, R58, R60, R149, R159 to R161, R206, R229, R264, R329, R169: replies and acknowledgements, the watchdog and
the freeze alert, the lining's windows and its entry into the pending event with the lowest address, the end of a rewind,
the end of a walk, which starts the watchdog again where the main context's bundle awaits it, and waits that run out, an
acwait's by the counters with the writes that are due. The trigger cycle of the watchdog, one before this one, is the
model's reading (log entry 37). -/
def Obligations.CoreEventsTakeEffect : Prop :=
  ∀ s : State,
    (∀ n < s.core.flights.length, ∀ i ∈ [Instr.replyArrival n, .drainAck (2 * n)],
      ∃ t, exec i s = .next t ∧ t.core.regs = s.core.regs ∧
        t.core.flights = s.core.flights.mapIdx (fun k f => if k = n then { f with late := false } else f)) ∧
    (∀ n < s.lin.flights.length, ∃ t, exec (.drainAck (2 * n + 1)) s = .next t ∧ t.core = s.core ∧
      t.lin.flights = s.lin.flights.mapIdx (fun k f => if k = n then { f with late := false } else f)) ∧
    (∃ t, exec .freezeAlert s = .next t ∧ t.core = s.core ∧ t.hold = { s.hold with alerted := true } ∧
      ∃ e ∈ t.lin.pend, e.entry = 0x440 ∧ e.detail = BitVec.ofNat 52 s.hold.cause) ∧
    exec .shareWindow s = .next ({ s with lin := { s.lin with charge := 0, yielded := false, shareNow := s.lin.share } } : State) ∧
    (∀ e r, s.lin.serving = false → s.lin.stopped = false → s.lin.pend = e :: r →
      ∃ t, exec .liningEventEntry s = .next t ∧ t.core = s.core ∧ t.lin.serving = true ∧ t.lin.pend = r ∧
        t.lin.pc = BitVec.ofNat 16 e.entry ∧ (EventsInOrder s → ∀ x ∈ r, e.entry < x.entry) ∧
        t.lin.evinfo = if e.entry < 0x400 then s.lin.evinfo
          else BitVec.ofNat 64 ((e.entry - 0x400) / 0x40 * 2 ^ 56 + e.detail.toNat)) ∧
    (∀ r, s.rewind = some r →
      ((∀ x, r.after ≠ .trap x) → ∃ t, exec .rewindEnd s = .next t ∧ t.rewind = none ∧ t.hold.cause = 0 ∧ t.core = s.core ∧
        t.status = s.status) ∧
      (∀ x, r.after = .trap x → x.cause < 256 → x.reason < 8 → ∃ t, exec .rewindEnd s = .next t ∧ t.rewind = none ∧
        t.core.regs = s.core.regs ∧ t.status = .trapped ∧ t.sys.trapinfo0.toNat / 2 ^ 56 = x.cause ∧ t.sys.trapinfo1 = x.detail)) ∧
    (∀ f q p, s.core.flights = f :: q → f.late = true → f.due ≤ s.run → s.core.panel = some p → p.irrev = false → p.retry < 2 →
      ∃ t, exec .replyWatchdogExpiry s = .next t ∧ t.core.regs = { p.entry with pc := p.entryPc } ∧ t.core.flights = [] ∧
        t.sys.mcinfo0.toNat / 2 ^ 60 = 4 ∧ t.sys.mcinfo0.toNat % 2 ^ 32 = f.word.toNat ∧
        t.rewind = some { until_ := s.clock - 1 + 8, after := .replay }) ∧
    (∀ a w b, s.xlate.walks = a ++ w :: b → (∀ x ∈ a, x.ended ≠ none) → w.ended = none →
      let wdog := fun (t : State) => t.hold = if s.walkAwaited then { s.hold with wdog := 0 } else s.hold
      (∀ l, s.walk s.id.part w.va = some l → ∃ t, exec .walkComplete s = .next t ∧ t.core = s.core ∧ wdog t ∧
        t.xlate.core.head? = some l ∧ t.xlate.die.head? = some l ∧ t.xlate.walks = a ++ { w with ended := some true } :: b) ∧
      (s.walk s.id.part w.va = none → ∃ t, exec .walkComplete s = .next t ∧ t.core = s.core ∧ wdog t ∧
        t.xlate.core = s.xlate.core ∧ t.xlate.walks = a ++ { w with ended := some false } :: b)) ∧
    (let out := fun (w : TimedWait) => w.since + w.limit ≤ (s.ptime - 5) / 9
     let expires := fun (i : Instr) (f : TimedWait → Prop) => ∃ t, exec i s = .next t ∧ t.core = s.core ∧
       t.hold.waits.length = s.hold.waits.length ∧ ∀ (n : Nat) (w : TimedWait), s.hold.waits[n]? = some w →
         (f w → t.hold.waits[n]? = some { w with expired := true }) ∧ (¬ f w → t.hold.waits[n]? = some w)
     expires .mbTakeTimeout (fun w => w.kind = 1 ∧ out w) ∧ expires .notchHoldTimeout (fun w => w.kind = 2 ∧ out w) ∧
     expires .acwaitTimeout (fun w => w.kind = 0 ∧ out w ∧ w.need > (s.countersNow.rac (BitVec.ofNat 6 w.what)).count.toNat ∧
       (s.countersNow.rac (BitVec.ofNat 6 w.what)).err = false))

/-! ## Events of the engines, the outbox and the thimbles (chapters 11, 12, 15 and 16) -/

/-- R50, R190, R235, R246, R156: an engine takes the first command of its queue once its panel has committed, and none
before. The tiles that a copy or matrix command writes are filling from then on; a matrix command takes the cycles of R235,
and the matrix and clause engines run one at a time. R205: a copy command whose walk must wait for another starts later.
R164, R190, R235, R238, R246, R260: a command that ends leaves its tiles ready and empties those it popped, steps its
counter, and is over; mzero clears its accumulator tile; a matrix step that fails twice stops the engine with the trap of
cause 14 to come. That a copy, shuttle or outbox command has no cycle of its own to end in is the model's choice (log entry
6). -/
def Obligations.CommandsStartAndComplete : Prop :=
  (∀ (s : State) (c : Cmd) (r : List Cmd),
     let idle := fun (e : Engine) => ∀ x ∈ s.running, x.cmd.engine ≠ e
     let starts := fun (e : Engine) (due : Option Nat) => ∃ t, exec (.engineCommandStart e) s = .next t ∧ t.core.queue e = r ∧
       (∃ x, t.running = s.running ++ [x] ∧ x.cmd = c ∧ x.due = due) ∧
       ∀ n : BitVec 8, (n.toNat ∈ c.writes → n.toNat ∉ c.pops → (∀ m ∈ c.pops, m < 256) → (t.core.regs.rt n).state = 1) ∧
         (n.toNat ∈ c.pops → (t.core.regs.rt n).state = 3) ∧
         ((∀ m ∈ c.writes ++ c.pops, m < 256 ∧ m ≠ n.toNat) → t.core.regs.rt n = s.core.regs.rt n)
     (∀ e, s.core.queue e = c :: r → c.held = true → exec (.engineCommandStart e) s = .next s) ∧
     (c.held = false →
       (s.core.queue .copy = c :: r → s.walksWait (c.pages (s.keptOf c)) = false → starts .copy none) ∧
       (s.core.queue .copy = c :: r → s.walksWait (c.pages (s.keptOf c)) = true → exec (.engineCommandStart .copy) s = .next s) ∧
       (s.core.queue .matrix = c :: r → idle .matrix → starts .matrix (some (s.clock + (match c.op with
         | .mma _ _ _ _ => if c.fmt.extractLsb' 0 3 = 1 then 128 else 64
         | .mzero _ => 8
         | _ => 32)))) ∧
       (s.core.queue .matrix = c :: r → ¬ idle .matrix → exec (.engineCommandStart .matrix) s = .next s) ∧
       (∀ e ∈ [Engine.shuttle, .outbox], s.core.queue e = c :: r → ∃ t, exec (.engineCommandStart e) s = .next t ∧ t.core.queue e = r) ∧
       (s.core.queue .clause = c :: r → idle .clause → ∃ t, exec (.engineCommandStart .clause) s = .next t ∧
         t.core.queue .clause = r) ∧
       (s.core.queue .clause = c :: r → ¬ idle .clause → exec (.engineCommandStart .clause) s = .next s))) ∧
  (∀ (s : State) (x : Running), s.running = [x] → x.ended = false → s.arriving = [] →
     let c := x.cmd
     let k := s.core.regs.rac c.ac
     (c.engine = .copy → (∀ n ∈ c.writes, n < 256) → c.pops = [] → s.walksWait (c.pages x.kept) = false →
       ∃ t, exec (.copyCommandComplete c.id) s = .next t ∧ t.running = [] ∧ (t.core.regs.rac c.ac).count = k.count + 1 ∧
         (∀ n : BitVec 8, n.toNat ∈ c.writes → (t.core.regs.rt n).state = 2) ∧
         t.core.regs.cl = s.core.regs.cl ∧ t.core.regs.w = s.core.regs.w ∧ t.core.regs.a = s.core.regs.a ∧ t.core.regs.h = s.core.regs.h) ∧
     (∀ z, c.op = .mzero z → x.eff = ⟨[], [], [], some (z, ⟨0, 0⟩), none, 0, 0⟩ → c.writes = [] → c.pops = [] →
       (∃ t, exec (.matrixCommandComplete c.id ⟨false, []⟩) s = .next t ∧ t.running = [] ∧ t.core.regs = s.core.regs ∧ t.mem = s.mem ∧
         t.core.z = s.core.z.setIfInBounds z ⟨0, 0⟩) ∧
       (∃ t, exec (.matrixCommandComplete c.id ⟨true, []⟩) s = .next t ∧ t.core.z = s.core.z ∧ t.core.regs = s.core.regs ∧
         t.sys.engine = some (14, 1) ∧ (∃ y ∈ t.running, y.ended = true) ∧ t.sys.mcinfo0.toNat / 2 ^ 60 = 7)) ∧
     (∀ n sp off, c.op = .send (some n) sp off → x.srcRead = false → x.route = [] → c.writes = [] → c.pops = [] →
       ∃ t, exec (.shuttleSourceRead c.id) s = .next t ∧ t.running = [] ∧ (t.core.regs.rac c.ac).count = k.count + 1 ∧
         (t.core.regs.rac c.ac).err = k.err ∧ t.mem = s.mem) ∧
     (c.engine = .matrix → (∀ n ∈ c.pops, n < 256) → (∀ n ∈ c.writes, n < 256 ∧ n ∉ c.pops) →
       ∃ t, exec (.matrixCommandComplete c.id ⟨false, []⟩) s = .next t ∧ t.running = [] ∧
         (∀ n : BitVec 8, n.toNat ∈ c.pops → (t.core.regs.rt n).state = 0) ∧ ∀ n : BitVec 8, n.toNat ∈ c.writes → (t.core.regs.rt n).state = 2))

/-- R72 to R74, R194, R196, R235 to R238: what a matrix command does that starts and ends while nothing else happens. mma and mmas
add to each accumulator element the block sum of its row and column, scaled in mmas by the two tails; mload copies; mdrain writes
each element in the target's type, to a tile or to its spool slot, and with Z leaves zeros; poison follows. -/
def Obligations.MatrixCommandsCompute : Prop :=
  ∀ (s : State) (c : Cmd) (r : List Cmd), s.core.queue .matrix = c :: r → c.held = false → s.running = [] → s.arriving = [] →
    s.drains = [] → s.mem.broken = [] → Canonical s →
    let runs := fun (p : State → Prop) => ∃ t u, exec (.engineCommandStart .matrix) s = .next t ∧
      exec (.matrixCommandComplete c.id ⟨false, []⟩) t = .next u ∧ u.running = [] ∧ p u
    let ty : BitVec 3 := c.fmt.extractLsb' 0 3
    let out : BitVec 3 := c.fmt.extractLsb' 3 3
    let bytes := fun (t : BitVec 3) => if t = 0 then 4 else if t = 1 then 2 else 1
    let F := if ty = 1 then bf16 else e4m3
    let square := fun (n : Nat) (t : BitVec 3) => n < 256 ∧ (s.tile n).type = t ∧ (s.tile n).rowsM1 = 127 ∧ (s.tile n).colsM1 = 127 ∧
      (s.tile n).base.toNat % 64 = 0
    let place := fun (n : Nat) (t : BitVec 3) (i j : Nat) => s.tileBase n + bytes t * (128 * i + j)
    let word := fun (n : Nat) (t : BitVec 3) (i j : Nat) => leNat (s.mem.bytes (place n t i j) (bytes t))
    let bad := fun (a : Nat) => s.mem.poison.contains (a / 64)
    let others := fun (u : State) (z : Nat) => ∀ y, y ≠ z → u.acc y = s.acc y
    (∀ z a b scaled, c.op = .mma z a b scaled → z < 64 → ty = 1 ∨ ty = 3 → square a ty → square b ty →
      let tail := fun (n : Nat) => s.tileBase n + bytes ty * 16384
      runs fun u => u.mem = s.mem ∧ others u z ∧ ∀ i < 128, ∀ j < 128, ∃ S,
        IsBlockSum F (ty = 1) ((List.range 128).map fun k => (word a ty i k, word b ty k j)) S ∧
        (u.acc z).elem i j = (addE f32 ((s.acc z).elem i j) (if scaled then
          (mulE f32 S (mulE f32 (leNat (s.mem.bytes (tail a + 4 * i) 4)) (leNat (s.mem.bytes (tail b) 4))).1).1 else S)).1 ∧
        ((u.acc z).bad i j = true ↔ (s.acc z).bad i j = true ∨ (∃ k < 128, bad (place a ty i k) = true ∨ bad (place b ty k j) = true) ∨
          scaled = true ∧ (bad (tail a + 4 * i) = true ∨ bad (tail b) = true))) ∧
    (∀ z n, c.op = .mload z n → z < 64 → square n 0 → runs fun u => u.mem = s.mem ∧ others u z ∧ ∀ i < 128, ∀ j < 128,
      (u.acc z).elem i j = word n 0 i j ∧ (u.acc z).bad i j = bad (place n 0 i j)) ∧
    (∀ z target sp scale clear, c.op = .mdrain z target sp scale clear → z < 64 → out = 0 ∨ out = 1 ∨ out = 3 →
      let sc := if c.fmt.getLsbD 6 then some scale.toNat else none
      let w := bytes out
      let lost := fun (l : Nat) => ∃ i < 128, ∃ j < 128, (s.acc z).bad i j = true ∧ w * (128 * i + j) / 64 = l
      let keeps := fun (u : State) => others u z ∧ u.acc z = if clear then ⟨0, 0⟩ else s.acc z
      (∀ n, target = some n → square n out → runs fun u => keeps u ∧ u.core.spool = s.core.spool ∧
        (∀ i < 128, ∀ j < 128, IsDrained out sc ((s.acc z).elem i j) (leNat (u.mem.bytes (place n out i j) w))) ∧
        (∀ a, (a < s.tileBase n ∨ s.tileBase n + w * 16384 ≤ a) → u.mem.byte a = s.mem.byte a) ∧
        (∀ l < w * 256, u.mem.poison.contains (s.tileBase n / 64 + l) = true ↔ lost l)) ∧
      (target = none → runs fun u => keeps u ∧ u.mem = s.mem ∧ ∃ bs p,
        u.core.spool = s.core.spool.map (fun x => if x.id = sp then { x with data := some (bs, p) } else x) ∧
        bs.length = w * 16384 ∧ (∀ l, l ∈ p ↔ lost l) ∧
        ∀ i < 128, ∀ j < 128, IsDrained out sc ((s.acc z).elem i j) (leNat ((bs.drop (w * (128 * i + j))).take w))))

/-- R242 to R246, R166: what a copy command does that starts and ends while nothing else happens, each own-scratchpad descriptor form
as if its elements moved one at a time, in order: its bytes, STATUS, its counter and its tile. An invalid descriptor moves no byte
and gives code 5. -/
def Obligations.CopyCommandsMoveBytes : Prop :=
  ∀ (s : State) (c : Cmd) (r : List Cmd), s.core.queue .copy = c :: r → c.held = false → c.revoked = false → s.running = [] →
    s.arriving = [] → s.drains = [] → s.mem.broken = [] → s.wipes = [] → Canonical s → c.pops = [] →
    let k := s.core.regs.rac c.ac
    let runs := fun (err : Bool) (p : State → Prop) => ∃ t u, exec (.engineCommandStart .copy) s = .next t ∧
      exec (.copyCommandComplete c.id) t = .next u ∧ u.running = [] ∧
      u.core.regs.rac c.ac = { count := k.count + 1, err := k.err || err } ∧ p u
    (∀ h off n, c.op = .copyTile h off n → n < 256 → c.writes = [n] → (s.tile n).base.toNat % 64 = 0 → (s.tile n).footprint % 64 = 0 →
      let a := h.pbase.toNat + off.toNat
      let b := s.tileBase n
      let len := (s.tile n).footprint
      runs false fun u => (u.tile n).state = 2 ∧ u.mem.bytes b len = s.mem.bytes a len ∧
        (∀ x, (x < b ∨ b + len ≤ x) → u.mem.byte x = s.mem.byte x) ∧
        ∀ i < len / 64, (u.mem.poison.contains (b / 64 + i) = true ↔ ∃ j < 64, s.mem.poison.contains ((a + 64 * i + j) / 64) = true)) ∧
    (∀ minor h off, c.op = .copyDesc minor h off → 1 ≤ minor → minor ≤ 5 → c.writes = [] →
      let at_ := h.pbase.toNat + off.toNat
      let d : Desc := leNat (s.mem.bytes at_ 192)
      let list := if minor = 2 ∨ minor = 3 then indexWords d.nidx (s.mem.bytes (s.pad d.idx) (4 * d.nidx)) else []
      let es := d.elements minor list
      let ends := fun (code : Nat) (m : Memory) => runs (code != 0) fun u =>
        u.mem.bytes (at_ + 0x98) 8 = leBytes 8 (code * 2 ^ 60) ∧ ∀ a, (a < at_ + 0x98 ∨ at_ + 0xA0 ≤ a) → u.mem.byte a = m.byte a
      (d.srck = true → d.dstk = true → d.gen = false → d.shapeOk minor = true → d.placesOk minor es = true →
        ends 0 (if minor = 5 then s.mem else es.foldl (fun m e => m.store (cellsAt (s.pad e.do_.toNat)
          (if minor = 4 then leBytes d.size d.pat else m.bytes (s.pad e.so.toNat) d.size))) s.mem)) ∧
      (d.shapeOk minor = false ∨ d.placesOk minor es = false → ends 5 s.mem))

/-- R252, R263, R194: a delivery waits while its tile is not writable; then its first byte makes the tile filling, and its
last one makes it ready and steps the counter; a byte that took effect before the last one is not written again. R272, R293,
R297, R298, R300, R321, R325, R326, R328, R342: a packet leaves for its thimble, or ends with UNREACH; the thimble serves
it; a th.call starts its user routine; the reply writes STATUS and the results into the command's block and steps its
counter, as that of a post or a take does in a mailbox block, and POISON marks a line of the block; a notice steps a mailbox
count and wakes an idle core; a clause command ends with its code in ERR, and a bit that SECDED corrected in it is counted
(R347). The cycle from which a reply or the next try may come is the model's choice (log entry 6), as is what a mailbox
notice wakes (log entry 45), and that a byte which took effect before the last one is not written again (log entry 64). -/
def Obligations.DeliveriesAndPackets : Prop :=
  (∀ (s : State) (d : Delivery), d.own = none →
     let n := s.deliveryTile d
     let again := (s.clock + 1, Ev.shuttleDelivery d)
     (s.arriving = [] → s.deliverable d = false → exec (.shuttleDelivery d) s = .next { s with wires := s.wires ++ [again] }) ∧
     (s.arriving = [] → s.deliverable d = true → n < 256 → ∃ t a, exec (.shuttleDelivery d) s = .next t ∧ t.arriving = [a] ∧
       a.delivery = d ∧ a.tile = n ∧ t.wires = s.wires ++ [again] ∧ (t.tile n).state = 1 ∧ t.mem = s.mem) ∧
     (∀ a, s.arriving = [a] → a.delivery = d → a.tile < 256 → s.mem.broken = [] → s.running = [] → s.drains = [] → Canonical s →
       ∃ t, exec (.shuttleDelivery d) s = .next t ∧ t.arriving = [] ∧ (t.tile a.tile).state = 2 ∧
         (t.core.regs.rac d.ac).count = (s.core.regs.rac d.ac).count + 1 ∧
         (t.core.regs.rac d.ac).err = ((s.core.regs.rac d.ac).err || a.err != 0) ∧
         (∀ b, (∀ c ∈ a.cells, c.1 ≠ b) → t.mem.byte b = s.mem.byte b) ∧
         (∀ b, b ∈ a.flowed → t.mem.byte b = s.mem.byte b) ∧
         (∀ b c, b ∉ a.flowed → a.cells.reverse.find? (fun c => c.1 == b) = some c → t.mem.byte b = c.2))) ∧
  (∀ s : State,
     (∀ (x : Running) (p : Packet), s.sendable = some (x, p) →
       (s.deadDies.contains (dieOf p.addr.toNat) = false → dieOf p.addr.toNat = s.ownDie → ∃ t, exec .packetSend s = .next t ∧ t.packets = s.packets ++ [p] ∧
         t.core = s.core ∧ t.mem = s.mem) ∧
       (s.deadDies.contains (dieOf p.addr.toNat) = true → p.sdie = s.id.die → p.score = s.id.core → ∃ t,
         exec .packetSend s = .next t ∧ t.packets = s.packets ∧
         t.wires = s.wires ++ [(s.clock + 1, .thimbleReply { id := p.id, code := 3, data := [] })])) ∧
     (∀ p : Packet, s.packets = [p] → p.sdie = s.id.die → p.score = s.id.core →
       (∀ t, p.op = 9 → 16 ≤ p.ctl.toNat → p.ctl.toNat < 32 → s.thimbleOf p.addr.toNat = some t →
         ∃ u r, exec .thimblePacket s = .next u ∧ u.routine = some r ∧ r.die = t.1 ∧ r.unit = t.2 ∧ r.pc = 0 ∧
           r.get 0 = p.addr.setWidth 64 ∧ r.get 1 = p.data.getD 0 0 ∧ r.get 2 = p.data.getD 1 0 ∧ r.get 3 = p.data.getD 2 0 ∧
           r.get 4 = 0 ∧ u.packets = [] ∧ u.mem = s.mem) ∧
       (p.op = 9 → (p.ctl.toNat < 16 ∨ 32 ≤ p.ctl.toNat) → ∃ u, exec .thimblePacket s = .next u ∧ u.packets = [] ∧ u.mem = s.mem ∧
         u.wires = s.wires ++ [(s.clock + 1, .thimbleReply { id := p.id, code := 1, data := [] })])) ∧
     (∀ (x : Running) (r : Reply), s.running = [x] → x.eff.stores = [] → s.arriving = [] → r.id = x.cmd.id → s.mem.broken = [] →
       Canonical s → (r.data.map (·.1)).Nodup → (∀ e ∈ r.data, e.1 < 8) →
       let k := s.core.regs.rac x.cmd.ac
       let ends := fun (blk : Dword) (data status line : Nat) =>
         let b := s.pad blk.toNat
         blk.toNat % 64 = 0 → ∃ t, exec (.thimbleReply r) s = .next t ∧ t.running = [] ∧
           t.core.regs.rac x.cmd.ac = { count := k.count + 1, err := k.err || r.code == 1 || r.code == 2 || r.code == 3 || r.code == 7 } ∧
           t.mem.bytes (b + status) 8 = leBytes 8 r.code.toNat ∧
           (r.code ≠ 7 → (∀ e ∈ r.data, t.mem.bytes (b + data + 8 * e.1) 8 = leBytes 8 e.2.toNat) ∧
             ∀ a, (a < b + status ∨ b + status + 8 ≤ a) → (∀ e ∈ r.data, a < b + data + 8 * e.1 ∨ b + data + 8 * e.1 + 8 ≤ a) →
               t.mem.byte a = s.mem.byte a) ∧
           (r.code = 7 → t.mem.poison.contains ((b + line) / 64) = true ∧
             ∀ a, (a < b + status ∨ b + status + 8 ≤ a) → t.mem.byte a = s.mem.byte a)
       (∀ m h o blk, x.cmd.op = .thimble m h o blk → ends blk 16 8 0x40) ∧
       (∀ d blk, x.cmd.op = .post d blk → ends blk 0 0x40 0) ∧ (∀ n blk, x.cmd.op = .take n blk true → ends blk 0 0x40 0)) ∧
     (∀ n : BitVec 2, ∃ t, exec (.mailboxNotice n) s = .next t ∧
       t.core.regs.mbc = vput (k := 2) s.core.regs.mbc n (vget (k := 2) s.core.regs.mbc n + 1) ∧
       t.status = (if s.status = .idle then .running else s.status) ∧ (s.status = .idle → t.hold.resumed = true) ∧ t.mem = s.mem) ∧
     (∀ (x : Running) (n : Nat) (a : Dword) (h : Handle), s.running = [x] → x.cmd.op = .clause n a h → x.ended = true →
       x.eff.code ≠ 0 → ∃ t, exec (.clauseCommandComplete x.cmd.id .none) s = .next t ∧ t.running = [] ∧ t.clause.inst = s.clause.inst ∧
         t.sys.clErr = BitVec.ofNat 4 x.eff.code ∧ (t.core.regs.rac x.cmd.ac).count = (s.core.regs.rac x.cmd.ac).count + 1 ∧
         (t.core.regs.rac x.cmd.ac).err = true) ∧
     (∀ (x : Running) (a : Dword) (h : Handle) (i : Nat), s.running = [x] → x.cmd.op = .clause 3 a h → x.ended = true →
       x.eff.code = 0 → s.myInst = some i → i < 4 → ∃ t, exec (.clauseCommandComplete x.cmd.id .none) s = .next t ∧ t.running = [] ∧
         t.sys.clErr = 0 ∧ (t.core.regs.rac x.cmd.ac).count = (s.core.regs.rac x.cmd.ac).count + 1 ∧
         (t.clauseInst i).level = (s.clauseInst i).level + 1 ∧
         (t.clauseInst i).trail = (s.clauseInst i).trail ++
           [⟨0, 0, (s.clauseInst i).level + 1, a.getLsbD 11, a.extractLsb' 0 11⟩]) ∧
     (∀ n, exec (.clauseCommandComplete n .corrected) s = exec (.clauseCommandComplete n .none) (s.count 347)))

/-! ## Agreement at the root and at the core (chapter 13) -/

/-- R306 to R310, R315, R316, R318, R168: a contribution of a core that is no current member is EXCLUDED; the last one of an
instance resolves it; a late limit resolves what waits; an outcome writes AGSTAT and lets the branch that waits go on at its
arm, at the next bundle, or at the handler that it names; one that comes as poison rolls the core back to its agreed branch
(R276); a join is answered with the instance to join at, and its reply moves ASEQ there and clears the report of its slot
(R317); holds of partners come and go. The cycle from which an answer may come is the model's choice (log entry 6); the
state after a discarded arm, and that the answer carries the handler the core goes to, are its readings (log entries 16 and
56). -/
def Obligations.AgreementEventsTakeEffect : Prop :=
  ∀ s : State,
    (∀ (c : Contribution) (g : Group), s.rooted c.gid = some g → c.die = s.id.die → c.core = s.id.core →
      (g.isCurrent c.rank c.die c.core = false → ∃ t o, exec (.agreementContribution c) s = .next t ∧ t.groups = s.groups ∧
        t.wires = s.wires ++ [(s.legEnd c.gid, .agreementOutcome o)] ∧ o.outcome = 4 ∧ o.seq = c.seq ∧ o.tag = c.tag) ∧
      (s.groups = [g] → g.isCurrent c.rank c.die c.core = true → g.currentRanks = [c.rank] → g.pending = [] → g.resolved = [] →
        g.deadNext = false → ∃ t o, exec (.agreementContribution c) s = .next t ∧
        t.wires = s.wires ++ [(s.legEnd c.gid, .agreementOutcome o)] ∧ o.seq = c.seq ∧ o.tag = c.tag ∧ o.late = false ∧
        o.dead = false ∧ o.value = combine c.op [c.value] ∧
        o.outcome = (if c.agv || compareBy c.cc.toNat (combine c.op [c.value]) c.ref then 1 else 2))) ∧
    (∀ (g : Group) (i : Instance), s.groups = [g] → g.pending = [i] →
      (s.ptime / 9 < i.since + g.late → exec (.lateLimitExpiry g.gid) s = .next s) ∧
      (i.since + g.late ≤ s.ptime / 9 → ∃ t h r, exec (.lateLimitExpiry g.gid) s = .next t ∧ t.groups = [h] ∧ h.gid = g.gid ∧
        h.pending = [] ∧ h.resolved.head? = some r ∧ r.seq = i.seq ∧ t.core = s.core)) ∧
    (∀ (o : OutcomeMsg) (w : AgreeWait), s.core.agree = some w → w.kind = .agr → w.ahead = none → w.gid = o.gid → w.seq = o.seq →
      o.tag ≠ 1023 → o.poisoned = false → s.core.regs.depth = 0 → ∃ t, exec (.agreementOutcome o) s = .next t ∧
        t.sys.agstat.toNat / 2 ^ 61 = o.outcome.toNat ∧ t.sys.agstat.toNat % 2 ^ 32 = o.value.toNat ∧
        (o.outcome = 1 → t.core.regs = { s.core.regs with pc := BitVec.ofNat 17 w.target } ∧ t.core.agree = none) ∧
        (o.outcome = 2 → t.core.regs = { s.core.regs with pc := BitVec.ofNat 17 (w.baddr.toNat + 16) } ∧ t.core.agree = none) ∧
        (3 ≤ o.outcome.toNat → t.core.regs = { w.after with pc := BitVec.ofNat 17 o.handler } ∧ t.core.agree = none ∧
          t.hold.cause = 9)) ∧
    (∀ (o : OutcomeMsg) (w : AgreeWait) (p : Panel), s.core.agree = some w → w.kind = .agr → w.gid = o.gid → w.seq = o.seq →
      o.tag ≠ 1023 → o.poisoned = true → s.core.panel = some p → p.irrev = false → p.retry < 2 →
      ∃ t, exec (.agreementOutcome o) s = .next t ∧ t.core.regs = { p.entry with pc := p.entryPc } ∧ t.core.agree = none ∧
        t.sys.agstat = s.sys.agstat ∧ t.sys.mcinfo0.toNat / 2 ^ 60 = 3) ∧
    (∀ (o : OutcomeMsg) (w : AgreeWait) (d : BitVec 5), s.core.agree = some w → w.kind = .agv d → w.gid = o.gid → w.seq = o.seq →
      o.tag ≠ 1023 → o.poisoned = false → o.outcome.toNat < 3 → s.core.regs.depth = 0 → ∃ t, exec (.agreementOutcome o) s = .next t ∧
        t.core.regs = { s.core.regs.setS 0 d (o.value.signExtend 64) with pc := BitVec.ofNat 17 (w.baddr.toNat + 16) } ∧
        t.core.agree = none) ∧
    (∀ (j : JoinMsg) (g : Group), s.rooted j.gid = some g → j.die = s.id.die → j.core = s.id.core →
      s.deadDies.contains j.die.toNat = false →
      let answers := fun (a : JoinAnswer → Prop) => ∃ t r, exec (.joinRequest j) s = .next t ∧ t.core = s.core ∧ a r ∧
        t.wires = s.wires ++ [(s.legEnd j.gid, .joinReply r)]
      (g.isCurrent j.rank j.die j.core = true → answers fun r => r.ok = true ∧ r.j = j.aseq ∧ r.members = g.currentRanks.length) ∧
      (∀ m, g.members[j.rank]? = some m → m.current = false → m.die = j.die → m.core = j.core →
        answers fun r => r.ok = true ∧ r.j = g.next) ∧
      (g.members[j.rank]? = none → answers fun r => r.ok = false)) ∧
    (∀ (r : JoinAnswer) (w : AgreeWait), s.core.agree = some w → w.kind = .agj → w.gid = r.gid → s.core.regs.depth = 0 →
      let g := s.core.regs.rg w.slot
      (r.ok = true → ∃ t, exec (.joinReply r) s = .next t ∧ t.core.agree = none ∧
        t.core.regs = { s.core.regs.wg w.slot { g with aseq := r.j } with pc := BitVec.ofNat 17 (w.baddr.toNat + 16) } ∧
        t.sys.agstat.toNat / 2 ^ 61 = 1 ∧ t.report w.slot.toNat = ⟨[], 0⟩) ∧
      (r.ok = false → ∃ t, exec (.joinReply r) s = .next t ∧ t.core.agree = none ∧
        t.core.regs = { s.core.regs with pc := BitVec.ofNat 17 r.handler } ∧ t.sys.agstat.toNat / 2 ^ 61 = 4 ∧
        t.report w.slot.toNat = ⟨[], 0⟩)) ∧
    (∀ h : HoldMsg,
      (h.set = true → ∃ t, exec (.notchHoldArrival h) s = .next t ∧ t.core = s.core ∧
        t.sys.holds = (s.sys.holds.filter fun x => x.rank != h.rank) ++ [{ rank := h.rank, carried := h.notch, passed := h.notch }]) ∧
      (h.set = false → h.notch = 0xFFFF → ∃ t, exec (.notchHoldArrival h) s = .next t ∧ t.core = s.core ∧
        ∀ x ∈ t.sys.holds, x.rank ≠ h.rank))

/-! ## The ring station, health and package time (chapter 14) -/

/-- R282 to R291: a slot passes along its ring where it does not leave it; one that leaves a ring for another takes a
position of its partition and a link of its next leg, or waits; a leg keeps to trained links, ends in the package at the
slot's goal, and round the rack at the bridge of the goal's package. A refused slot laps and then bounces, and goes out
again after 40 ns. Flits are acknowledged in order and five form the slot that arrives, a bad one is asked for again,
acknowledged ones leave the retry buffer and replays send the rest; a failed link leaves service until it is trained, and
the lining is told its port. A slot is sent as five flits and takes its position of one link for the frame; a packet of
several slots acts when the last has come. R285, R292, R293, R295, R310: a frame begins with the newest table that is due,
and the time master sends package time in it; beacons; a die that is silent or reports a fatal error is declared dead; its
death is passed on, and its packets end; a die is readmitted once its recovery reset has completed, and rejoins nothing; the
time master's package time is stepped before S2 and slewed in S2, other dies follow what position 0 brings, and time goes on
in holdover. What a failed link's slots do, what a death ends, how a correction is made, the place of a slot's bits, what an
acknowledgement frees, and the form in which the GPM names a time master and gives ranges back follow the model's readings
(log entries 38, 53, 36, 84, 86 and 83). -/
def Obligations.FabricEventsTakeEffect : Prop :=
  (∀ s : State,
     let ok := fun (p : RingSlot) => p.typ ≠ 0 ∧ p.typ.toNat < 7 ∧ unitValid p.dunit.toNat = true ∧ ∀ m, p.body ≠ .system m
     let leaves := fun (t : State) (n : Nat) (q : RingSlot) =>
       t.outs = s.outs ++ .slot q :: ((List.range 5).zip (slotFlits q)).map (fun x => .flit n (flitOf ((s.link n).next + x.1) x.2)) ∧
       t.fabric.used = s.fabric.used ++ [(n, q.pos.toNat)] ∧ (n < 16 → (t.link n).next = (s.link n).next + 5)
     let passes := fun (p q : RingSlot) => ∀ l, s.eitherWay q.rack q.cw q.via.toNat = some l →
       ∃ t, exec (.ringSlotArrival p) s = .next t ∧ t.core = s.core ∧ t.mem = s.mem ∧
         leaves t ((l.links.find? fun n => !s.fabric.used.contains (n, q.pos.toNat)).getD (l.links.headD 0)) { q with cw := l.cw }
     let goes := fun (p : RingSlot) (l : Leg) => (s.freePos l.rack p).bind fun i => (s.freeLink l p i).map fun n => (i, n)
     let onLeg := fun (p : RingSlot) (l : Leg) (i : Nat) =>
       { p with rack := l.rack, cw := l.cw, via := BitVec.ofNat 10 l.via, pos := BitVec.ofNat 6 i }
     (∀ p : RingSlot, p.typ = 0 → exec (.ringSlotArrival p) s = .next s) ∧
     (∀ p : RingSlot, ok p → p.via ≠ s.id.die → passes p p) ∧
     (∀ (p : RingSlot) (l : Leg), ok p → p.via = s.id.die → slotGoal p ≠ s.ownDie → s.nextLeg p = some l →
       ∃ t, exec (.ringSlotArrival p) s = .next t ∧ t.core = s.core ∧ t.mem = s.mem ∧
         match goes p l with
         | some (i, n) => leaves t n (onLeg p l i) ∧ t.fabric.waiting = s.fabric.waiting
         | none => t.outs = s.outs ∧ t.fabric.waiting = s.fabric.waiting ++ [p]) ∧
     (∀ (p : RingSlot) (l : Leg) (i n : Nat), s.freeLink l p i = some n → n ∈ l.links ∧ (n, i) ∉ s.fabric.used) ∧
     (∀ (p : RingSlot) (l : Leg), s.nextLeg p = some l →
       (∀ n ∈ l.links, (s.link n).up = true ∧ (8 ≤ n ↔ l.rack = true)) ∧
       (slotGoal p / 8 = s.ownDie / 8 → l.rack = false ∧ l.via = slotGoal p) ∧
       (l.rack = true → s.ownDie % 4 = 0 → l.via / 8 = slotGoal p / 8 ∧ l.via % 8 = s.ownDie % 8)) ∧
     (∀ (p : RingSlot) (a : BitVec 52) (bs : List (BitVec 8)), ok p → p.via = s.id.die → p.bnc = false → p.ddie = s.id.die →
       p.body = .host a bs →
       (s.fabric.credit = true → p.cnt ≤ 1 →
         ∃ t, exec (.ringSlotArrival p) s = .next t ∧ t.outs = s.outs ++ [.toHost a bs] ∧ t.core = s.core) ∧
       (s.fabric.credit = true → 1 < p.cnt → p.idx < p.cnt → s.fabric.parts = [] →
         ∃ t, exec (.ringSlotArrival p) s = .next t ∧ t.outs = s.outs ∧ t.fabric.parts = [p] ∧ t.core = s.core) ∧
       (∀ (b : BitVec 52) (cs : List (BitVec 8)), s.fabric.credit = true → p.cnt = 2 → p.idx = 1 →
         s.fabric.parts = [{ p with idx := 0, seq := p.seq - 1, body := .host b cs }] →
         ∃ t, exec (.ringSlotArrival p) s = .next t ∧ t.outs = s.outs ++ [.toHost b (cs ++ bs)] ∧ t.fabric.parts = [] ∧ t.core = s.core) ∧
       (s.fabric.credit = false → p.lap = false → passes p { p with lap := true }) ∧
       (s.fabric.credit = false → p.lap = true → p.rack = false → p.sdie.toNat / 8 = s.ownDie / 8 →
         passes p { p with bnc := true, via := p.sdie }) ∧
       (s.fabric.credit = false → p.lap = true → p.rack = true →
         passes p { p with bnc := true, via := BitVec.ofNat 10 (p.sdie.toNat / 8 * 8 + s.ownDie % 8) })) ∧
     (∀ p : RingSlot, ok p → p.via = s.id.die → p.bnc = true → p.sdie = s.id.die →
       s.fabric.bounces = [] → ∃ t, exec (.ringSlotArrival p) s = .next t ∧ t.outs = s.outs ∧ t.core = s.core ∧
         t.fabric.bounces = [{ slot := { p with lap := false, bnc := false, via := p.ddie }, n := 1, due := some (s.clock + 72) }]) ∧
     (∀ (k : Nat) (b : Bounce) (d : Nat) (l : Leg), s.fabric.bounces[k]? = some b → b.due = some d → s.nextLeg b.slot = some l →
       ∃ t, exec (.bounceResend k) s = .next t ∧ t.core = s.core ∧ t.mem = s.mem ∧
         match goes b.slot l with
         | some (i, n) => leaves t n (onLeg b.slot l i) ∧ t.fabric.bounces[k]? = some { b with due := none }
         | none => t = s) ∧
     (∀ (l : LinkId) (f : Flit),
       let x := s.link (linkNum l)
       (x.up = false → exec (.flitReceive l f) s = .next s) ∧
       (x.up = true → f.kind = .flit → flitOk f = true → f.seq = x.expect → ∃ t, exec (.flitReceive l f) s = .next t ∧
         t.outs = s.outs ++ [.ack l f.seq] ∧ t.core = s.core ∧
         (x.got.length < 4 → t.agenda = s.agenda ∧
           t.link (linkNum l) = { x with expect := x.expect + 1, fails := 0, got := x.got ++ [f.data] }) ∧
         (4 ≤ x.got.length → t.agenda = s.agenda ++ [.ringSlotArrival (slotFrom l (x.got ++ [f.data]))] ∧
           t.link (linkNum l) = { x with expect := x.expect + 1, fails := 0, got := [] })) ∧
       (x.up = true → f.kind = .flit → flitOk f = true → f.seq ≠ x.expect → exec (.flitReceive l f) s = .next s) ∧
       (x.up = true → f.kind = .flit → flitOk f = false → ∃ t, exec (.flitReceive l f) s = .next t ∧
         t.outs = s.outs ++ [.replay l x.expect] ∧ (t.link (linkNum l)).expect = x.expect ∧ t.core = s.core ∧
         (t.link (linkNum l)).fails = (if f.seq = x.expect then x.fails + 1 else x.fails) ∧
         let lately := (x.errs.filter fun e => decide (s.ptime / 9 < e + 1000000)).length
         t.agenda = if 9 ≤ (t.link (linkNum l)).fails ∨ 256 ≤ lately then s.agenda ++ [.linkFail l] else s.agenda) ∧
       (x.up = true → f.kind = .ack → ∃ t, exec (.flitReceive l f) s = .next t ∧ t.outs = s.outs ∧
         t.link (linkNum l) = { x with retry := x.retry.filter fun r => decide (f.seq < r.1 - r.2.1 + 4) } ∧ t.core = s.core) ∧
       (x.up = true → f.kind = .replay → ∃ t, exec (.flitReceive l f) s = .next t ∧ t.fabric = s.fabric ∧ t.core = s.core ∧
         t.outs = s.outs ++ (x.retry.filter fun r => decide (f.seq ≤ r.1)).map fun r => .flit (linkNum l) (flitOf r.1 r.2.2)) ∧
       (x.up = true → ∃ t, exec (.linkFail l) s = .next t ∧ (t.link (linkNum l)).up = false ∧ t.core = s.core ∧ t.mem = s.mem ∧
         ∃ e ∈ t.lin.pend, e.entry = 0x480 ∧
           e.detail = BitVec.ofNat 52 ((if l.rack then 2 ^ 8 else 0) + (if l.east then 0 else 2 ^ 4) + l.idx.toNat)) ∧
       (∃ t, exec (.linkRetrained l) s = .next t ∧ (t.link (linkNum l)).up = true ∧ (t.link (linkNum l)).fails = 0 ∧
         (t.link (linkNum l)).errs = [] ∧ t.core = s.core)) ∧
     (∃ t, exec .postedWriteCredit s = .next t ∧ t.fabric.credit = true ∧ t.core = s.core)) ∧
  (∀ s : State,
     (∃ t, exec .frameStart s = .next t ∧ t.fabric.frame = s.ptime / 360 ∧ t.core = s.core ∧ (s.fabric.waiting = [] → t.fabric.used = []) ∧
       (∀ x ∈ t.fabric.tables ++ t.fabric.rackTables, s.ptime / 360 < x.1) ∧
       (∀ k c, s.fabric.tables = [(k, c)] → (k ≤ s.ptime / 360 → t.fabric.table = c) ∧ (s.ptime / 360 < k → t.fabric.table = s.fabric.table)) ∧
       (s.fabric.waiting = [] → t.outs = if s.isTimeMaster then s.outs ++ [.system (.time (s.ptime / 9))] else s.outs)) ∧
     (∃ t, exec (.healthBeacon s.id.die) s = .next t ∧ t.outs = s.outs ++ [.beacon s.id.die] ∧ t.fabric.beat = s.ptime / 9000 ∧
       t.core = s.core) ∧
     (∀ d : BitVec 10, d ≠ s.id.die → ∃ t, exec (.healthBeacon d) s = .next t ∧ t.outs = s.outs ∧
       (d.toNat, s.ptime / 9) ∈ t.fabric.seen ∧ t.core = s.core) ∧
     (∀ d : BitVec 10, ∀ i ∈ [Instr.beaconTimeout d, .fatalMachineError d],
       (s.deadDies.contains d.toNat = true → exec i s = .next s) ∧
       (s.deadDies.contains d.toNat = false → ∃ t, exec i s = .next t ∧ t.outs = s.outs ∧
         t.wires = s.wires ++ [(s.clock + 1, .deathReport d)] ∧ t.core = s.core)) ∧
     (∀ d : BitVec 10, (s.deadDies.contains d.toNat = true → exec (.deathReport d) s = .next s) ∧
       (s.deadDies.contains d.toNat = false → s.running = [] → s.groups = [] → ∃ t, exec (.deathReport d) s = .next t ∧
         t.deadDies = s.deadDies ++ [d.toNat] ∧ (∀ p ∈ t.packets, dieOf p.addr.toNat ≠ d.toNat) ∧ t.core = s.core ∧
         .death d ∈ t.outs ∧ (∀ b ∈ t.fabric.bounces, b.slot.ddie ≠ d) ∧ ∀ r, t.routine = some r → r.die ≠ d.toNat)) ∧
     (∀ d : BitVec 10,
       let over_ := d.toNat / 8 ≠ s.ownDie / 8 ∨
         (s.fabric.resets.contains d.toNat = true ∧ ∀ w ∈ s.wipes, ¬ (dieOf w.1 ≤ d.toNat ∧ d.toNat ≤ dieOf (w.1 + w.2 - 1)))
       (¬ over_ → exec (.dieReadmission d) s = .next s) ∧
       (over_ → ∃ t, exec (.dieReadmission d) s = .next t ∧ d.toNat ∉ t.deadDies ∧ d.toNat ∉ t.fabric.resets ∧ t.groups = s.groups ∧
         t.core = s.core ∧ ∀ x ∈ s.deadDies, x ≠ d.toNat → x ∈ t.deadDies)) ∧
     (∀ o : Int, ∀ i ∈ [Instr.ptpMessage o, .ppsInput o],
       (s.isTimeMaster = false → exec i s = .next s) ∧
       (s.isTimeMaster = true → s.boot.stage = 2 → ∃ t, exec i s = .next t ∧ t.ptime = s.ptime ∧ t.time.corr = o * 9000000 ∧
         t.time.holdover = false ∧ t.core = s.core) ∧
       (s.isTimeMaster = true → s.boot.stage ≠ 2 → 0 ≤ o → ∃ t, exec i s = .next t ∧ (t.ptime : Int) = s.ptime + 9 * o ∧
         t.time.holdover = false ∧ t.core = s.core) ∧
       (s.isTimeMaster = true → s.boot.stage ≠ 2 → o < 0 → ∃ t, exec i s = .next t ∧ t.ptime = s.ptime)) ∧
     (∀ (p : RingSlot) (n : Nat), p.typ ≠ 0 → p.typ.toNat < 7 → unitValid p.dunit.toNat = true → p.ddie = s.id.die →
       p.body = .system (.time n) → s.isTimeMaster = false → s.boot.stage = 2 → ∃ t, exec (.ringSlotArrival p) s = .next t ∧
         t.ptime = s.ptime ∧ t.time.corr = ((n : Int) - (s.ptime / 9 : Nat)) * 9000000 ∧ t.core = s.core ∧
         t.outs = if p.rack ∨ (s.ownDie % 4 = 0 ∧ s.ownDie / 8 = s.time.master) then s.outs ++ [.system (.time n)] else s.outs) ∧
     (∀ (p : RingSlot) (m : SystemMsg), p.typ ≠ 0 → p.typ.toNat < 7 → unitValid p.dunit.toNat = true → p.ddie = s.id.die → p.body = .system m →
       ∃ t, exec (.ringSlotArrival p) s = .next t ∧ (∀ k, m = .master k → t.time.master = k) ∧
         (∀ d, m = .beacon d → (d.toNat, s.ptime / 9) ∈ t.fabric.seen) ∧
         ∀ l, m = .returned l → ∀ x ∈ l, regionOf x.1 ≤ 1 → x ∈ t.wipes ∧ ∀ a, x.1 ≤ a → a < x.1 + x.2 → t.mem.byte a = 0) ∧
     (∃ t, exec .ptpSourceLoss s = .next t ∧ t.time = { s.time with holdover := true } ∧ t.ptime = s.ptime ∧ t.core = s.core))

/-! ## Stopping a core, its context, and the die's registers (chapters 8, 9, 10 and 16) -/

/-- R172 to R174, R201: a kill stops the core at once and wipes its registers and its scratchpad; at a deadline the GPM
kills or waits; the context port starts only on a stopped core, and when it ends DONE is set with a code and the lining is
told; a save from an address outside the partition ends with code 1. A save writes each chosen section at its offset, a
restore fills what it names from there, and an entry that a rule rejects stays empty with code 4. R333, R354: the split word
is written while no instance is held, and a change of MODE empties the instances; GO makes a window busy, and its end sets
DONE with a code: a save writes the image and frees the instance, a restore fills it from a valid image, a rebind takes a
resident one, and a release empties it. A killed core that cannot be launched, the failed instance that a window takes, the
free value that says whether a job has ended, the order of the port's sections and what becomes of an entry that a rule
rejects follow log entries 33, 34, 1 and 22. -/
def Obligations.ContextsAndClauseWindows : Prop :=
  (∀ s : State,
     (∀ i ∈ [Instr.kill, .preemptionDeadline true], ∃ t, exec i s = .next t ∧ t.status = .dead ∧ t.core.regs = Regs.reset ∧
       t.core.panel = none ∧ t.core.flights = [] ∧ t.running = [] ∧
       (∀ a, scratchBase s.ownDie s.ownCore ≤ a → a < scratchBase s.ownDie s.ownCore + 0x200000 → Canonical s → t.mem.byte a = 0) ∧
       (scratchBase s.ownDie s.ownCore, 0x200000) ∈ t.wipes ∧
       ∀ j < 4, (s.clauseInst j).binding.holder = some s.id.core → t.clauseInst j = ClauseInst.empty .free) ∧
     exec (.preemptionDeadline false) s = .next s ∧
     (let stopped := s.status ≠ .running ∧ ∀ d, s.status ≠ .halting d
      ∀ x ∈ [(Instr.contextSave, false), (.contextRestore, true)],
       (s.port.busy = true → exec x.1 s = .next s) ∧
       (s.port.busy = false → stopped → ∃ t, exec x.1 s = .next t ∧ t.port.busy = true ∧ t.port.done = false ∧ t.port.restore = x.2 ∧
         t.core = s.core ∧ t.mem = s.mem) ∧
       (s.port.busy = false → ¬ stopped → ∃ t, exec x.1 s = .next t ∧ t.port = s.port ∧ t.core = s.core)) ∧
     (s.port.busy = false → exec .contextPortDone s = .next s) ∧
     (s.port.busy = true → s.port.addr.toNat % 0x1000 ≠ 0 → ∃ t, exec .contextPortDone s = .next t ∧ t.port.busy = false ∧
       t.port.done = true ∧ t.port.err = 1 ∧ t.core = s.core ∧ t.mem = s.mem ∧ ∃ e ∈ t.lin.pend, e.entry = 0x400 + 0x40 * 7) ∧
     (s.port.busy = true → s.port.addr.toNat % 0x1000 = 0 → s.ownsAddress s.id.part.toNat s.port.addr.toNat = true →
       s.stopped = true → s.port.restore = false → s.port.sect = 0 → ∃ t, exec .contextPortDone s = .next t ∧ t.port.done = true ∧
         t.port.err = 0 ∧ t.core.regs = s.core.regs ∧ t.drains = []) ∧
     (s.port.busy = true → s.saveAreaOk = true → s.stopped = true → s.drains = [] → s.running = [] → s.arriving = [] → s.wipes = [] →
       s.mem.fields = [] → s.mem.poison = [] →
       let a := s.port.addr.toNat
       let sect := fun (n : Nat) => s.port.sect.getLsbD n = true
       let dw := fun (o : Nat) => leNat (s.mem.bytes (a + o) 8)
       (s.port.restore = false → ∃ t, exec .contextPortDone s = .next t ∧ t.port.done = true ∧ t.port.err = 0 ∧ t.core.regs = s.core.regs ∧
         (∀ n < 7, sect n → ∀ x ∈ s.core.regs.section_ n, t.mem.bytes (a + x.1) x.2.length = x.2) ∧
         (sect 7 → ∀ i < 64, s.port.accmask.getLsbD i = true → ∀ j < 0x10000,
           (t.mem.byte (a + 0x40000 + 0x10000 * i + j)).toNat = (s.core.z.toArray.getD i ⟨0, 0⟩).data.toNat / 256 ^ j % 256) ∧
         (sect 8 → ∀ j < 0x200000, t.mem.byte (a + 0x440000 + j) = s.mem.byte (scratchBase s.ownDie s.ownCore + j))) ∧
       (s.port.restore = true → ∃ t, exec .contextPortDone s = .next t ∧ t.port.done = true ∧ t.core.regs.xarr = 0 ∧
         (∀ n < 4, t.core.regs.mbc.toArray.getD n 0 = BitVec.ofNat 16 (s.mailbox s.ownCore n).count) ∧
         (t.port.err = 0 →
           (sect 0 → ∀ i : BitVec 4, dw (0xD88 + 16 * i.toNat) < 2 ^ 63 → (t.core.regs.rh i).valid = false) ∧
           (sect 0 → ∀ i : BitVec 4, let w := dw (0xD88 + 16 * i.toNat); let h := t.core.regs.rh i
             2 ^ 63 ≤ w → (w / 2 ^ 61 % 4 = 1 ∨ w / 2 ^ 61 % 4 = 2) → h.valid = true ∧ h.inst.toNat = w / 2 ^ 61 % 4 ∧ h.gen.toNat = w / 2 ^ 37 % 2 ^ 16 ∧
               h.pbase.toNat = if w / 2 ^ 61 % 4 = 1 then scratchBase s.ownDie s.ownCore else vaultBase s.ownDie s.ownQuad) ∧
           (sect 1 → ∀ i : BitVec 5, (t.core.regs.rg i).word.toNat = dw (0xE80 + 8 * i.toNat)) ∧
           (sect 2 → ∀ i : BitVec 3, (t.core.regs.rq i).word = dw (0xF80 + 16 * i.toNat)) ∧
           (sect 3 → ∀ i : BitVec 8, (t.core.regs.rt i).word = dw (0x1000 + 16 * i.toNat)) ∧
           (sect 4 → ∀ (k : Cl) (i : BitVec 3), i ≠ 0 →
             ((t.core.regs.cluster k).rm i).toNat = leNat (s.mem.bytes (a + 0x2000 + 0x800 * k.val + 256 * i.toNat) 256)) ∧
           (sect 5 → ∀ (k : Cl) (d : BitVec 5), d.toNat < 16 →
             (t.core.regs.rv k d).toNat = leNat (s.mem.bytes (a + 0x4000 + 0x8000 * k.val + 2048 * d.toNat) 2048)) ∧
           (sect 6 → ∀ (k : Cl) (d : BitVec 5), 16 ≤ d.toNat →
             (t.core.regs.rv k d).toNat = leNat (s.mem.bytes (a + 0x24000 + 2048 * (d.toNat - 16)) 2048)) ∧
           (sect 7 → ∀ i < 64, s.port.accmask.getLsbD i = true → ∀ j < 0x10000,
             (t.core.z.toArray.getD i ⟨0, 0⟩).data.toNat / 256 ^ j % 256 = (s.mem.byte (a + 0x40000 + 0x10000 * i + j)).toNat) ∧
           (sect 8 → ∀ j < 0x200000, t.mem.byte (scratchBase s.ownDie s.ownCore + j) = s.mem.byte (a + 0x440000 + j))) ∧
         (s.port.sect = 8 → ∀ i : BitVec 8, dw (0x1000 + 16 * i.toNat) ≠ 0 → (TileEntry.ofWord (dw (0x1000 + 16 * i.toNat))).legal = false →
           t.port.err = 4 ∧ t.core.regs.rt i = ⟨0, 0, 0, 0, 0⟩)))) ∧
  (∀ s : State,
     (∀ (w : Writer) (v : BitVec 64), s.mayWriteReg w s.id.part.toNat 0x400000 = true → v.extractLsb' 40 24 = 0 →
       v.extractLsb' 2 14 = 0 → v.toNat % 4 ≠ 3 →
       let held := ∃ x ∈ s.clause.inst.toList, x.binding.isHeld = true
       (held → exec (.splitWordWrite w v) s = .next s) ∧
       (¬ held → ∃ t, exec (.splitWordWrite w v) s = .next t ∧ t.clause.split = v ∧ t.core = s.core ∧
         (v.toNat % 4 = s.clauseMode → t.clause.inst = s.clause.inst) ∧
         (v.toNat % 4 ≠ s.clauseMode → t.clause.inst = Vector.replicate 4 (ClauseInst.empty .free)))) ∧
     (∀ i : BitVec 2, ∀ x ∈ [(Instr.clauseWindowSave i, 0), (.clauseWindowRestore i, 1), (.clauseWindowRebind i, 2),
         (.clauseWindowRelease i, 3)],
       ((s.window i.toNat).busy = true → exec x.1 s = .next s) ∧
       ((s.window i.toNat).busy = false → ∃ t, exec x.1 s = .next t ∧ (t.window i.toNat).busy = true ∧ (t.window i.toNat).done = false ∧
         (t.window i.toNat).op.toNat = x.2 ∧ t.clause.inst = s.clause.inst ∧ t.core = s.core ∧ t.mem = s.mem)) ∧
     (∀ i : BitVec 2,
       let w := s.window i.toNat
       let y := s.clauseInst i.toNat
       (w.busy = false → exec (.clauseWindowDone i) s = .next s) ∧
       (w.busy = true → s.ownsCore (s.clause.owner i.toNat) w.core.toNat = false → ∃ t, exec (.clauseWindowDone i) s = .next t ∧
         (t.window i.toNat).busy = false ∧ (t.window i.toNat).done = true ∧ (t.window i.toNat).err = 1 ∧ t.clause.inst = s.clause.inst ∧
         t.mem = s.mem) ∧
       (w.busy = true → s.ownsCore (s.clause.owner i.toNat) w.core.toNat = true → s.coreStopped w.core.toNat = true →
         w.addr.toNat % 64 = 0 → s.ownsRange (s.clause.owner i.toNat) w.addr.toNat (contextSize s.ncol) = true →
         let size := contextSize s.ncol
         let mine := y.binding = .bound w.core ∨ y.binding = .failed w.core
         (w.op = 0 → mine → s.mem.broken = [] → s.inWipe w.addr.toNat size = false → ∃ t, exec (.clauseWindowDone i) s = .next t ∧
           (t.window i.toNat).err = 0 ∧ t.clauseInst i.toNat = { y with binding := .free } ∧
           ∀ b < size, t.mem.byte (w.addr.toNat + b) = y.imageByte i.toNat s.ncol b) ∧
         (w.op = 0 → mine → s.inWipe w.addr.toNat size = true → ∃ t, exec (.clauseWindowDone i) s = .next t ∧
           (t.window i.toNat).err = 7 ∧ t.clause.inst = s.clause.inst) ∧
         (w.op = 1 → y.binding = .free ∨ mine → s.wipes = [] → s.mem.fields = [] → s.mem.poison = [] → s.drains = [] → s.running = [] →
           s.arriving = [] →
           let get := fun (b : Nat) => s.mem.byte (w.addr.toNat + b)
           (∀ x, readImage get s.ncol (.bound w.core) = some x → ∃ t, exec (.clauseWindowDone i) s = .next t ∧
             (t.window i.toNat).err = 0 ∧ t.clauseInst i.toNat = { x with job := s.jobOf w.core } ∧ t.mem = s.mem ∧
             x.binding = .bound w.core ∧ x.level.toNat = (get 6).toNat ∧
             (∀ j < 2048, x.rowWord j = leNat (s.mem.bytes (w.addr.toNat + 0x800 + 8 * j) 8)) ∧
             ∀ j < 4, j ≠ i.toNat → (t.clauseInst j).binding ≠ .bound w.core) ∧
           (readImage get s.ncol (.bound w.core) = none → ∃ t, exec (.clauseWindowDone i) s = .next t ∧
             (t.window i.toNat).err = 4 ∧ t.clause.inst = s.clause.inst ∧ t.mem = s.mem)) ∧
         (w.op = 1 → y.binding ≠ .free → ¬ mine → ∃ t, exec (.clauseWindowDone i) s = .next t ∧
           (t.window i.toNat).err = 2 ∧ t.clause.inst = s.clause.inst ∧ t.mem = s.mem) ∧
         (w.op = 0 → y.binding ≠ .bound w.core → y.binding ≠ .failed w.core → ∃ t, exec (.clauseWindowDone i) s = .next t ∧
           (t.window i.toNat).err = 2 ∧ t.clause.inst = s.clause.inst ∧ t.mem = s.mem) ∧
         (w.op = 2 → y.binding = .resident → ∃ t, exec (.clauseWindowDone i) s = .next t ∧ (t.window i.toNat).err = 0 ∧
           t.clauseInst i.toNat = { y with binding := .bound w.core, job := s.jobOf w.core } ∧ t.mem = s.mem ∧
           ∀ j < 4, j ≠ i.toNat → (t.clauseInst j).binding ≠ .bound w.core) ∧
         (w.op = 3 → y.binding = .resident → ∃ t, exec (.clauseWindowDone i) s = .next t ∧ t.mem = s.mem ∧
           (t.window i.toNat).err = (if s.jobEnded y.job then 0 else 2) ∧
           t.clauseInst i.toNat = (if s.jobEnded y.job then ClauseInst.empty .free else y)) ∧
         (w.op = 3 → y.binding = .resident → y.job = s.id.job → s.jobLives = true → ∃ t, exec (.clauseWindowDone i) s = .next t ∧
           (t.window i.toNat).err = 2 ∧ t.clauseInst i.toNat = y))))

/-- R187, R200, R201, R211, R212, R381: multicast windows open at once and close when nothing names them; a patrol scrubber
counts what it corrects and poisons what it cannot; a wipe ends; an invalidation takes the handles and translations of its
range and completes when no access of them is in flight, or is refused and counted; a write by one who may not write is
discarded and counted. When handles to a closing window go, that all wipes end together, that GO while BUSY is ignored, and
that no page stands behind a handle of size code 3, are the model's readings (log entries 35, 39, 79 and 77). -/
def Obligations.DieRegistersAndInvalidation : Prop :=
  ∀ s : State,
    (∀ (w : Writer) (k : BitVec 4) (v : BitVec 8),
      let may := s.mayWriteReg w s.id.part.toNat (0xA00000 + k.toNat)
      (may = true → v = 1 → cellsWf s.reg6.cells = true → ∃ t, exec (.multicastControlWrite w k v) s = .next t ∧
        t.getReg (0xA00000 + k.toNat) 1 = 1 ∧ k.toNat ∉ t.closing ∧ t.core = s.core) ∧
      (may = true → v = 0 → s.getReg (0xA00000 + k.toNat) 1 ≠ 0 → ∃ t, exec (.multicastControlWrite w k v) s = .next t ∧
        k.toNat ∈ t.closing ∧ ∀ h ∈ t.core.regs.h.toList, 
          ¬ (h.valid = true ∧ regionOf h.pbase.toNat = 3 ∧ dieOf h.pbase.toNat = s.ownDie ∧ h.mask.getLsbD k.toNat = true)) ∧
      (may = false → ∃ t, exec (.multicastControlWrite w k v) s = .next t ∧ t.reg6 = s.reg6 ∧ t.core = s.core)) ∧
    (∀ (w : Writer) (c : BitVec 7) (v : BitVec 64), cellsWf s.reg6.cells = true →
      s.mayWriteReg w s.id.part.toNat (0x500000 + 8 * c.toNat) = true → v.extractLsb' 48 15 = 0 →
      ∃ t, exec (.scrubberControlWrite w c v) s = .next t ∧ t.core = s.core ∧
        t.getReg (0x500000 + 8 * c.toNat) 8 = (if v.getLsbD 63 then 2 ^ 63 else 0) + (if v.toNat % 2 ^ 16 = 0 then 1 else v.toNat % 2 ^ 16)) ∧
    (∀ (c : BitVec 7) (e : Nat), 64 ≤ c.toNat → c.toNat < 68 → cellsWf s.reg6.cells = true →
      let w := s.getReg (0x500000 + 8 * c.toNat) 8
      let line := lineOf (vaultBase s.ownDie (c.toNat - 64)) + s.scrub.toArray.getD c.toNat 0
      2 ^ 63 ≤ w → s.mem.broken = [] →
      (e = 0 → ∃ t, exec (.scrubLine c e) s = .next t ∧ t.mem = s.mem ∧ t.reg6 = s.reg6 ∧ t.core = s.core) ∧
      (e = 1 → w / 2 ^ 16 % 2 ^ 16 < 0xFFFF → ∃ t, exec (.scrubLine c e) s = .next t ∧ t.mem = s.mem ∧
        t.getReg (0x500000 + 8 * c.toNat) 8 / 2 ^ 16 % 2 ^ 16 = w / 2 ^ 16 % 2 ^ 16 + 1) ∧
      (2 ≤ e → ∃ t, exec (.scrubLine c e) s = .next t ∧ line ∈ t.mem.poison ∧ (∀ a, t.mem.byte a = s.mem.byte a) ∧
        ∃ x ∈ t.lin.pend, x.entry = 0x400 + 0x40 * 5)) ∧
    (∃ t, exec .wipeComplete s = .next t ∧ t.wipes = [] ∧ t.mem = s.mem ∧ t.core = s.core) ∧
    (∀ (w : Writer) (v : BitVec 64), s.inval.busy = false →
      let lo := s.inval.vstart.toNat
      let n := v.toNat % 2 ^ 32
      let part := v.extractLsb' 54 6
      let good := lo < 2 ^ 57 ∧ lo % 2 ^ 16 = 0 ∧ v.extractLsb' 32 22 = 0 ∧ n ≠ 0 ∧ lo + 2 ^ 16 * n ≤ 2 ^ 57 ∧ (w = .gpm ∨ part = s.id.part)
      (good → ∃ t, exec (.invalidate w v) s = .next t ∧ t.inval.busy = true ∧ t.mem = s.mem ∧
        (∀ l ∈ t.xlate.core ++ t.xlate.die, l.part = part → lo + 2 ^ 16 * n ≤ l.vbase.toNat ∨ l.vbase.toNat + pageSize l.ps ≤ lo) ∧
        (part = s.id.part → ∀ h ∈ t.core.regs.h.toList ++ t.lin.h.toList, h.valid = true → h.inst = 0 → h.ps ≠ 3 →
          lo + 2 ^ 16 * n ≤ h.vbase.toNat ∨ h.vbase.toNat + spanSize h.ps ≤ lo)) ∧
      (¬ good → ∃ t, exec (.invalidate w v) s = .next t ∧ t.inval = { s.inval with refused := true } ∧ t.core = s.core ∧ t.xlate = s.xlate)) ∧
    (∀ (w : Writer) (v : BitVec 64), s.inval.busy = true → exec (.invalidate w v) s = .next s) ∧
    (s.closing = [] →
      (s.inval.busy = true → s.inFlight s.inval.ranges = false → ∃ t, exec .invalidationComplete s = .next t ∧
        t.inval.busy = false ∧ t.inval.done = true ∧ t.core = s.core) ∧
      (s.inval.busy = true → s.inFlight s.inval.ranges = true → exec .invalidationComplete s = .next s)) ∧
    (∀ (w : Writer) (o : BitVec 24) (n : Nat) (v : BitVec 64),
      (s.mayWriteReg w s.id.part.toNat o.toNat = false → ∃ t, exec (.registerWrite w o n v) s = .next t ∧ t.reg6 = s.reg6 ∧
        t.core = s.core ∧ t.mem = s.mem) ∧
      (s.mayWriteReg w s.id.part.toNat o.toNat = true → 0x200000 ≤ o.toNat → o.toNat + 8 ≤ 0x200400 → n = 8 →
        cellsWf s.reg6.cells = true → ∃ t, exec (.registerWrite w o n v) s = .next t ∧ t.getReg o.toNat 8 = v.toNat ∧
          t.core = s.core ∧ t.mem = s.mem))

/-! ## The command front end and the host (chapter 17) -/

/-- R362 to R364, R367, R374, R375: pointers, enables and CLR; NOP and RETURN complete, CALL_IB enters a buffer, each error
stops its ring with its code and interrupts; waits end when their condition holds, and a time-out is error 7. What CLR
resumes, how many words it skips, and that it drops the prefetched ones, follow the model's choice where the manual is
silent (log entries 31 and 69). -/
def Obligations.FrontEndControl : Prop :=
  ∀ s : State,
    let ring := fun (s : State) (timed : Bool) => s.fe.ring timed
    (∀ b (v : BitVec 32), ∃ t, exec (.nwptrWrite b v) s = .next t ∧ ring t b = { ring s b with wptr := v } ∧ ring t (!b) = ring s (!b) ∧
      t.core = s.core) ∧
    (s.fe.err = false → exec .fectlClr s = .next s) ∧
    (s.fe.err = true → let b := s.fe.ering
      ∃ t, exec .fectlClr s = .next t ∧ t.fe.err = false ∧ ring t (!b) = ring s (!b) ∧ t.core = s.core ∧
        ring t b = { ring s b with rptr := (ring s b).rptr + BitVec.ofNat 32 (ring s b).skip, bufs := [], stopped := false, skip := 0, pre := [] }) ∧
    (∀ n m : Bool, ∃ t, exec (.fectlEnable n m) s = .next t ∧ (ring t false).en = (n && s.boot.stage == 2) ∧
      (ring t true).en = (m && s.boot.stage == 2) ∧ t.core = s.core) ∧
    (∃ t, exec .festatWrite s = .next t ∧ t.fe = { s.fe with latecnt := 0 } ∧ t.core = s.core) ∧
    (∀ (h : FeHead) (ws : List (BitVec 32)),
      let r := ring s h.timed
      let fails := fun (i : Instr) (code words : Nat) => ∃ t, exec i s = .next t ∧ t.fe.err = true ∧ t.fe.ering = h.timed ∧
        t.fe.code = BitVec.ofNat 4 code ∧ (ring t h.timed).stopped = true ∧ ring t (!h.timed) = ring s (!h.timed) ∧
        t.outs = s.outs ++ [.interrupt] ∧ t.core = s.core ∧
        (ring t h.timed).skip = if r.bufs = [] then words + 1 else 4
      let done := fun (i : Instr) => ∃ t, exec i s = .next t ∧ (ring t h.timed).wait = none ∧ t.core = s.core ∧ t.fe.err = s.fe.err ∧
        (r.bufs = [] → (ring t h.timed).rptr = r.rptr + BitVec.ofNat 32 (ws.length + 1) ∧
          t.outs = s.outs ++ (if h.flags.getLsbD 0 then [.interrupt] else []))
      (h.bad ≠ 0 → fails (.feNop h ws) h.bad.toNat ws.length) ∧
      (h.bad = 0 → 2 ≤ h.flags.toNat → fails (.feNop h ws) 2 ws.length) ∧
      (h.bad = 0 → h.flags.toNat < 2 → h.typ = 0 → done (.feNop h ws)) ∧
      (h.bad = 0 → h.flags.toNat < 2 → h.typ ≠ 0 → fails (.feNop h ws) 1 ws.length) ∧
      (h.bad = 0 → h.flags.toNat < 2 → ws = [] → r.bufs = [] → fails (.feReturn h ws) 3 0) ∧
      (h.bad = 0 → h.flags.toNat < 2 → ws = [] → ∀ b q, r.bufs = b :: q → ∃ t, exec (.feReturn h ws) s = .next t ∧
        (q = [] → (ring t h.timed).bufs = [] ∧ (ring t h.timed).rptr = r.rptr + 4) ∧ t.core = s.core) ∧
      (h.bad = 0 → h.flags.toNat < 2 → ∀ a b c : BitVec 32, ws = [a, b, c] →
        let va := a.toNat + 2 ^ 32 * b.toNat
        (va % 4 = 0 → va < 2 ^ 57 → 0 < c.toNat → c.toNat ≤ 2 ^ 20 → r.bufs.length < 4 → ∃ t, exec (.callIb h ws) s = .next t ∧
          (ring t h.timed).bufs = { va := BitVec.ofNat 64 va, len := c.toNat, pos := 0, flags := h.flags } :: r.bufs ∧ t.core = s.core) ∧
        (va % 4 = 0 → va < 2 ^ 57 → 0 < c.toNat → c.toNat ≤ 2 ^ 20 → 4 ≤ r.bufs.length → fails (.callIb h ws) 3 3) ∧
        (va % 4 ≠ 0 ∨ c.toNat = 0 ∨ 2 ^ 20 < c.toNat → fails (.callIb h ws) 2 3)) ∧
      (h.bad = 0 → h.flags.toNat < 2 → ∀ m l : BitVec 32, ws = [0, m, 0, 0, l] → m.toNat < 2 ^ 16 →
        ((coresOf m.toNat).any s.notNameable = true → fails (.feWait h ws) 4 5) ∧
        ((coresOf m.toNat).any s.notNameable = false → s.allHalted m.toNat = true → done (.feWait h ws)) ∧
        ((coresOf m.toNat).any s.notNameable = false → s.allHalted m.toNat = false → ∃ t x, exec (.feWait h ws) s = .next t ∧ (ring t h.timed).wait = some x ∧
          x.what = .cores (BitVec.ofNat 16 m.toNat) ∧ x.limit = l.toNat ∧ x.since = s.ptime / 9 ∧ t.core = s.core)) ∧
      (∀ x m, r.wait = some x → x.what = .cores m → x.head = h → x.words = ws.length → s.allHalted m.toNat = true →
        done (.waitPoll h.timed)) ∧
      (∀ x, r.wait = some x → x.head = h → x.limit ≠ 0 → fails (.feTimeout h.timed) 7 x.words))

/-- R366, R368 to R372, R374, R277, R328: commands that act on cores and memory: LOAD_IMEM, the presets, WRITE into memory,
POST, RELEASE and TIMED_RELEASE, BARRIER; a core that is not ready is error 4. The host's writes and reads reach what its
partition owns. Error codes for pages outside memory, what a release keeps, what the host may not reach, the code for a
group image that cannot be installed, and when the bytes of running commands take effect are the model's choice (log entries
30, 31, 40, 68 and 64); what another die answers a post is a free value (log entry 1). -/
def Obligations.FrontEndCommandsAndHost : Prop :=
  ∀ s : State,
    let ring := fun (s : State) (timed : Bool) => s.fe.ring timed
    (∀ (h : FeHead) (ws : List (BitVec 32)), h.bad = 0 → h.flags.toNat < 2 →
      let r := ring s h.timed
      let ended := fun (t : State) (words : Nat) => (ring t h.timed).wait = none ∧ t.fe.err = s.fe.err ∧
        (r.bufs = [] → (ring t h.timed).rptr = r.rptr + BitVec.ofNat 32 (words + 1))
      let done := fun (t : State) => ended t ws.length
      let fails := fun (i : Instr) (code : Nat) => ∃ t, exec i s = .next t ∧ t.fe.err = true ∧ t.fe.code = BitVec.ofNat 4 code ∧
        (ring t h.timed).stopped = true ∧ t.core = s.core ∧ ∀ a, t.mem.byte a = s.mem.byte a
      let own := 2 ^ s.ownCore
      let posts := fun (i : Instr) (words : Nat) (target : BitVec 32) (p : List (BitVec 32)) =>
        let die := target.toNat / 2 ^ 6 % 2 ^ 10
        let core := target.toNat / 4 % 16
        let n := target.toNat % 4
        let q := s.packetSlot (s.postPacket target p)
        let m := s.mailbox core n
        let a := s.entryAddr core m m.tail
        let waits := ∃ t x, exec i s = .next t ∧ (ring t h.timed).wait = some x ∧ x.what = .post target p ∧ t.core = s.core ∧ t.mem = s.mem
        (s.deadDies.contains die = true → fails i 4) ∧
        (s.deadDies.contains die = false →
          (die ≠ s.ownDie → die < 576 → s.nextLeg q = none → fails i 4) ∧
          (die ≠ s.ownDie → die < 576 → (s.nextLeg q).isSome = true → (s.stepSeq q.score q.ddie q.dunit q.cnt).enter q = none → waits) ∧
          (die ≠ s.ownDie → die < 576 → (s.nextLeg q).isSome = true → ((s.stepSeq q.score q.ddie q.dunit q.cnt).enter q).isSome = true →
            s.wipes = [] → s.mem.fields = [] → Canonical s → ∃ t, exec i s = .next t ∧
              ((ended t words ∧ ∃ b, vaultBase die (core / 4) ≤ b ∧ b + 64 ≤ vaultBase die (core / 4) + 2 ^ 28 ∧
                  t.mem.bytes b 56 = p.flatMap (fun w => leBytes 4 w.toNat)) ∨
                (t.fe.err = true ∧ t.fe.code = 4 ∧ t.mem = s.mem) ∨ ((∃ x, (ring t h.timed).wait = some x ∧ x.what = .post target p) ∧ t.mem = s.mem))) ∧
          (576 ≤ die → fails i 4) ∧
          (die = s.ownDie → die < 576 →
            (m.en = false ∨ s.ownsCore s.id.part.toNat core = false → fails i 4) ∧
            (m.en = true → s.ownsCore s.id.part.toNat core = true →
              (m.cap ≤ m.count → waits) ∧
              (m.count < m.cap → s.inWipe a 64 = false → s.mem.broken = [] → Canonical s → ∃ t, exec i s = .next t ∧ ended t words ∧
                t.mem.bytes a 56 = p.flatMap (fun w => leBytes 4 w.toNat) ∧
                t.mailbox core n = { m with tail := (m.tail + 1) % 2 ^ 64 } ∧ t.core.regs = s.core.regs ∧
                ∀ b, (b < a ∨ a + 64 ≤ b) → t.mem.byte b = s.flow.mem.byte b))))
      (∀ d l u n : BitVec 32, ws = [BitVec.ofNat 32 own, d, l, u, n] → ∀ bs,
        let va := l.toNat + 2 ^ 32 * u.toNat
        let off := d.toNat % 2 ^ 17
        d.toNat < 2 ^ 17 → off % 16 = 0 → n.toNat % 16 = 0 → 0 < n.toNat → off + n.toNat ≤ 0x10000 → va < 2 ^ 57 →
        (s.checkCores own = 0 → s.feRead va n.toNat = some bs → ∃ t, exec (.loadImem h ws) s = .next t ∧ done t ∧
          (∀ k, s.imem.key off = some k → t.imem = s.imem.put k bs) ∧ t.core.regs = s.core.regs) ∧
        (s.checkCores own = 0 → s.feRead va n.toNat = none → fails (.loadImem h ws) 6) ∧
        (s.checkCores own = 4 → fails (.loadImem h ws) 4)) ∧
      (∀ k v : BitVec 32, ws = [BitVec.ofNat 32 own, k, v] → k.toNat < 64 → s.checkCores own = 0 →
        ∃ t, exec (.presetAc h ws) s = .next t ∧ done t ∧ t.core.regs = s.core.regs.wac (BitVec.ofNat 6 k.toNat) ⟨v, false⟩ ∧
          k.toNat ∈ t.presets.ac) ∧
      (∀ k l u : BitVec 32, ws = [BitVec.ofNat 32 own, k, l, u] → 2 ≤ k.toNat → k.toNat < 16 → s.checkCores own = 0 →
        let va := l.toNat + 2 ^ 32 * u.toNat
        va < 2 ^ 57 →
        (∀ x, (s.engineLeaf va).bind (s.handleOf s.id.part) = some x → ∃ t, exec (.presetHandle h ws) s = .next t ∧ done t ∧
          t.core.regs = s.core.regs.wh (BitVec.ofNat 4 k.toNat) { x with gen := 1 } ∧ k.toNat ∈ t.presets.h) ∧
        ((s.engineLeaf va).bind (s.handleOf s.id.part) = none → fails (.presetHandle h ws) 6)) ∧
      (∀ l u v : BitVec 32, ws = [0, l, u, v] →
        let va := l.toNat + 2 ^ 32 * u.toNat
        va % 4 = 0 → va < 2 ^ 57 → ∀ a, (s.feLook va 4).fePlace va true = some a → s.inWipe a 4 = false → s.mem.broken = [] → Canonical s →
        ∃ t, exec (.feWrite h ws) s = .next t ∧ done t ∧ t.core.regs = s.core.regs ∧ t.mem.bytes a 4 = leBytes 4 v.toNat ∧
          ∀ b, (b < a ∨ a + 4 ≤ b) → t.mem.byte b = s.flow.mem.byte b) ∧
      (∀ target : BitVec 32, ∀ p, ws = target :: p → p.length = 14 → target.toNat < 2 ^ 16 → posts (.fePost h ws) 15 target p) ∧
      (∀ target p x, r.wait = some x → x.what = .post target p → x.head = h → p.length = 14 → target.toNat < 2 ^ 16 →
        posts (.postRetry h.timed) x.words target p) ∧
      (∀ bn n l u : BitVec 32, ∀ rec_, bn.toNat % 2 ^ 16 = own → bn.toNat / 2 ^ 16 + 1 ≤ n.toNat → s.checkCores own = 0 →
        let va := l.toNat + 2 ^ 32 * u.toNat
        va < 2 ^ 57 → s.readRecord va = .inl rec_ →
        let installed := (s.touchRecord va).installGroups own
        let released := fun (t : State) => t.status = .running ∧ t.core.regs.pc = rec_.entry ∧ t.core.regs.cl = Regs.reset.cl ∧
          t.core.regs.fmt = 1 ∧ t.core.flights = [] ∧ (∃ p, t.core.panel = some p ∧ p.entryPc = rec_.entry ∧ p.retry = 0)
        (ws = [bn, n, l, u] → (installed.isSome = true → ∃ t, exec (.feRelease h ws) s = .next t ∧ done t ∧ released t) ∧
          (installed = none → fails (.feRelease h ws) 8)) ∧
        (∀ a b : BitVec 32, ws = [bn, n, l, u, a, b] → installed.isSome = true →
          let time := a.toNat + 2 ^ 32 * b.toNat
          (time ≤ s.ptime / 9 → ∃ t, exec (.timedRelease h ws) s = .next t ∧ done t ∧ released t) ∧
          (s.ptime / 9 < time → ∃ t x y, exec (.timedRelease h ws) s = .next t ∧ (ring t h.timed).wait = some x ∧ x.what = .release y ∧
            y.time = time ∧ y.rec_ = rec_ ∧ t.core.regs = s.core.regs ∧ t.status = s.status ∧
            (s.mem.fields = [] → Canonical s →
              t.mem.bytes (scratchBase s.ownDie s.ownCore) 0x100 = s.launchBlock y s.ownCore time false)))) ∧
      (∀ x y, (ring s true).wait = some x → x.what = .release y → x.head.timed = true → y.time ≤ s.ptime / 9 → (ring s false).wait = none →
        y.mask.getLsbD s.ownCore = true → ∃ t, exec .timedReleaseFire s = .next t ∧ t.status = .running ∧ (ring t true).wait = none ∧
          t.core.regs.pc = y.rec_.entry) ∧
      (∀ id n l : BitVec 32, ws = [id, n, l] → id.toNat < 256 → 2 ≤ n.toNat → n.toNat ≤ 576 → s.fe.barriers = [] →
        ∃ t x, exec (.feBarrier h ws) s = .next t ∧ (ring t h.timed).wait = some x ∧
          x.what = .barrier (BitVec.ofNat 8 id.toNat) n.toNat 1 ∧ x.limit = l.toNat ∧ t.core = s.core)) ∧
    (∀ (id : BitVec 8) (n : Nat), (ring s false).wait = none → (ring s true).wait = none → ∃ t, exec (.barrierArrival id n) s = .next t ∧
      (id, n) ∈ t.fe.barriers ∧ t.core = s.core ∧ t.mem = s.mem) ∧
    (∀ (a : BitVec 52) (bs : List (BitVec 8)), regionOf a.toNat < 5 → s.hostReaches a.toNat = true →
      s.hostReaches (a.toNat + bs.length - 1) = true → s.inWipe a.toNat bs.length = false → s.mem.broken = [] → Canonical s →
      ∃ t, exec (.hostPostedWrite a bs) s = .next t ∧ t.core.regs = s.core.regs ∧ t.mem.bytes a.toNat bs.length = bs ∧
        ∀ b, (b < a.toNat ∨ a.toNat + bs.length ≤ b) → t.mem.byte b = s.flow.mem.byte b) ∧
    (∀ (a : BitVec 52) (n : Nat), regionOf a.toNat ≠ 6 →
      (s.hostReaches a.toNat = true → s.hostReaches (a.toNat + n - 1) = true → s.readFails a.toNat n = false →
        exec (.hostRead a n) s = .next ({ s with outs := s.outs ++ [.hostData a (some (s.performed.mem.bytes a.toNat n))] } : State)) ∧
      (s.hostReaches a.toNat = false → ∃ t, exec (.hostRead a n) s = .next t ∧ t.core = s.core ∧ t.mem = s.mem ∧
        t.outs = s.outs ++ [.hostData a (some (List.replicate n 0))]))

/-! ## Boot, life cycle, recovery and power (chapter 18) -/

/-- R378, R382 to R385, R389, R390: power-good and a failed stage put the package in S0; S1 and S2 begin when their images
verify, and extend the measurement registers; partitions are created and torn down in S2; a quote spends one leaf; power is
lost beyond the limits. What S0 keeps, the byte order of the nonce, and what the GPM may give a partition are the model's
readings (log entries 41, 8 and 55). -/
def Obligations.BootAndPower : Prop :=
  ∀ s : State,
    let b := s.boot
    let keeps := fun (t : State) => t.boot.life = b.life ∧ t.boot.owner = b.owner ∧ t.boot.fuses = b.fuses ∧ t.boot.ctr = b.ctr ∧
      t.boot.leaf = b.leaf
    let start := List.replicate 32 (0 : Byte)
    let stopped := fun (t : State) => t.status = .notReleased ∧ t.core.regs = Regs.reset ∧ t.lin.serving = false
    (∃ t, exec .powerGood s = .next t ∧ t.boot.power = true ∧ t.boot.stage = 0 ∧ t.boot.mr0 = start ∧ t.boot.mr1 = start ∧ t.boot.parts = [] ∧
      t.core = Core.reset ∧ t.status = .notReleased ∧ t.ptime = s.ptime ∧ keeps t ∧ t.health = s.health ∧
      t.wipes = packageWipe (s.ownDie / 8) ∧ t.agenda = s.agenda.filter servedAlways ∧ ∀ n < 16, (t.link n).up = false) ∧
    (∀ g c, ∃ t, exec (.stageFailure g c) s = .next t ∧ t.boot.stage = 0 ∧ t.boot.failure = some (g, c) ∧ keeps t ∧
      stopped t ∧ (t.fe.ring true).en = false ∧ (t.fe.ring false).en = false) ∧
    (∀ im : Image,
      (b.stage ≠ 0 → exec (.s1Entry im) s = .next s) ∧
      (b.stage = 0 → ∃ t, exec (.s1Entry im) s = .next t ∧ keeps t ∧ t.boot.mr1 = b.mr1 ∧
        if verified Config.firmwareKey im = true then
          t.core = s.core ∧ t.boot.stage = 1 ∧ t.boot.failure = none ∧ t.boot.mr0 = extend b.mr0 im.bytes ∧ ∀ n < 16, (t.link n).up = true
        else stopped t ∧ t.boot.stage = 0 ∧ t.boot.mr0 = b.mr0 ∧ ∃ c, t.boot.failure = some (0, c))) ∧
    (∀ x y z : Image,
      (b.stage ≠ 1 → exec (.s2Entry x y z) s = .next s) ∧
      (b.stage = 1 → ∃ t, exec (.s2Entry x y z) s = .next t ∧ keeps t ∧ t.boot.mr0 = b.mr0 ∧
        if ∀ i ∈ [x, y, z], verified Config.firmwareKey i = true then
          t.core = s.core ∧ t.boot.stage = 2 ∧ t.boot.mr1 = extend (extend (extend b.mr1 x.bytes) y.bytes) z.bytes
        else stopped t ∧ t.boot.stage = 0 ∧ t.boot.mr1 = b.mr1 ∧ ∃ c, t.boot.failure = some (1, c))) ∧
    (∀ (p : BitVec 6) (g : NewPartition),
      let gone := fun (t : State) => (p = s.id.part → t.status = .notReleased ∧ t.core.regs = Regs.reset ∧ t.fe = FrontEnd.reset) ∧
        (p ≠ s.id.part → t.core = s.core ∧ t.fe = s.fe)
      (∀ k, b.stage = 2 → p ≠ 0 → p ≠ 63 → (∀ x ∈ b.parts, x.num ≠ p) → b.owner = some k → s.grantable p g = true →
        (verified k g.image = true → ∃ t, exec (.partitionCreate p g) s = .next t ∧ t.core = s.core ∧
          t.boot.parts = b.parts ++ [{ num := p, image := g.image.bytes, mr := extend start g.image.bytes, fn := g.fn, quads := g.quads }] ∧
          ∀ x ∈ g.sets, (x.die = s.id.die → s.wholeOwner = none) → InterleaveSet.ofGrant p x ∈ t.reg6.sets) ∧
        (verified k g.image = false → exec (.partitionCreate p g) s = .next s)) ∧
      (b.stage ≠ 2 ∨ p = 0 ∨ p = 63 ∨ (∃ x ∈ b.parts, x.num = p) ∨ b.owner = none ∨ s.grantable p g = false →
        exec (.partitionCreate p g) s = .next s) ∧
      (b.stage ≠ 2 ∨ (∀ x ∈ b.parts, x.num ≠ p) → exec (.partitionTeardown p) s = .next s) ∧
      (b.stage = 2 → (∃ x ∈ b.parts, x.num = p) → ∃ t, exec (.partitionTeardown p) s = .next t ∧ (∀ x ∈ t.boot.parts, x.num ≠ p) ∧
        (∀ x ∈ t.reg6.sets, x.part ≠ p) ∧ gone t) ∧
      ((∀ x ∈ b.parts, x.num = p → x.fn = none) → exec (.functionLevelReset p) s = .next s) ∧
      ((∃ x ∈ b.parts, x.num = p ∧ x.fn ≠ none) → ∃ t, exec (.functionLevelReset p) s = .next t ∧
        t.boot.parts = b.parts.map (fun x => if x.num = p then { x with mr := extend start x.image } else x) ∧ gone t)) ∧
    (∀ (n : BitVec 256) (p : BitVec 6) (k : Nat) (x : Partition), b.identity = some k →
      b.parts.find? (fun y => y.num == p) = some x →
      (b.record < b.fuses → exec (.attestationQuote n p) s = .next s) ∧
      (b.fuses ≤ b.record → ∃ t, exec (.attestationQuote n p) s = .next t ∧ t.boot.leaf = b.leaf + 1 ∧
        t.boot.fuses = (if (b.leaf + 1) % 1024 = 0 then b.fuses + 1 else b.fuses) ∧ t.core = s.core ∧
        ∃ sig, t.outs = s.outs ++ [.quote sig (s.ptime / 9)] ∧
          sig = Config.hssSign (leafOf k b.leaf) (sha256 (leBytes 32 n.toNat ++ b.mr0 ++ b.mr1 ++ x.mr)))) ∧
    (∀ mv us, let off := fun (i : Instr) (c : Prop) =>
        (c → exec i s = .next ({ s with boot := { b with power := false } } : State)) ∧ (¬ c → exec i s = .next s)
      off (.inputUndervoltage mv us) (mv < 38000 ∧ 10000 ≤ us) ∧ off (.inputOvervoltage mv us) (63000 < mv ∧ 1000 ≤ us) ∧
      off (.junctionOvertemp mv) (105000 < mv) ∧ off (.coolantOvertemp mv us) (45000 < mv ∧ 5000000 ≤ us))

/-- R386 to R389: an accepted frame writes its counter to flash and acts: it kills a job, resets a partition, a die or the
package, or moves the life cycle on, where the new state takes effect once its wipe is over; any other frame changes nothing
but a count. What a reset keeps, the job number that a frame names, and the leaf of a flash record provisioned again are the
model's readings (log entries 41, 42 and 85). -/
def Obligations.RecoveryFramesAct : Prop :=
  ∀ (s : State) (f : Frame),
    let b := s.boot
    let frames : List (Instr × Nat × Nat) := [(.recoveryJob f, 0, 0), (.recoveryPartition f, 1, 0), (.recoveryDie f, 2, 0),
      (.recoveryPackage f, 3, 0), (.lifecycleProvision f, 3, 1), (.lifecycleDeploy f, 3, 2), (.lifecycleReturn f, 3, 3)]
    (∀ x ∈ frames, (frameScope f ≠ x.2.1 ∨ frameLct f ≠ x.2.2 ∨ s.frameAccepted f = false) → ∃ t, exec x.1 s = .next t ∧
      t.core = s.core ∧ t.mem = s.mem ∧ t.boot = s.boot ∧ t.status = s.status) ∧
    (let acts := fun (i : Instr) (effect : State → Prop) => ∃ t, exec i s = .next t ∧
      if s.frameAccepted f = true then effect t
      else t.core = s.core ∧ t.mem = s.mem ∧ t.boot = s.boot ∧ t.status = s.status
     let reset := fun (t : State) => t.core.regs = Regs.reset ∧ t.boot.ctr = frameCtr f
     (frameScope f = 0 → frameLct f = 0 →
        (framePart f = s.id.part.toNat → frameTarget f = s.id.job.toNat → acts (.recoveryJob f) fun t => t.status = .dead ∧ reset t) ∧
        (framePart f ≠ s.id.part.toNat ∨ frameTarget f ≠ s.id.job.toNat → acts (.recoveryJob f) fun t => t.core = s.core ∧
          t.status = s.status ∧ t.boot = { b with ctr := frameCtr f })) ∧
      (frameScope f = 1 → frameLct f = 0 →
        ((∃ x ∈ b.parts, x.num.toNat = framePart f) → framePart f = s.id.part.toNat → acts (.recoveryPartition f) fun t =>
          t.status = .notReleased ∧ reset t ∧ t.fe = FrontEnd.reset) ∧
        ((∀ x ∈ b.parts, x.num.toNat ≠ framePart f) ∨ framePart f ≠ s.id.part.toNat → acts (.recoveryPartition f) fun t =>
          t.core = s.core ∧ t.status = s.status ∧ t.fe = s.fe ∧ t.boot.ctr = frameCtr f)) ∧
      (frameScope f = 2 → frameLct f = 0 →
        (frameTarget f = s.ownDie → acts (.recoveryDie f) fun t => t.status = .notReleased ∧ reset t ∧ t.clause = ClauseArray.reset ∧
          ∀ x ∈ dieMemories s.ownDie, x ∈ t.wipes) ∧
        (frameTarget f ≠ s.ownDie → acts (.recoveryDie f) fun t => t.core = s.core ∧ t.boot = { b with ctr := frameCtr f } ∧
          ∀ x ∈ dieMemories (frameTarget f), x ∈ t.wipes)) ∧
      (let wiped := fun (t : State) => t.boot.stage = 0 ∧ reset t ∧ t.core = Core.reset ∧ t.status = .notReleased ∧ t.boot.life = b.life ∧
        t.boot.owner = b.owner ∧ t.boot.identity = b.identity ∧ t.wipes = packageWipe (s.ownDie / 8)
       frameScope f = 3 →
        (frameLct f = 0 → acts (.recoveryPackage f) fun t => wiped t ∧ t.boot.change = b.change ∧ t.boot.fuses ≤ t.boot.record ∧
          (b.fuses ≤ b.record → t.boot.leaf = b.leaf ∧ t.boot.fuses = b.fuses) ∧ (b.record < b.fuses → 1024 * b.fuses < t.boot.leaf)) ∧
        (frameLct f = 1 → acts (.lifecycleProvision f) fun t => wiped t ∧ ∃ x, t.boot.change = some (.provisioned, x)) ∧
        (frameLct f = 2 → acts (.lifecycleDeploy f) fun t => wiped t ∧ t.boot.change = some (.deployed, (f.bytes.drop 24).take 60)) ∧
        (frameLct f = 3 → acts (.lifecycleReturn f) fun t => wiped t ∧ ∃ x, t.boot.change = some (.returned, x)))) ∧
    (∃ t, exec .wipeComplete s = .next t ∧ t.boot.change = none ∧
      (b.change = none → t.boot = b) ∧
      (∀ x, b.change = some (.provisioned, x) → t.boot.life = .provisioned ∧ t.boot.identity = some b.keys ∧ t.boot.keys = b.keys + 1) ∧
      (∀ x, b.change = some (.deployed, x) → t.boot.life = .deployed ∧ t.boot.owner = some x ∧ t.boot.ctr = 0) ∧
      (∀ x, b.change = some (.returned, x) → t.boot.life = .returned ∧ t.boot.owner = none ∧ t.boot.identity = none))
end

