-- ==== Sys2Proof/Laws/Memory.lean ====
section
/-! SUPPORT. Lists of cells in canonical form: reads after writes, and that every operation on memory keeps the form. -/

namespace Sys2Proof.Laws
open Sys2Proof.Machine

/-! ## Canonical form -/

/-- Every cell of a list lies above an address. -/
def Above (a : Nat) (m : List Host.Cell) : Prop := ∀ c ∈ m, a < c.1

/-- The canonical form, as a statement about each cell and those after it. -/
theorem cellsWf_cons (a : Nat) (b : Byte) (r : List Host.Cell) :
    cellsWf ((a, b) :: r) = true ↔ b ≠ 0 ∧ Above a r ∧ cellsWf r = true := by
  induction r generalizing a b with
  | nil => simp [cellsWf, Above]
  | cons c r ih =>
    obtain ⟨y, d⟩ := c
    have h := ih y d
    simp only [cellsWf, Bool.and_eq_true, bne_iff_ne, ne_eq, decide_eq_true_eq] at *
    constructor
    · rintro ⟨⟨hb, hlt⟩, hw⟩
      refine ⟨hb, ?_, hw⟩
      intro e he
      rcases List.mem_cons.mp he with rfl | he
      · exact hlt
      · exact Nat.lt_trans hlt ((h.mp hw).2.1 e he)
    · rintro ⟨hb, ha, hw⟩
      exact ⟨⟨hb, ha (y, d) (by simp)⟩, hw⟩

theorem Above.put {a : Nat} {m : List Host.Cell} (h : Above a m) {x : Nat} (hx : a < x) (b : Byte) :
    Above a (cellsPut m x b) := by
  induction m with
  | nil => by_cases hb : b = 0 <;> simp [cellsPut, hb, Above, hx]
  | cons c r ih =>
    obtain ⟨y, d⟩ := c
    have hr : Above a r := fun e he => h e (by simp [he])
    have hy : a < y := h (y, d) (by simp)
    simp only [cellsPut]
    split
    · split
      · exact h
      · intro e he
        rcases List.mem_cons.mp he with rfl | he
        · exact hx
        · exact h e he
    · split
      · split
        · exact hr
        · intro e he
          rcases List.mem_cons.mp he with rfl | he
          · exact hx
          · exact hr e he
      · intro e he
        rcases List.mem_cons.mp he with rfl | he
        · exact hy
        · exact ih hr e he

/-- Writing a byte keeps the canonical form. -/
theorem cellsWf_put {m : List Host.Cell} (h : cellsWf m = true) (x : Nat) (b : Byte) : cellsWf (cellsPut m x b) = true := by
  induction m with
  | nil =>
    by_cases hb : b = 0
    · rw [cellsPut, if_pos hb]; rfl
    · rw [cellsPut, if_neg hb]; simpa [cellsWf] using hb
  | cons c r ih =>
    obtain ⟨y, d⟩ := c
    obtain ⟨hd, ha, hr⟩ := (cellsWf_cons y d r).mp h
    simp only [cellsPut]
    split
    · split
      · exact h
      · rename_i hlt hb
        refine (cellsWf_cons x b _).mpr ⟨hb, ?_, h⟩
        intro e he
        rcases List.mem_cons.mp he with rfl | he
        · exact hlt
        · exact Nat.lt_trans hlt (ha e he)
    · split
      · split
        · exact hr
        · rename_i heq hb
          subst heq
          exact (cellsWf_cons x b r).mpr ⟨hb, ha, hr⟩
      · rename_i h1 h2
        exact (cellsWf_cons y d _).mpr ⟨hd, ha.put (by omega) b, ih hr⟩

theorem cellsWf_putAll {m : List Host.Cell} (h : cellsWf m = true) (ws : List Host.Cell) :
    cellsWf (cellsPutAll m ws) = true := by
  unfold cellsPutAll
  induction ws generalizing m with
  | nil => exact h
  | cons w r ih => exact ih (cellsWf_put h w.1 w.2)

/-- Dropping cells keeps the canonical form. -/
theorem cellsWf_filter {m : List Host.Cell} (h : cellsWf m = true) (p : Host.Cell → Bool) : cellsWf (m.filter p) = true := by
  induction m with
  | nil => rfl
  | cons c r ih =>
    obtain ⟨y, d⟩ := c
    obtain ⟨hd, ha, hr⟩ := (cellsWf_cons y d r).mp h
    by_cases hp : p (y, d) = true
    · rw [List.filter_cons_of_pos hp]
      exact (cellsWf_cons y d _).mpr ⟨hd, fun e he => ha e (List.mem_filter.mp he).1, ih hr⟩
    · rw [List.filter_cons_of_neg hp]
      exact ih hr

/-! ## Reads after writes -/

theorem cellsGet_below {m : List Host.Cell} {a : Nat} (h : Above a m) : cellsGet m a = 0 := by
  cases m with
  | nil => rfl
  | cons c r =>
    obtain ⟨y, d⟩ := c
    have hy : a < y := h (y, d) (by simp)
    have hne : ¬ y = a := by omega
    simp [cellsGet, hy, hne]

/-- A byte reads as written, and every other byte as before. -/
theorem cellsGet_put {m : List Host.Cell} (h : cellsWf m = true) (x a : Nat) (b : Byte) :
    cellsGet (cellsPut m x b) a = if a = x then b else cellsGet m a := by
  induction m with
  | nil =>
    by_cases hb : b = 0
    · rw [cellsPut, if_pos hb]; simp [cellsGet, hb]
    · rw [cellsPut, if_neg hb]
      by_cases ha : a = x
      · simp [cellsGet, ha]
      · have : ¬ x = a := fun e => ha e.symm
        simp [cellsGet, ha, this]
  | cons c r ih =>
    obtain ⟨y, d⟩ := c
    obtain ⟨hd, hab, hr⟩ := (cellsWf_cons y d r).mp h
    have ih := ih hr
    simp only [cellsPut]
    split
    · rename_i hlt
      split
      · rename_i hb
        by_cases ha : a = x
        · subst ha hb
          have hne : ¬ y = a := by omega
          simp [cellsGet, hne, hlt]
        · simp [ha]
      · by_cases ha : a = x
        · subst ha; simp [cellsGet]
        · have h1 : ¬ x = a := fun e => ha e.symm
          by_cases h2 : a < x
          · have h3 : ¬ y = a := by omega
            have h4 : a < y := by omega
            simp [cellsGet, ha, h1, h2, h3, h4]
          · simp [cellsGet, ha, h1, h2]
    · split
      · rename_i h1 heq
        subst heq
        split
        · rename_i hb
          subst hb
          by_cases ha : a = x
          · subst ha; simp [cellsGet_below hab]
          · have h2 : ¬ x = a := fun e => ha e.symm
            by_cases h3 : a < x
            · have : Above a r := fun e he => Nat.lt_trans h3 (hab e he)
              simp [cellsGet, ha, h2, h3, cellsGet_below this]
            · simp [cellsGet, ha, h2, h3]
        · by_cases ha : a = x
          · subst ha; simp [cellsGet]
          · have h2 : ¬ x = a := fun e => ha e.symm
            by_cases h3 : a < x <;> simp [cellsGet, ha, h2, h3]
      · rename_i h1 h2
        by_cases h3 : y = a
        · have h4 : ¬ a = x := by omega
          simp [cellsGet, h3, h4]
        · by_cases h4 : a < y
          · have h5 : ¬ a = x := by omega
            simp [cellsGet, h3, h4, h5]
          · simp [cellsGet, h3, h4, ih]

/-- A byte that no cell of a store writes reads as before. -/
theorem cellsGet_putAll_other {m : List Host.Cell} (h : cellsWf m = true) (ws : List Host.Cell) (a : Nat)
    (ha : ∀ w ∈ ws, w.1 ≠ a) : cellsGet (cellsPutAll m ws) a = cellsGet m a := by
  unfold cellsPutAll
  induction ws generalizing m with
  | nil => rfl
  | cons w r ih =>
    have h1 : a ≠ w.1 := fun e => ha w (by simp) e.symm
    rw [List.foldl_cons, ih (cellsWf_put h w.1 w.2) (fun v hv => ha v (by simp [hv])), cellsGet_put h, if_neg h1]

/-! ## The operations of memory -/

theorem store_wf {m : Memory} (h : m.wf = true) (ws : List Host.Cell) : (m.store ws).wf = true := cellsWf_putAll h _

theorem mark_wf {m : Memory} (h : m.wf = true) (l : List Nat) : (m.mark l).wf = true := h

theorem wipe_wf {m : Memory} (h : m.wf = true) (lo size : Nat) : (m.wipe lo size).wf = true := cellsWf_filter h _

theorem check_wf {m : Memory} (h : m.wf = true) (l : List Nat) : (m.check l).1.wf = true := h

theorem stores_wf {m : Memory} (h : m.wf = true) (l : List (List Host.Cell)) : (l.foldl (fun m w => m.store w) m).wf = true := by
  induction l generalizing m with
  | nil => exact h
  | cons w r ih => exact ih (store_wf h w)

theorem gates_wf {m : Memory} (h : m.wf = true) (l : List Gate) : (l.foldl (fun m g => m.store g.cells) m).wf = true := by
  induction l generalizing m with
  | nil => exact h
  | cons w r ih => exact ih (store_wf h w.cells)

/-- The memory of reset is in canonical form. -/
theorem reset_wf : State.reset.mem.wf = true := rfl

/-- A store leaves every byte outside its cells. -/
theorem store_other {m : Memory} (h : m.wf = true) (ws : List Host.Cell) (a : Nat) (ha : ∀ w ∈ ws, w.1 ≠ a) :
    (m.store ws).byte a = m.byte a :=
  cellsGet_putAll_other h _ a fun w hw => ha w (List.mem_filter.mp hw).1

@[simp] theorem mark_byte (m : Memory) (l : List Nat) (a : Nat) : (m.mark l).byte a = m.byte a := rfl

end Sys2Proof.Laws
end

