-- ==== Sys2Proof/Laws/State.lean ====
section
/-! SUPPORT. What each shared update of the state leaves as it was: one lemma per field. -/

namespace Sys2Proof.Laws
open Sys2Proof.Machine

variable (s : State)

/-! ## setIss -/

@[simp] theorem setIss_save (i : Issue) : (s.setIss i).save = s.save := by unfold State.setIss; split <;> rfl
@[simp] theorem setIss_lsave (i : Issue) : (s.setIss i).lsave = s.lsave := by unfold State.setIss; split <;> rfl
@[simp] theorem setIss_found (i : Issue) : (s.setIss i).found = s.found := by unfold State.setIss; split <;> rfl
@[simp] theorem setIss_ctx (i : Issue) : (s.setIss i).ctx = s.ctx := by unfold State.setIss; split <;> rfl
@[simp] theorem setIss_status (i : Issue) : (s.setIss i).status = s.status := by unfold State.setIss; split <;> rfl
@[simp] theorem setIss_rewind (i : Issue) : (s.setIss i).rewind = s.rewind := by unfold State.setIss; split <;> rfl
@[simp] theorem setIss_hold (i : Issue) : (s.setIss i).hold = s.hold := by unfold State.setIss; split <;> rfl
@[simp] theorem setIss_sys (i : Issue) : (s.setIss i).sys = s.sys := by unfold State.setIss; split <;> rfl
@[simp] theorem setIss_imem (i : Issue) : (s.setIss i).imem = s.imem := by unfold State.setIss; split <;> rfl
@[simp] theorem setIss_mem (i : Issue) : (s.setIss i).mem = s.mem := by unfold State.setIss; split <;> rfl
@[simp] theorem setIss_drains (i : Issue) : (s.setIss i).drains = s.drains := by unfold State.setIss; split <;> rfl
@[simp] theorem setIss_running (i : Issue) : (s.setIss i).running = s.running := by unfold State.setIss; split <;> rfl
@[simp] theorem setIss_xlate (i : Issue) : (s.setIss i).xlate = s.xlate := by unfold State.setIss; split <;> rfl
@[simp] theorem setIss_reg6 (i : Issue) : (s.setIss i).reg6 = s.reg6 := by unfold State.setIss; split <;> rfl
@[simp] theorem setIss_health (i : Issue) : (s.setIss i).health = s.health := by unfold State.setIss; split <;> rfl
@[simp] theorem setIss_id (i : Issue) : (s.setIss i).id = s.id := by unfold State.setIss; split <;> rfl
@[simp] theorem setIss_clock (i : Issue) : (s.setIss i).clock = s.clock := by unfold State.setIss; split <;> rfl
@[simp] theorem setIss_run (i : Issue) : (s.setIss i).run = s.run := by unfold State.setIss; split <;> rfl
@[simp] theorem setIss_ptime (i : Issue) : (s.setIss i).ptime = s.ptime := by unfold State.setIss; split <;> rfl
@[simp] theorem setIss_agenda (i : Issue) : (s.setIss i).agenda = s.agenda := by unfold State.setIss; split <;> rfl
@[simp] theorem setIss_wires (i : Issue) : (s.setIss i).wires = s.wires := by unfold State.setIss; split <;> rfl
@[simp] theorem setIss_arriving (i : Issue) : (s.setIss i).arriving = s.arriving := by unfold State.setIss; split <;> rfl
@[simp] theorem setIss_groups (i : Issue) : (s.setIss i).groups = s.groups := by unfold State.setIss; split <;> rfl
@[simp] theorem setIss_packets (i : Issue) : (s.setIss i).packets = s.packets := by unfold State.setIss; split <;> rfl
@[simp] theorem setIss_routine (i : Issue) : (s.setIss i).routine = s.routine := by unfold State.setIss; split <;> rfl
@[simp] theorem setIss_deadDies (i : Issue) : (s.setIss i).deadDies = s.deadDies := by unfold State.setIss; split <;> rfl
@[simp] theorem setIss_colls (i : Issue) : (s.setIss i).colls = s.colls := by unfold State.setIss; split <;> rfl
@[simp] theorem setIss_casts (i : Issue) : (s.setIss i).casts = s.casts := by unfold State.setIss; split <;> rfl
@[simp] theorem setIss_clause (i : Issue) : (s.setIss i).clause = s.clause := by unfold State.setIss; split <;> rfl
@[simp] theorem setIss_arrivals (i : Issue) : (s.setIss i).arrivals = s.arrivals := by unfold State.setIss; split <;> rfl
@[simp] theorem setIss_earlier (i : Issue) : (s.setIss i).earlier = s.earlier := by unfold State.setIss; split <;> rfl
@[simp] theorem setIss_inval (i : Issue) : (s.setIss i).inval = s.inval := by unfold State.setIss; split <;> rfl
@[simp] theorem setIss_closing (i : Issue) : (s.setIss i).closing = s.closing := by unfold State.setIss; split <;> rfl
@[simp] theorem setIss_port (i : Issue) : (s.setIss i).port = s.port := by unfold State.setIss; split <;> rfl
@[simp] theorem setIss_fabric (i : Issue) : (s.setIss i).fabric = s.fabric := by unfold State.setIss; split <;> rfl
@[simp] theorem setIss_fe (i : Issue) : (s.setIss i).fe = s.fe := by unfold State.setIss; split <;> rfl
@[simp] theorem setIss_presets (i : Issue) : (s.setIss i).presets = s.presets := by unfold State.setIss; split <;> rfl
@[simp] theorem setIss_boot (i : Issue) : (s.setIss i).boot = s.boot := by unfold State.setIss; split <;> rfl
@[simp] theorem setIss_time (i : Issue) : (s.setIss i).time = s.time := by unfold State.setIss; split <;> rfl
@[simp] theorem setIss_wipes (i : Issue) : (s.setIss i).wipes = s.wipes := by unfold State.setIss; split <;> rfl
@[simp] theorem setIss_scrub (i : Issue) : (s.setIss i).scrub = s.scrub := by unfold State.setIss; split <;> rfl
@[simp] theorem setIss_outs (i : Issue) : (s.setIss i).outs = s.outs := by unfold State.setIss; split <;> rfl
@[simp] theorem setIss_free (i : Issue) : (s.setIss i).free = s.free := by unfold State.setIss; split <;> rfl
@[simp] theorem setIss_core_regs (i : Issue) : (s.setIss i).core.regs = s.core.regs := by unfold State.setIss; split <;> rfl
@[simp] theorem setIss_core_z (i : Issue) : (s.setIss i).core.z = s.core.z := by unfold State.setIss; split <;> rfl
@[simp] theorem setIss_core_flights (i : Issue) : (s.setIss i).core.flights = s.core.flights := by unfold State.setIss; split <;> rfl
@[simp] theorem setIss_core_backs (i : Issue) : (s.setIss i).core.backs = s.core.backs := by unfold State.setIss; split <;> rfl
@[simp] theorem setIss_core_slot (i : Issue) : (s.setIss i).core.slot = s.core.slot := by unfold State.setIss; split <;> rfl
@[simp] theorem setIss_core_bundle (i : Issue) : (s.setIss i).core.bundle = s.core.bundle := by unfold State.setIss; split <;> rfl
@[simp] theorem setIss_core_landed (i : Issue) : (s.setIss i).core.landed = s.core.landed := by unfold State.setIss; split <;> rfl
@[simp] theorem setIss_core_group (i : Issue) : (s.setIss i).core.group = s.core.group := by unfold State.setIss; split <;> rfl
@[simp] theorem setIss_core_panel (i : Issue) : (s.setIss i).core.panel = s.core.panel := by unfold State.setIss; split <;> rfl
@[simp] theorem setIss_core_ists (i : Issue) : (s.setIss i).core.ists = s.core.ists := by unfold State.setIss; split <;> rfl
@[simp] theorem setIss_core_loose (i : Issue) : (s.setIss i).core.loose = s.core.loose := by unfold State.setIss; split <;> rfl
@[simp] theorem setIss_core_lbuf (i : Issue) : (s.setIss i).core.lbuf = s.core.lbuf := by unfold State.setIss; split <;> rfl
@[simp] theorem setIss_core_lfill (i : Issue) : (s.setIss i).core.lfill = s.core.lfill := by unfold State.setIss; split <;> rfl
@[simp] theorem setIss_core_offEnd (i : Issue) : (s.setIss i).core.offEnd = s.core.offEnd := by unfold State.setIss; split <;> rfl
@[simp] theorem setIss_core_copyQ (i : Issue) : (s.setIss i).core.copyQ = s.core.copyQ := by unfold State.setIss; split <;> rfl
@[simp] theorem setIss_core_matrixQ (i : Issue) : (s.setIss i).core.matrixQ = s.core.matrixQ := by unfold State.setIss; split <;> rfl
@[simp] theorem setIss_core_shuttleQ (i : Issue) : (s.setIss i).core.shuttleQ = s.core.shuttleQ := by unfold State.setIss; split <;> rfl
@[simp] theorem setIss_core_outboxQ (i : Issue) : (s.setIss i).core.outboxQ = s.core.outboxQ := by unfold State.setIss; split <;> rfl
@[simp] theorem setIss_core_clauseQ (i : Issue) : (s.setIss i).core.clauseQ = s.core.clauseQ := by unfold State.setIss; split <;> rfl
@[simp] theorem setIss_core_spool (i : Issue) : (s.setIss i).core.spool = s.core.spool := by unfold State.setIss; split <;> rfl
@[simp] theorem setIss_core_mcast (i : Issue) : (s.setIss i).core.mcast = s.core.mcast := by unfold State.setIss; split <;> rfl
@[simp] theorem setIss_core_agree (i : Issue) : (s.setIss i).core.agree = s.core.agree := by unfold State.setIss; split <;> rfl
@[simp] theorem setIss_core_nextId (i : Issue) : (s.setIss i).core.nextId = s.core.nextId := by unfold State.setIss; split <;> rfl

/-! ## emit -/

@[simp] theorem emit_save (n : Nat) (x : Landing) (c : Checked) (b : Bool) : (s.emit n x c b).save = s.save := by unfold State.emit; split <;> rfl
@[simp] theorem emit_lsave (n : Nat) (x : Landing) (c : Checked) (b : Bool) : (s.emit n x c b).lsave = s.lsave := by unfold State.emit; split <;> rfl
@[simp] theorem emit_found (n : Nat) (x : Landing) (c : Checked) (b : Bool) : (s.emit n x c b).found = s.found := by unfold State.emit; split <;> rfl
@[simp] theorem emit_ctx (n : Nat) (x : Landing) (c : Checked) (b : Bool) : (s.emit n x c b).ctx = s.ctx := by unfold State.emit; split <;> rfl
@[simp] theorem emit_status (n : Nat) (x : Landing) (c : Checked) (b : Bool) : (s.emit n x c b).status = s.status := by unfold State.emit; split <;> rfl
@[simp] theorem emit_rewind (n : Nat) (x : Landing) (c : Checked) (b : Bool) : (s.emit n x c b).rewind = s.rewind := by unfold State.emit; split <;> rfl
@[simp] theorem emit_hold (n : Nat) (x : Landing) (c : Checked) (b : Bool) : (s.emit n x c b).hold = s.hold := by unfold State.emit; split <;> rfl
@[simp] theorem emit_sys (n : Nat) (x : Landing) (c : Checked) (b : Bool) : (s.emit n x c b).sys = s.sys := by unfold State.emit; split <;> rfl
@[simp] theorem emit_imem (n : Nat) (x : Landing) (c : Checked) (b : Bool) : (s.emit n x c b).imem = s.imem := by unfold State.emit; split <;> rfl
@[simp] theorem emit_mem (n : Nat) (x : Landing) (c : Checked) (b : Bool) : (s.emit n x c b).mem = s.mem := by unfold State.emit; split <;> rfl
@[simp] theorem emit_drains (n : Nat) (x : Landing) (c : Checked) (b : Bool) : (s.emit n x c b).drains = s.drains := by unfold State.emit; split <;> rfl
@[simp] theorem emit_running (n : Nat) (x : Landing) (c : Checked) (b : Bool) : (s.emit n x c b).running = s.running := by unfold State.emit; split <;> rfl
@[simp] theorem emit_xlate (n : Nat) (x : Landing) (c : Checked) (b : Bool) : (s.emit n x c b).xlate = s.xlate := by unfold State.emit; split <;> rfl
@[simp] theorem emit_reg6 (n : Nat) (x : Landing) (c : Checked) (b : Bool) : (s.emit n x c b).reg6 = s.reg6 := by unfold State.emit; split <;> rfl
@[simp] theorem emit_health (n : Nat) (x : Landing) (c : Checked) (b : Bool) : (s.emit n x c b).health = s.health := by unfold State.emit; split <;> rfl
@[simp] theorem emit_id (n : Nat) (x : Landing) (c : Checked) (b : Bool) : (s.emit n x c b).id = s.id := by unfold State.emit; split <;> rfl
@[simp] theorem emit_clock (n : Nat) (x : Landing) (c : Checked) (b : Bool) : (s.emit n x c b).clock = s.clock := by unfold State.emit; split <;> rfl
@[simp] theorem emit_run (n : Nat) (x : Landing) (c : Checked) (b : Bool) : (s.emit n x c b).run = s.run := by unfold State.emit; split <;> rfl
@[simp] theorem emit_ptime (n : Nat) (x : Landing) (c : Checked) (b : Bool) : (s.emit n x c b).ptime = s.ptime := by unfold State.emit; split <;> rfl
@[simp] theorem emit_agenda (n : Nat) (x : Landing) (c : Checked) (b : Bool) : (s.emit n x c b).agenda = s.agenda := by unfold State.emit; split <;> rfl
@[simp] theorem emit_wires (n : Nat) (x : Landing) (c : Checked) (b : Bool) : (s.emit n x c b).wires = s.wires := by unfold State.emit; split <;> rfl
@[simp] theorem emit_arriving (n : Nat) (x : Landing) (c : Checked) (b : Bool) : (s.emit n x c b).arriving = s.arriving := by unfold State.emit; split <;> rfl
@[simp] theorem emit_groups (n : Nat) (x : Landing) (c : Checked) (b : Bool) : (s.emit n x c b).groups = s.groups := by unfold State.emit; split <;> rfl
@[simp] theorem emit_packets (n : Nat) (x : Landing) (c : Checked) (b : Bool) : (s.emit n x c b).packets = s.packets := by unfold State.emit; split <;> rfl
@[simp] theorem emit_routine (n : Nat) (x : Landing) (c : Checked) (b : Bool) : (s.emit n x c b).routine = s.routine := by unfold State.emit; split <;> rfl
@[simp] theorem emit_deadDies (n : Nat) (x : Landing) (c : Checked) (b : Bool) : (s.emit n x c b).deadDies = s.deadDies := by unfold State.emit; split <;> rfl
@[simp] theorem emit_colls (n : Nat) (x : Landing) (c : Checked) (b : Bool) : (s.emit n x c b).colls = s.colls := by unfold State.emit; split <;> rfl
@[simp] theorem emit_casts (n : Nat) (x : Landing) (c : Checked) (b : Bool) : (s.emit n x c b).casts = s.casts := by unfold State.emit; split <;> rfl
@[simp] theorem emit_clause (n : Nat) (x : Landing) (c : Checked) (b : Bool) : (s.emit n x c b).clause = s.clause := by unfold State.emit; split <;> rfl
@[simp] theorem emit_arrivals (n : Nat) (x : Landing) (c : Checked) (b : Bool) : (s.emit n x c b).arrivals = s.arrivals := by unfold State.emit; split <;> rfl
@[simp] theorem emit_earlier (n : Nat) (x : Landing) (c : Checked) (b : Bool) : (s.emit n x c b).earlier = s.earlier := by unfold State.emit; split <;> rfl
@[simp] theorem emit_inval (n : Nat) (x : Landing) (c : Checked) (b : Bool) : (s.emit n x c b).inval = s.inval := by unfold State.emit; split <;> rfl
@[simp] theorem emit_closing (n : Nat) (x : Landing) (c : Checked) (b : Bool) : (s.emit n x c b).closing = s.closing := by unfold State.emit; split <;> rfl
@[simp] theorem emit_port (n : Nat) (x : Landing) (c : Checked) (b : Bool) : (s.emit n x c b).port = s.port := by unfold State.emit; split <;> rfl
@[simp] theorem emit_fabric (n : Nat) (x : Landing) (c : Checked) (b : Bool) : (s.emit n x c b).fabric = s.fabric := by unfold State.emit; split <;> rfl
@[simp] theorem emit_fe (n : Nat) (x : Landing) (c : Checked) (b : Bool) : (s.emit n x c b).fe = s.fe := by unfold State.emit; split <;> rfl
@[simp] theorem emit_presets (n : Nat) (x : Landing) (c : Checked) (b : Bool) : (s.emit n x c b).presets = s.presets := by unfold State.emit; split <;> rfl
@[simp] theorem emit_boot (n : Nat) (x : Landing) (c : Checked) (b : Bool) : (s.emit n x c b).boot = s.boot := by unfold State.emit; split <;> rfl
@[simp] theorem emit_time (n : Nat) (x : Landing) (c : Checked) (b : Bool) : (s.emit n x c b).time = s.time := by unfold State.emit; split <;> rfl
@[simp] theorem emit_wipes (n : Nat) (x : Landing) (c : Checked) (b : Bool) : (s.emit n x c b).wipes = s.wipes := by unfold State.emit; split <;> rfl
@[simp] theorem emit_scrub (n : Nat) (x : Landing) (c : Checked) (b : Bool) : (s.emit n x c b).scrub = s.scrub := by unfold State.emit; split <;> rfl
@[simp] theorem emit_outs (n : Nat) (x : Landing) (c : Checked) (b : Bool) : (s.emit n x c b).outs = s.outs := by unfold State.emit; split <;> rfl
@[simp] theorem emit_free (n : Nat) (x : Landing) (c : Checked) (b : Bool) : (s.emit n x c b).free = s.free := by unfold State.emit; split <;> rfl
@[simp] theorem emit_core_regs (n : Nat) (x : Landing) (c : Checked) (b : Bool) : (s.emit n x c b).core.regs = s.core.regs := by unfold State.emit; split <;> rfl
@[simp] theorem emit_core_z (n : Nat) (x : Landing) (c : Checked) (b : Bool) : (s.emit n x c b).core.z = s.core.z := by unfold State.emit; split <;> rfl
@[simp] theorem emit_core_backs (n : Nat) (x : Landing) (c : Checked) (b : Bool) : (s.emit n x c b).core.backs = s.core.backs := by unfold State.emit; split <;> rfl
@[simp] theorem emit_core_slot (n : Nat) (x : Landing) (c : Checked) (b : Bool) : (s.emit n x c b).core.slot = s.core.slot := by unfold State.emit; split <;> rfl
@[simp] theorem emit_core_bundle (n : Nat) (x : Landing) (c : Checked) (b : Bool) : (s.emit n x c b).core.bundle = s.core.bundle := by unfold State.emit; split <;> rfl
@[simp] theorem emit_core_iss (n : Nat) (x : Landing) (c : Checked) (b : Bool) : (s.emit n x c b).core.iss = s.core.iss := by unfold State.emit; split <;> rfl
@[simp] theorem emit_core_landed (n : Nat) (x : Landing) (c : Checked) (b : Bool) : (s.emit n x c b).core.landed = s.core.landed := by unfold State.emit; split <;> rfl
@[simp] theorem emit_core_group (n : Nat) (x : Landing) (c : Checked) (b : Bool) : (s.emit n x c b).core.group = s.core.group := by unfold State.emit; split <;> rfl
@[simp] theorem emit_core_panel (n : Nat) (x : Landing) (c : Checked) (b : Bool) : (s.emit n x c b).core.panel = s.core.panel := by unfold State.emit; split <;> rfl
@[simp] theorem emit_core_ists (n : Nat) (x : Landing) (c : Checked) (b : Bool) : (s.emit n x c b).core.ists = s.core.ists := by unfold State.emit; split <;> rfl
@[simp] theorem emit_core_loose (n : Nat) (x : Landing) (c : Checked) (b : Bool) : (s.emit n x c b).core.loose = s.core.loose := by unfold State.emit; split <;> rfl
@[simp] theorem emit_core_lbuf (n : Nat) (x : Landing) (c : Checked) (b : Bool) : (s.emit n x c b).core.lbuf = s.core.lbuf := by unfold State.emit; split <;> rfl
@[simp] theorem emit_core_lfill (n : Nat) (x : Landing) (c : Checked) (b : Bool) : (s.emit n x c b).core.lfill = s.core.lfill := by unfold State.emit; split <;> rfl
@[simp] theorem emit_core_offEnd (n : Nat) (x : Landing) (c : Checked) (b : Bool) : (s.emit n x c b).core.offEnd = s.core.offEnd := by unfold State.emit; split <;> rfl
@[simp] theorem emit_core_copyQ (n : Nat) (x : Landing) (c : Checked) (b : Bool) : (s.emit n x c b).core.copyQ = s.core.copyQ := by unfold State.emit; split <;> rfl
@[simp] theorem emit_core_matrixQ (n : Nat) (x : Landing) (c : Checked) (b : Bool) : (s.emit n x c b).core.matrixQ = s.core.matrixQ := by unfold State.emit; split <;> rfl
@[simp] theorem emit_core_shuttleQ (n : Nat) (x : Landing) (c : Checked) (b : Bool) : (s.emit n x c b).core.shuttleQ = s.core.shuttleQ := by unfold State.emit; split <;> rfl
@[simp] theorem emit_core_outboxQ (n : Nat) (x : Landing) (c : Checked) (b : Bool) : (s.emit n x c b).core.outboxQ = s.core.outboxQ := by unfold State.emit; split <;> rfl
@[simp] theorem emit_core_clauseQ (n : Nat) (x : Landing) (c : Checked) (b : Bool) : (s.emit n x c b).core.clauseQ = s.core.clauseQ := by unfold State.emit; split <;> rfl
@[simp] theorem emit_core_spool (n : Nat) (x : Landing) (c : Checked) (b : Bool) : (s.emit n x c b).core.spool = s.core.spool := by unfold State.emit; split <;> rfl
@[simp] theorem emit_core_mcast (n : Nat) (x : Landing) (c : Checked) (b : Bool) : (s.emit n x c b).core.mcast = s.core.mcast := by unfold State.emit; split <;> rfl
@[simp] theorem emit_core_agree (n : Nat) (x : Landing) (c : Checked) (b : Bool) : (s.emit n x c b).core.agree = s.core.agree := by unfold State.emit; split <;> rfl
@[simp] theorem emit_core_nextId (n : Nat) (x : Landing) (c : Checked) (b : Bool) : (s.emit n x c b).core.nextId = s.core.nextId := by unfold State.emit; split <;> rfl

/-! ## count -/

@[simp] theorem count_core (n : Nat) : (s.count n).core = s.core := rfl
@[simp] theorem count_save (n : Nat) : (s.count n).save = s.save := rfl
@[simp] theorem count_lsave (n : Nat) : (s.count n).lsave = s.lsave := rfl
@[simp] theorem count_found (n : Nat) : (s.count n).found = s.found := rfl
@[simp] theorem count_ctx (n : Nat) : (s.count n).ctx = s.ctx := rfl
@[simp] theorem count_status (n : Nat) : (s.count n).status = s.status := rfl
@[simp] theorem count_rewind (n : Nat) : (s.count n).rewind = s.rewind := rfl
@[simp] theorem count_hold (n : Nat) : (s.count n).hold = s.hold := rfl
@[simp] theorem count_sys (n : Nat) : (s.count n).sys = s.sys := rfl
@[simp] theorem count_lin (n : Nat) : (s.count n).lin = s.lin := rfl
@[simp] theorem count_imem (n : Nat) : (s.count n).imem = s.imem := rfl
@[simp] theorem count_mem (n : Nat) : (s.count n).mem = s.mem := rfl
@[simp] theorem count_drains (n : Nat) : (s.count n).drains = s.drains := rfl
@[simp] theorem count_running (n : Nat) : (s.count n).running = s.running := rfl
@[simp] theorem count_xlate (n : Nat) : (s.count n).xlate = s.xlate := rfl
@[simp] theorem count_reg6 (n : Nat) : (s.count n).reg6 = s.reg6 := rfl
@[simp] theorem count_id (n : Nat) : (s.count n).id = s.id := rfl
@[simp] theorem count_clock (n : Nat) : (s.count n).clock = s.clock := rfl
@[simp] theorem count_run (n : Nat) : (s.count n).run = s.run := rfl
@[simp] theorem count_ptime (n : Nat) : (s.count n).ptime = s.ptime := rfl
@[simp] theorem count_agenda (n : Nat) : (s.count n).agenda = s.agenda := rfl
@[simp] theorem count_wires (n : Nat) : (s.count n).wires = s.wires := rfl
@[simp] theorem count_arriving (n : Nat) : (s.count n).arriving = s.arriving := rfl
@[simp] theorem count_groups (n : Nat) : (s.count n).groups = s.groups := rfl
@[simp] theorem count_packets (n : Nat) : (s.count n).packets = s.packets := rfl
@[simp] theorem count_routine (n : Nat) : (s.count n).routine = s.routine := rfl
@[simp] theorem count_deadDies (n : Nat) : (s.count n).deadDies = s.deadDies := rfl
@[simp] theorem count_colls (n : Nat) : (s.count n).colls = s.colls := rfl
@[simp] theorem count_casts (n : Nat) : (s.count n).casts = s.casts := rfl
@[simp] theorem count_clause (n : Nat) : (s.count n).clause = s.clause := rfl
@[simp] theorem count_arrivals (n : Nat) : (s.count n).arrivals = s.arrivals := rfl
@[simp] theorem count_earlier (n : Nat) : (s.count n).earlier = s.earlier := rfl
@[simp] theorem count_inval (n : Nat) : (s.count n).inval = s.inval := rfl
@[simp] theorem count_closing (n : Nat) : (s.count n).closing = s.closing := rfl
@[simp] theorem count_port (n : Nat) : (s.count n).port = s.port := rfl
@[simp] theorem count_fabric (n : Nat) : (s.count n).fabric = s.fabric := rfl
@[simp] theorem count_fe (n : Nat) : (s.count n).fe = s.fe := rfl
@[simp] theorem count_presets (n : Nat) : (s.count n).presets = s.presets := rfl
@[simp] theorem count_boot (n : Nat) : (s.count n).boot = s.boot := rfl
@[simp] theorem count_time (n : Nat) : (s.count n).time = s.time := rfl
@[simp] theorem count_wipes (n : Nat) : (s.count n).wipes = s.wipes := rfl
@[simp] theorem count_scrub (n : Nat) : (s.count n).scrub = s.scrub := rfl
@[simp] theorem count_outs (n : Nat) : (s.count n).outs = s.outs := rfl
@[simp] theorem count_free (n : Nat) : (s.count n).free = s.free := rfl

/-! ## markLive -/

@[simp] theorem markLive_save : (s.markLive).save = s.save := setIss_save _ _
@[simp] theorem markLive_lsave : (s.markLive).lsave = s.lsave := setIss_lsave _ _
@[simp] theorem markLive_found : (s.markLive).found = s.found := setIss_found _ _
@[simp] theorem markLive_ctx : (s.markLive).ctx = s.ctx := setIss_ctx _ _
@[simp] theorem markLive_status : (s.markLive).status = s.status := setIss_status _ _
@[simp] theorem markLive_rewind : (s.markLive).rewind = s.rewind := setIss_rewind _ _
@[simp] theorem markLive_hold : (s.markLive).hold = s.hold := setIss_hold _ _
@[simp] theorem markLive_sys : (s.markLive).sys = s.sys := setIss_sys _ _
@[simp] theorem markLive_imem : (s.markLive).imem = s.imem := setIss_imem _ _
@[simp] theorem markLive_mem : (s.markLive).mem = s.mem := setIss_mem _ _
@[simp] theorem markLive_drains : (s.markLive).drains = s.drains := setIss_drains _ _
@[simp] theorem markLive_running : (s.markLive).running = s.running := setIss_running _ _
@[simp] theorem markLive_xlate : (s.markLive).xlate = s.xlate := setIss_xlate _ _
@[simp] theorem markLive_reg6 : (s.markLive).reg6 = s.reg6 := setIss_reg6 _ _
@[simp] theorem markLive_health : (s.markLive).health = s.health := setIss_health _ _
@[simp] theorem markLive_id : (s.markLive).id = s.id := setIss_id _ _
@[simp] theorem markLive_clock : (s.markLive).clock = s.clock := setIss_clock _ _
@[simp] theorem markLive_run : (s.markLive).run = s.run := setIss_run _ _
@[simp] theorem markLive_ptime : (s.markLive).ptime = s.ptime := setIss_ptime _ _
@[simp] theorem markLive_agenda : (s.markLive).agenda = s.agenda := setIss_agenda _ _
@[simp] theorem markLive_wires : (s.markLive).wires = s.wires := setIss_wires _ _
@[simp] theorem markLive_arriving : (s.markLive).arriving = s.arriving := setIss_arriving _ _
@[simp] theorem markLive_groups : (s.markLive).groups = s.groups := setIss_groups _ _
@[simp] theorem markLive_packets : (s.markLive).packets = s.packets := setIss_packets _ _
@[simp] theorem markLive_routine : (s.markLive).routine = s.routine := setIss_routine _ _
@[simp] theorem markLive_deadDies : (s.markLive).deadDies = s.deadDies := setIss_deadDies _ _
@[simp] theorem markLive_colls : (s.markLive).colls = s.colls := setIss_colls _ _
@[simp] theorem markLive_casts : (s.markLive).casts = s.casts := setIss_casts _ _
@[simp] theorem markLive_clause : (s.markLive).clause = s.clause := setIss_clause _ _
@[simp] theorem markLive_arrivals : (s.markLive).arrivals = s.arrivals := setIss_arrivals _ _
@[simp] theorem markLive_earlier : (s.markLive).earlier = s.earlier := setIss_earlier _ _
@[simp] theorem markLive_inval : (s.markLive).inval = s.inval := setIss_inval _ _
@[simp] theorem markLive_closing : (s.markLive).closing = s.closing := setIss_closing _ _
@[simp] theorem markLive_port : (s.markLive).port = s.port := setIss_port _ _
@[simp] theorem markLive_fabric : (s.markLive).fabric = s.fabric := setIss_fabric _ _
@[simp] theorem markLive_fe : (s.markLive).fe = s.fe := setIss_fe _ _
@[simp] theorem markLive_presets : (s.markLive).presets = s.presets := setIss_presets _ _
@[simp] theorem markLive_boot : (s.markLive).boot = s.boot := setIss_boot _ _
@[simp] theorem markLive_time : (s.markLive).time = s.time := setIss_time _ _
@[simp] theorem markLive_wipes : (s.markLive).wipes = s.wipes := setIss_wipes _ _
@[simp] theorem markLive_scrub : (s.markLive).scrub = s.scrub := setIss_scrub _ _
@[simp] theorem markLive_outs : (s.markLive).outs = s.outs := setIss_outs _ _
@[simp] theorem markLive_free : (s.markLive).free = s.free := setIss_free _ _

/-! ## tellLining -/

@[simp] theorem tellLining_core (e : LinEvent) : (s.tellLining e).core = s.core := by unfold State.tellLining; split <;> rfl
@[simp] theorem tellLining_save (e : LinEvent) : (s.tellLining e).save = s.save := by unfold State.tellLining; split <;> rfl
@[simp] theorem tellLining_lsave (e : LinEvent) : (s.tellLining e).lsave = s.lsave := by unfold State.tellLining; split <;> rfl
@[simp] theorem tellLining_found (e : LinEvent) : (s.tellLining e).found = s.found := by unfold State.tellLining; split <;> rfl
@[simp] theorem tellLining_ctx (e : LinEvent) : (s.tellLining e).ctx = s.ctx := by unfold State.tellLining; split <;> rfl
@[simp] theorem tellLining_status (e : LinEvent) : (s.tellLining e).status = s.status := by unfold State.tellLining; split <;> rfl
@[simp] theorem tellLining_rewind (e : LinEvent) : (s.tellLining e).rewind = s.rewind := by unfold State.tellLining; split <;> rfl
@[simp] theorem tellLining_hold (e : LinEvent) : (s.tellLining e).hold = s.hold := by unfold State.tellLining; split <;> rfl
@[simp] theorem tellLining_sys (e : LinEvent) : (s.tellLining e).sys = s.sys := by unfold State.tellLining; split <;> rfl
@[simp] theorem tellLining_imem (e : LinEvent) : (s.tellLining e).imem = s.imem := by unfold State.tellLining; split <;> rfl
@[simp] theorem tellLining_mem (e : LinEvent) : (s.tellLining e).mem = s.mem := by unfold State.tellLining; split <;> rfl
@[simp] theorem tellLining_drains (e : LinEvent) : (s.tellLining e).drains = s.drains := by unfold State.tellLining; split <;> rfl
@[simp] theorem tellLining_running (e : LinEvent) : (s.tellLining e).running = s.running := by unfold State.tellLining; split <;> rfl
@[simp] theorem tellLining_xlate (e : LinEvent) : (s.tellLining e).xlate = s.xlate := by unfold State.tellLining; split <;> rfl
@[simp] theorem tellLining_reg6 (e : LinEvent) : (s.tellLining e).reg6 = s.reg6 := by unfold State.tellLining; split <;> rfl
@[simp] theorem tellLining_id (e : LinEvent) : (s.tellLining e).id = s.id := by unfold State.tellLining; split <;> rfl
@[simp] theorem tellLining_clock (e : LinEvent) : (s.tellLining e).clock = s.clock := by unfold State.tellLining; split <;> rfl
@[simp] theorem tellLining_run (e : LinEvent) : (s.tellLining e).run = s.run := by unfold State.tellLining; split <;> rfl
@[simp] theorem tellLining_ptime (e : LinEvent) : (s.tellLining e).ptime = s.ptime := by unfold State.tellLining; split <;> rfl
@[simp] theorem tellLining_agenda (e : LinEvent) : (s.tellLining e).agenda = s.agenda := by unfold State.tellLining; split <;> rfl
@[simp] theorem tellLining_wires (e : LinEvent) : (s.tellLining e).wires = s.wires := by unfold State.tellLining; split <;> rfl
@[simp] theorem tellLining_arriving (e : LinEvent) : (s.tellLining e).arriving = s.arriving := by unfold State.tellLining; split <;> rfl
@[simp] theorem tellLining_groups (e : LinEvent) : (s.tellLining e).groups = s.groups := by unfold State.tellLining; split <;> rfl
@[simp] theorem tellLining_packets (e : LinEvent) : (s.tellLining e).packets = s.packets := by unfold State.tellLining; split <;> rfl
@[simp] theorem tellLining_routine (e : LinEvent) : (s.tellLining e).routine = s.routine := by unfold State.tellLining; split <;> rfl
@[simp] theorem tellLining_deadDies (e : LinEvent) : (s.tellLining e).deadDies = s.deadDies := by unfold State.tellLining; split <;> rfl
@[simp] theorem tellLining_colls (e : LinEvent) : (s.tellLining e).colls = s.colls := by unfold State.tellLining; split <;> rfl
@[simp] theorem tellLining_casts (e : LinEvent) : (s.tellLining e).casts = s.casts := by unfold State.tellLining; split <;> rfl
@[simp] theorem tellLining_clause (e : LinEvent) : (s.tellLining e).clause = s.clause := by unfold State.tellLining; split <;> rfl
@[simp] theorem tellLining_arrivals (e : LinEvent) : (s.tellLining e).arrivals = s.arrivals := by unfold State.tellLining; split <;> rfl
@[simp] theorem tellLining_earlier (e : LinEvent) : (s.tellLining e).earlier = s.earlier := by unfold State.tellLining; split <;> rfl
@[simp] theorem tellLining_inval (e : LinEvent) : (s.tellLining e).inval = s.inval := by unfold State.tellLining; split <;> rfl
@[simp] theorem tellLining_closing (e : LinEvent) : (s.tellLining e).closing = s.closing := by unfold State.tellLining; split <;> rfl
@[simp] theorem tellLining_port (e : LinEvent) : (s.tellLining e).port = s.port := by unfold State.tellLining; split <;> rfl
@[simp] theorem tellLining_fabric (e : LinEvent) : (s.tellLining e).fabric = s.fabric := by unfold State.tellLining; split <;> rfl
@[simp] theorem tellLining_fe (e : LinEvent) : (s.tellLining e).fe = s.fe := by unfold State.tellLining; split <;> rfl
@[simp] theorem tellLining_presets (e : LinEvent) : (s.tellLining e).presets = s.presets := by unfold State.tellLining; split <;> rfl
@[simp] theorem tellLining_boot (e : LinEvent) : (s.tellLining e).boot = s.boot := by unfold State.tellLining; split <;> rfl
@[simp] theorem tellLining_time (e : LinEvent) : (s.tellLining e).time = s.time := by unfold State.tellLining; split <;> rfl
@[simp] theorem tellLining_wipes (e : LinEvent) : (s.tellLining e).wipes = s.wipes := by unfold State.tellLining; split <;> rfl
@[simp] theorem tellLining_scrub (e : LinEvent) : (s.tellLining e).scrub = s.scrub := by unfold State.tellLining; split <;> rfl
@[simp] theorem tellLining_outs (e : LinEvent) : (s.tellLining e).outs = s.outs := by unfold State.tellLining; split <;> rfl
@[simp] theorem tellLining_free (e : LinEvent) : (s.tellLining e).free = s.free := by unfold State.tellLining; split <;> rfl

end Sys2Proof.Laws
end

