-- ==== Sys2Proof/Laws/Ops.lean ====
section
/-! SUPPORT. What the shared operations do, said once: operands read through them, predicates, the end of a slot
operation, traps, and registers. -/

namespace Sys2Proof.Laws
open Sys2Proof.Machine

variable (s : State)

/-! ## Reading through the record of the bundle -/

@[simp] theorem setIss_rs (i : Issue) (a : BitVec 5) : (s.setIss i).rs a = s.rs a := by
  cases h : s.ctx <;> simp [State.rs, State.setIss, h]

@[simp] theorem setIss_rp (i : Issue) (a : BitVec 3) : (s.setIss i).rp a = s.rp a := by
  cases h : s.ctx <;> simp [State.rp, State.setIss, h]

@[simp] theorem setIss_rm (i : Issue) (a : BitVec 3) : (s.setIss i).rm a = s.rm a := by
  cases h : s.ctx <;> simp [State.rm, State.setIss, h]

@[simp] theorem setIss_rv (i : Issue) (a : BitVec 5) : (s.setIss i).rv a = s.rv a := by
  cases h : s.ctx <;> simp [State.rv, State.setIss, h]

@[simp] theorem setIss_ra (i : Issue) (a : BitVec 4) : (s.setIss i).ra a = s.ra a := by
  cases h : s.ctx <;> simp [State.ra, State.setIss, h]

@[simp] theorem setIss_rh (i : Issue) (a : BitVec 4) : (s.setIss i).rh a = s.rh a := by
  cases h : s.ctx <;> simp [State.rh, State.setIss, h]

@[simp] theorem setIss_bundle (i : Issue) : (s.setIss i).bundle = s.bundle := by
  cases h : s.ctx <;> simp [State.bundle, State.setIss, h]

@[simp] theorem setIss_slot (i : Issue) : (s.setIss i).slot = s.slot := by
  cases h : s.ctx <;> simp [State.slot, State.setIss, h]

@[simp] theorem setIss_isMain (i : Issue) : (s.setIss i).isMain = s.isMain := by simp [State.isMain]

@[simp] theorem setIss_opword (i : Issue) : (s.setIss i).opword = s.opword := by simp [State.opword]

@[simp] theorem setIss_here (i : Issue) : (s.setIss i).extension = s.extension := by simp [State.extension]

@[simp] theorem setIss_signedField (i : Issue) {n : Nat} (f : BitVec n) : (s.setIss i).signedField f = s.signedField f := by
  simp [State.signedField]

@[simp] theorem setIss_plainField (i : Issue) {n : Nat} (f : BitVec n) : (s.setIss i).plainField f = s.plainField f := by
  simp [State.plainField]

@[simp] theorem setIss_iss (i : Issue) : (s.setIss i).iss = i := by
  cases h : s.ctx <;> simp [State.iss, State.setIss, h]

@[simp] theorem setIss_setIss (i j : Issue) : (s.setIss i).setIss j = s.setIss j := by
  cases h : s.ctx <;> simp [State.setIss, h]

@[simp] theorem setIss_self : s.setIss s.iss = s := by
  obtain ⟨_, _, _, _, c, _⟩ := s
  cases c <;> rfl

/-- The record after an operation that issued with a true predicate (R120). -/
theorem markLive_eq : s.markLive = s.setIss { s.iss with live := s.iss.live ||| slotBit s.slot } := rfl

@[simp] theorem markLive_rs (a : BitVec 5) : s.markLive.rs a = s.rs a := by simp [markLive_eq]
@[simp] theorem markLive_rp (a : BitVec 3) : s.markLive.rp a = s.rp a := by simp [markLive_eq]
@[simp] theorem markLive_rm (a : BitVec 3) : s.markLive.rm a = s.rm a := by simp [markLive_eq]
@[simp] theorem markLive_rv (a : BitVec 5) : s.markLive.rv a = s.rv a := by simp [markLive_eq]
@[simp] theorem markLive_ra (a : BitVec 4) : s.markLive.ra a = s.ra a := by simp [markLive_eq]
@[simp] theorem markLive_rh (a : BitVec 4) : s.markLive.rh a = s.rh a := by simp [markLive_eq]
@[simp] theorem markLive_bundle : s.markLive.bundle = s.bundle := by simp [markLive_eq]
@[simp] theorem markLive_slot : s.markLive.slot = s.slot := by simp [markLive_eq]
@[simp] theorem markLive_isMain : s.markLive.isMain = s.isMain := by simp [markLive_eq]
@[simp] theorem markLive_opword : s.markLive.opword = s.opword := by simp [markLive_eq]
@[simp] theorem markLive_regs : s.markLive.core.regs = s.core.regs := by simp [markLive_eq]
@[simp] theorem markLive_panel : s.markLive.core.panel = s.core.panel := by simp [markLive_eq]
@[simp] theorem markLive_flights : s.markLive.core.flights = s.core.flights := by simp [markLive_eq]
@[simp] theorem markLive_signedField {n : Nat} (f : BitVec n) : s.markLive.signedField f = s.signedField f := by simp [markLive_eq]
@[simp] theorem markLive_plainField {n : Nat} (f : BitVec n) : s.markLive.plainField f = s.plainField f := by simp [markLive_eq]

/-! ## Widened fields (R21) -/

theorem extension_none (hc : s.ctx = .main) (h : s.core.bundle.header = none) : s.extension = (0, 0) := by
  simp [State.extension, State.bundle, extensionOf, hc, h]

theorem extension_zero (hc : s.ctx = .main) (hk : s.core.slot = 0) : s.extension = (0, 0) := by
  simp only [State.extension, State.bundle, State.slot, extensionOf, hc, hk]
  split <;> simp

/-- The part of a header that extends the fields of its slot. -/
theorem extension_header (hc : s.ctx = .main) (ha : isAgreed s.core.bundle.words[0] = false) {h : Word}
    (hh : s.core.bundle.header = some h) (hk : s.core.slot.val ≠ 0) : s.extension =
      if h.getLsbD 24 then (h.toNat / 2 ^ (6 * (s.core.slot.val - 1)) % 64, 6)
      else (h.toNat / 2 ^ (8 * (s.core.slot.val - 1)) % 256, 8) := by
  simp [State.extension, State.bundle, State.slot, extensionOf, hc, hh, ha, hk]

theorem signedField_eq {n e k : Nat} (f : BitVec n) (h : s.extension = (e, k)) :
    s.signedField f = sext64 (n + k) (e * 2 ^ n + f.toNat) := by simp only [State.signedField]; rw [h]

theorem plainField_eq {n e k : Nat} (f : BitVec n) (h : s.extension = (e, k)) :
    s.plainField f = (e * 2 ^ n + f.toNat, n + k) := by simp only [State.plainField]; rw [h]

/-! ## Predicates (R28) -/

theorem guarded_true {p : BitVec 3} (h : s.rp p = true) (f : State → State) : s.guarded p f = f s.markLive := by
  simp [State.guarded, h]

theorem guarded_false {p : BitVec 3} (h : s.rp p = false) (f : State → State) : s.guarded p f = s := by
  simp [State.guarded, h]

/-- An operation with a true predicate. -/
theorem predOp_true {p : BitVec 3} (h : s.rp p = true) (f : State → State) : predOp p s f = .next (f s.markLive).retire := by
  simp [predOp, slotOp, guarded_true s h]

/-- An operation with a false predicate has no effect but its slot's. -/
theorem predOp_false {p : BitVec 3} (h : s.rp p = false) (f : State → State) : predOp p s f = .next s.retire := by
  simp [predOp, slotOp, guarded_false s h]

theorem plainOp_eq (f : State → State) : plainOp s f = .next (f s.markLive).retire := rfl

/-! ## The end of a slot operation -/

/-- Before slot 3 the next slot is up. -/
theorem retire_main (hc : s.ctx = .main) (hk : s.core.slot.val < 3) :
    s.retire = { s with core := { s.core with slot := s.core.slot + 1 } } := by
  simp [State.retire, hc, hk]

/-- Slot 3 ends the bundle. -/
theorem retire_last (hc : s.ctx = .main) (hk : ¬ s.core.slot.val < 3) : s.retire = s.finishBundle := by
  simp [State.retire, hc, hk]

/-- In the lining every bundle has one operation (R56). -/
theorem retire_lining (hc : s.ctx = .lining) : s.retire = s.finishLining := by
  simp [State.retire, hc]

/-! ## Results on their way -/

/-- A result of the main context. -/
theorem emit_main (hc : s.ctx = .main) (n : Nat) (x : Landing) (c : Checked) (b : Bool) :
    s.emit n x c b = { s with core := { s.core with flights := s.core.flights ++
      [{ due := s.run + n, iss := s.run, baddr := s.core.bundle.addr, slot := s.core.slot, word := s.opword,
         land := x, chk := c, upset := .none, raw := none, late := b }] } } := by
  simp [State.emit, hc]

/-- A result of the lining. -/
theorem emit_lining (hc : s.ctx = .lining) (n : Nat) (x : Landing) (c : Checked) (b : Bool) :
    s.emit n x c b = { s with lin := { s.lin with flights := s.lin.flights ++
      [{ due := s.lin.cyc + n, iss := s.lin.cyc, baddr := s.lin.bundle.addr, slot := 0, word := s.opword,
         land := x, chk := c, upset := .none, raw := none, late := b }] } } := by
  simp [State.emit, hc]

/-! ## Traps and freezes -/

/-- A trap of a slot operation is recorded in its bundle. -/
theorem trapOn_eq (c : Nat) (d : Dword) : s.trapOn c d =
    s.setIss { s.iss with trap := some (mergeTrap s.iss.trap
      { cause := c, smask := slotBit s.slot, reason := 0, code := 0, detail := d }) } := rfl

/-- A freeze cause is recorded in the bundle: the lowest of several names the freeze, and each of them holds (R45). -/
theorem holdOn_eq (c : Nat) : s.holdOn c = s.setIss (s.iss.held c) := rfl

theorem held_hold (i : Issue) (c : Nat) : (i.held c).hold = some (match i.hold with | some d => min c d | none => c) := rfl
theorem held_causes (i : Issue) (c : Nat) : (i.held c).causes = i.causes ++ [c] := rfl

/-- A bundle without traps takes the trap raised. -/
theorem mergeTrap_none (t : TrapRec) : mergeTrap none t = t := rfl

/-- A lower cause takes the place of a higher one. -/
theorem mergeTrap_lower {o t : TrapRec} (h : t.cause < o.cause) : mergeTrap (some o) t = t := by
  have : ¬ o.cause < t.cause := by omega
  simp [mergeTrap, h, this]

/-! ## Registers -/

/-- A hard-wired register keeps its value (R40). -/
@[simp] theorem cluster_rs_zero (c : Cluster) : c.rs 0 = 0 := by simp [Cluster.rs]
@[simp] theorem cluster_rp_zero (c : Cluster) : c.rp 0 = true := by simp [Cluster.rp]
@[simp] theorem cluster_rm_zero (c : Cluster) : c.rm 0 = BitVec.allOnes 2048 := by simp [Cluster.rm]
@[simp] theorem cluster_ws_zero (c : Cluster) (x : Dword) : c.ws 0 x = c := by simp [Cluster.ws]
@[simp] theorem cluster_wp_zero (c : Cluster) (x : Bool) : c.wp 0 x = c := by simp [Cluster.wp]
@[simp] theorem cluster_wm_zero (c : Cluster) (x : Mask) : c.wm 0 x = c := by simp [Cluster.wm]

theorem vget_vput {α : Type} {k : Nat} (v : Vector α (2 ^ k)) (i j : BitVec k) (x : α) :
    vget (vput v i x) j = if i = j then x else vget v j := by
  unfold vget vput
  by_cases h : i = j
  · subst h; simp
  · have : i.toNat ≠ j.toNat := fun e => h (BitVec.eq_of_toNat_eq e)
    simp [h, this]

/-- Reading a scalar register after a write (R40). -/
theorem cluster_rs_ws (c : Cluster) (i j : BitVec 5) (x : Dword) :
    (c.ws i x).rs j = if j = 0 then 0 else if i = j then x else c.rs j := by
  unfold Cluster.rs Cluster.ws
  by_cases hj : j = 0
  · rw [if_pos hj, if_pos hj]
  · rw [if_neg hj, if_neg hj]
    by_cases hi : i = 0
    · rw [if_pos hi, if_neg (fun e => hj (e.symm.trans hi)), if_neg hj]
    · rw [if_neg hi, if_neg hj]
      exact vget_vput (k := 5) c.s i j x

/-- Reading a predicate after a write (R40). -/
theorem cluster_rp_wp (c : Cluster) (i j : BitVec 3) (x : Bool) :
    (c.wp i x).rp j = if j = 0 then true else if i = j then x else c.rp j := by
  unfold Cluster.rp Cluster.wp
  by_cases hj : j = 0
  · rw [if_pos hj, if_pos hj]
  · rw [if_neg hj, if_neg hj]
    by_cases hi : i = 0
    · rw [if_pos hi, if_neg (fun e => hj (e.symm.trans hi)), if_neg hj]
    · rw [if_neg hi, if_neg hj]
      exact vget_vput (k := 3) c.p i j x

/-- Reading a mask after a write (R40). -/
theorem cluster_rm_wm (c : Cluster) (i j : BitVec 3) (x : Mask) :
    (c.wm i x).rm j = if j = 0 then BitVec.allOnes 2048 else if i = j then x else c.rm j := by
  unfold Cluster.rm Cluster.wm
  by_cases hj : j = 0
  · rw [if_pos hj, if_pos hj]
  · rw [if_neg hj, if_neg hj]
    by_cases hi : i = 0
    · rw [if_pos hi, if_neg (fun e => hj (e.symm.trans hi)), if_neg hj]
    · rw [if_neg hi, if_neg hj]
      exact vget_vput (k := 3) c.m i j x

@[simp] theorem cluster_setCluster (r : Regs) (k j : Cl) (c : Cluster) :
    (r.setCluster k c).cluster j = if k = j then c else r.cluster j := by
  by_cases h : k = j
  · subst h; simp [Regs.cluster, Regs.setCluster]
  · have : k.val ≠ j.val := fun e => h (Fin.ext e)
    simp [Regs.cluster, Regs.setCluster, h, this]

/-- A scalar register of a cluster after a write in a cluster (R40, R41). -/
theorem setS_rs (r : Regs) (k j : Cl) (d i : BitVec 5) (x : Dword) :
    ((r.setS k d x).cluster j).rs i = if i = 0 then 0 else if k = j ∧ d = i then x else (r.cluster j).rs i := by
  unfold Regs.setS
  rw [cluster_setCluster]
  by_cases h : k = j
  · subst h; rw [if_pos rfl, cluster_rs_ws]; simp
  · rw [if_neg h, if_neg (c := k = j ∧ d = i) (fun e => h e.1)]
    by_cases hi : i = 0
    · subst hi; rw [if_pos rfl]; exact cluster_rs_zero _
    · rw [if_neg hi]

@[simp] theorem ra_wa (r : Regs) (i j : BitVec 4) (x : Dword) : (r.wa i x).ra j = if i = j then x else r.ra j :=
  vget_vput (k := 4) r.a i j x

@[simp] theorem rh_wh (r : Regs) (i j : BitVec 4) (x : Handle) : (r.wh i x).rh j = if i = j then x else r.rh j :=
  vget_vput (k := 4) r.h i j x

@[simp] theorem rac_wac (r : Regs) (i j : BitVec 6) (x : ArrivalCounter) : (r.wac i x).rac j = if i = j then x else r.rac j :=
  vget_vput (k := 6) r.ac i j x

@[simp] theorem rt_wt (r : Regs) (i j : BitVec 8) (x : TileEntry) : (r.wt i x).rt j = if i = j then x else r.rt j :=
  vget_vput (k := 8) r.t i j x

@[simp] theorem rq_wq (r : Regs) (i j : BitVec 3) (x : RingEntry) : (r.wq i x).rq j = if i = j then x else r.rq j :=
  vget_vput (k := 3) r.q i j x

@[simp] theorem rg_wg (r : Regs) (i j : BitVec 5) (x : GroupSlot) : (r.wg i x).rg j = if i = j then x else r.rg j :=
  vget_vput (k := 5) r.g i j x

end Sys2Proof.Laws
end

