-- ==== Sys2Proof/Laws/Cycle.lean ====
section
/-! SUPPORT. The end of a cycle, said once: what it leaves, and that it is one cycle later. -/

namespace Sys2Proof
open Sys2Proof.Machine

theorem Kept.refl (s : State) : Kept s s := by constructor <;> rfl

theorem Kept.trans {s t u : State} (h : Kept s t) (k : Kept t u) : Kept s u := by
  constructor
  · exact k.regs.trans h.regs
  · exact k.z.trans h.z
  · exact k.group.trans h.group
  · exact k.panel.trans h.panel
  · exact k.slot.trans h.slot
  · exact k.iss.trans h.iss
  · exact k.landed.trans h.landed
  · exact k.backs.trans h.backs
  · exact k.offEnd.trans h.offEnd
  · exact k.loose.trans h.loose
  · exact k.ists.trans h.ists
  · exact k.lbuf.trans h.lbuf
  · exact k.queues.trans h.queues
  · exact k.spool.trans h.spool
  · exact k.status.trans h.status
  · exact k.rewind.trans h.rewind
  · exact k.sys.trans h.sys
  · exact k.hold.trans h.hold
  · exact k.imem.trans h.imem
  · exact k.pend.trans h.pend

/-- A fold of steps that keep a state keeps it. -/
theorem Kept.foldl {α β : Type} (g : β → State) (f : β → α → β) (h : ∀ b a, Kept (g b) (g (f b a))) (l : List α) (b : β) :
    Kept (g b) (g (l.foldl f b)) := by
  induction l generalizing b with
  | nil => exact Kept.refl _
  | cons a r ih => exact (h b a).trans (ih _)

end Sys2Proof

namespace Sys2Proof.Laws
open Sys2Proof.Machine

theorem count_kept (s : State) (n : Nat) : Kept s (s.count n) := by
  constructor <;> rfl

/-- What commands under way have written by now reaches memory. -/
theorem flow_kept (s : State) : Kept s s.flow := by
  unfold State.flow
  split
  · exact Kept.refl _
  · constructor <;> rfl

/-- With no command and no delivery under way there is nothing that flows. -/
theorem flow_idle {s : State} (hr : s.running = []) (ha : s.arriving = []) : s.flow = s := by
  simp [State.flow, hr, ha]

theorem engineStore_kept (s : State) (l : List (List Host.Cell)) (p : List Nat) : Kept s (s.engineStore l p) := by
  have h : Kept s (if mergeFails s.mem l then s.count 199 else s) := by
    split
    · exact count_kept _ _
    · exact Kept.refl _
  refine (h.trans (flow_kept _)).trans ?_
  constructor <;> rfl

theorem settleAtomic_kept (s : State) (f : Flight) : Kept s (settleAtomic s f).1 := by
  unfold settleAtomic
  dsimp only
  split
  · exact Kept.refl _
  · exact engineStore_kept _ _ _

theorem sampleStep_kept (x : Sampling) (f : Flight) : Kept x.s (sampleStep x f).s := by
  unfold sampleStep
  have h : (if f.iss = x.iss then x else { x with base := x.s, iss := f.iss }).s = x.s := by split <;> rfl
  revert h
  generalize (if f.iss = x.iss then x else { x with base := x.s, iss := f.iss }) = y
  intro h
  rw [← h]
  dsimp only
  split
  · exact Kept.refl _
  · split
    · exact Kept.refl _
    · split
      · exact settleAtomic_kept _ _
      · exact Kept.refl _

theorem sampleVaults_kept (s : State) : Kept s s.sampleVaults := by
  have h := Kept.foldl Sampling.s sampleStep sampleStep_kept s.core.flights { s := s, base := s, iss := 0, out := [], shut := [] }
  refine Kept.trans h ?_
  constructor <;> rfl

theorem sendPart_kept (s : State) : Kept s s.sendPart := by
  unfold State.sendPart
  dsimp only
  repeat' split
  all_goals first | exact Kept.refl _ | (constructor <;> rfl)

theorem readReg_kept (s : State) (w : Writer) (off n : Nat) : Kept s (s.readReg w off n).1 := by
  unfold State.readReg
  dsimp only
  split
  · exact Kept.refl _
  · exact count_kept _ _

/-- What the lining reads changes nothing of the core: a read that region 6 refuses is counted. -/
theorem liningBytes_kept (s : State) (acc : List Access) : Kept s (s.liningBytes acc).1 := by
  refine Kept.foldl (fun x : State × List Byte => x.1) _ ?_ acc (s, [])
  intro b a
  dsimp only
  split
  · exact readReg_kept _ _ _ _
  · exact Kept.refl _
  · exact Kept.refl _

theorem readBefore_kept (s : State) (g : Gate) : Kept s (s.readBefore g) := by
  refine Kept.foldl id _ ?_ s.lin.flights s
  intro b f
  simp only [id]
  split
  · split
    · rename_i acc _
      refine (liningBytes_kept b acc).trans ?_
      constructor <;> rfl
    · exact Kept.refl _
  · exact Kept.refl _

theorem performLining_kept (s : State) (g : Gate) : Kept s (s.performLining g) := by
  unfold State.performLining
  split
  · exact Kept.refl _
  · dsimp only
    split
    · split
      · constructor <;> rfl
      · exact count_kept _ _
    · split
      · exact Kept.refl _
      · split
        · exact engineStore_kept _ _ _
        · constructor <;> rfl
    · exact engineStore_kept _ _ _

theorem liningStep_kept (x : State × List Gate) (g : Gate) : Kept x.1 (liningStep x g).1 := by
  have key : ∀ waits : Bool, Kept x.1
      (if x.1.clock < g.local_ || waits || x.1.storesRoutine then (x.1, x.2 ++ [g]) else ((x.1.readBefore g).performLining g, x.2)).1 := by
    intro waits
    split
    · exact Kept.refl _
    · exact (readBefore_kept _ _).trans (performLining_kept _ _)
  exact key _

theorem performLiningStores_kept (s : State) : Kept s s.performLiningStores := by
  have h := Kept.foldl (fun x : State × List Gate => x.1) liningStep liningStep_kept s.lin.stores (s, [])
  refine Kept.trans h ?_
  constructor <;> rfl

theorem tick_kept (s : State) : Kept s s.tick := by constructor <;> rfl

/-- The end of a cycle leaves the core and its control as they are. -/
theorem endCycle_kept (s : State) : Kept s s.endCycle := by
  have h := (((sampleVaults_kept s).trans (sendPart_kept _)).trans (performLiningStores_kept _)).trans (tick_kept _)
  refine Kept.trans h ?_
  constructor <;> rfl

/-- The next cycle is the main context's. -/
@[simp] theorem endCycle_ctx (s : State) : s.endCycle.ctx = .main := rfl

end Sys2Proof.Laws
end

