-- ==== Sys2Proof/Laws/Frame.lean ====
section
/-! SUPPORT. The frame of slot operations: one lemma for each operation that meanings share, saying that it leaves the
state standing but for results on their way, the bundle's record and what its operands claim. -/

set_option linter.all false

namespace Sys2Proof.Machine

/-- What a slot operation of the main context before slot 3 leaves as it was. -/
structure StandsRegs (s t : State) : Prop where
  ctx : t.ctx = .main
  regs : t.core.regs = { s.core.regs with q := t.core.regs.q, t := t.core.regs.t, g := t.core.regs.g, mbc := t.core.regs.mbc, xarr := t.core.regs.xarr, xwidth := t.core.regs.xwidth }
  sys : t.sys = { s.sys with cut := t.sys.cut, handleinfo := t.sys.handleinfo }
  z : t.core.z = s.core.z
  slot : t.core.slot = s.core.slot
  mem : t.mem = s.mem
  drains : t.drains = s.drains
  imem : t.imem = s.imem
  status : t.status = s.status
  lin : t.lin = s.lin
  clock : t.clock = s.clock
  run : t.run = s.run
  ptime : t.ptime = s.ptime
  running : t.running = s.running
  clause : t.clause = s.clause
  reg6 : t.reg6 = s.reg6
  fe : t.fe = s.fe
  boot : t.boot = s.boot
  outs : t.outs = s.outs

/-- As StandsRegs, and the open panel (R155). -/
structure Stands (s t : State) : Prop extends StandsRegs s t where
  panel : t.core.panel = s.core.panel

variable {s u : State}

theorem Stands.refl (h : s.ctx = .main) : Stands s s := by constructor; constructor; all_goals first | exact h | rfl

theorem Stands.setIss (h : Stands s u) (i) : Stands s (u.setIss i) := by
  obtain ⟨⟨c, _⟩, _⟩ := h; unfold State.setIss; rw [c]; constructor; constructor; all_goals (first | assumption | (dsimp only at *; done) | (dsimp only at *; assumption) | rfl)

theorem Stands.emit (h : Stands s u) (a b c d) : Stands s (u.emit a b c d) := by
  obtain ⟨⟨c, _⟩, _⟩ := h; unfold State.emit; rw [c]; constructor; constructor; all_goals (first | assumption | (dsimp only at *; done) | (dsimp only at *; assumption) | rfl)

theorem Stands.markLive (h : Stands s u) : Stands s u.markLive := Stands.setIss h _

theorem Stands.holdOn (h : Stands s u) (c) : Stands s (u.holdOn c) := Stands.setIss h _

theorem Stands.holdIf (h : Stands s u) (b c) : Stands s (Machine.holdIf b c u) := by unfold Machine.holdIf; split; exact Stands.holdOn h _; exact h

theorem Stands.trapCoded (h : Stands s u) (c d e) : Stands s (u.trapCoded c d e) := Stands.setIss h _

theorem Stands.trapOn (h : Stands s u) (c d) : Stands s (u.trapOn c d) := Stands.setIss h _

theorem Stands.illegalOperand (h : Stands s u) (c) : Stands s (u.illegalOperand c) := Stands.setIss h _

theorem Stands.illegalTarget (h : Stands s u) (c) : Stands s (u.illegalTarget c) := Stands.setIss h _

theorem Stands.triggerHere (h : Stands s u) (a b c d) : Stands s (u.triggerHere a b c d) := Stands.setIss h _

theorem Stands.noteSum (h : Stands s u) (a b) : Stands s (u.noteSum a b) := Stands.setIss h _

theorem Stands.flowTo (h : Stands s u) (a) : Stands s (u.flowTo a) := Stands.setIss h _

theorem Stands.pageFault (h : Stands s u) (a) : Stands s (u.pageFault a) := Stands.setIss h _

theorem Stands.handleFault (h : Stands s u) (a b c d e) : Stands s (u.handleFault a b c d e) := Stands.setIss h _

theorem Stands.gate (h : Stands s u) (a b) : Stands s (u.gate a b) := Stands.setIss h _

theorem Stands.stopWith (h : Stands s u) (a) : Stands s (u.stopWith a) := Stands.setIss h _

theorem Stands.jumpTo (h : Stands s u) (a) : Stands s (u.jumpTo a) := by unfold State.jumpTo; split; exact Stands.flowTo h _; exact Stands.illegalTarget h _

theorem Stands.multicast (h : Stands s u) (a b) : Stands s (u.multicast a b) := by
  obtain ⟨⟨c, _⟩, _⟩ := h; constructor; constructor; all_goals (first | assumption | (dsimp only at *; done) | (dsimp only at *; assumption) | rfl)

theorem Stands.noteSums (h : Stands s u) (a b n) (l : List (Nat × Nat)) : Stands s (u.noteSums a b n l) := by
  unfold State.noteSums
  induction l generalizing u with
  | nil => exact h
  | cons x r ih => exact ih (Stands.noteSum h _ _)

theorem Stands.checkAccess (h : Stands s u) (a b c d e f g i) (j : Bool) : Stands s (u.checkAccess a b c d e f g i j).1 := by
  unfold State.checkAccess
  split
  · exact Stands.illegalOperand h _
  · split
    · exact Stands.handleFault h _ _ _ _ _
    · split
      · exact Stands.illegalOperand h _
      · exact Stands.noteSums h _ _ _ _

theorem Stands.sendLoad (h : Stands s u) (a b c d e) : Stands s (u.sendLoad a b c d e) := Stands.emit h _ _ _ _

theorem Stands.sendStore (h : Stands s u) (a b c) : Stands s (u.sendStore a b c) := by
  unfold State.sendStore
  split
  · split; exact Stands.holdOn h _; exact Stands.multicast h _ _
  · have : u.isMain = true := by simp [State.isMain, h.ctx]
    simp [this]; exact Stands.gate h _ _

theorem Stands.command (h : Stands s u) (a b c) : Stands s (u.command a b c) := by
  unfold State.command
  simp only []
  split
  · exact Stands.holdOn h _
  · obtain ⟨⟨c, _⟩, _⟩ := h; cases hop : CmdOp.engine _ <;> (constructor; constructor; all_goals (first | assumption | (dsimp only at *; done) | (dsimp only at *; assumption) | rfl))

theorem Stands.setRegs (h : Stands s u) (f : Regs) (hf : f = { u.core.regs with q := f.q, t := f.t, g := f.g, mbc := f.mbc, xarr := f.xarr, xwidth := f.xwidth }) :
    Stands s ({ u with core := { u.core with regs := f } } : State) := by
  obtain ⟨⟨c, hr, _⟩, _⟩ := h
  constructor; constructor
  case toStandsRegs.regs =>
    show f = _
    have : ∀ q t g m x w, ({ u.core.regs with q := q, t := t, g := g, mbc := m, xarr := x, xwidth := w } : Regs) = { s.core.regs with q := q, t := t, g := g, mbc := m, xarr := x, xwidth := w } := by
      intros; rw [hr]
    rw [← this]; exact hf
  all_goals (first | assumption | (dsimp only at *; done) | (dsimp only at *; assumption) | rfl)

theorem Stands.claimRead (h : Stands s u) (a) : Stands s (u.claimRead a) := by
  unfold State.claimRead
  split
  · exact Stands.illegalOperand h _
  · simp only []
    have := Stands.holdIf (Stands.holdIf h (u.wb (u.readTile a)) 3) ((State.tile (Machine.holdIf (u.wb (u.readTile a)) 3 u) (u.readTile a)).state != 2) 2
    split
    · exact Stands.setRegs (Stands.holdIf (Stands.holdIf h _ _) _ _) _ rfl
    · exact Stands.holdIf (Stands.holdIf h _ _) _ _

theorem Stands.claimWrite (h : Stands s u) (a) : Stands s (u.claimWrite a) := by
  unfold State.claimWrite
  split
  · exact Stands.illegalOperand h _
  · simp only []
    split
    · exact Stands.setRegs (Stands.holdIf (Stands.holdIf h _ _) _ _) _ rfl
    · exact Stands.holdIf (Stands.holdIf h _ _) _ _

theorem Stands.holdWrite (h : Stands s u) (a) : Stands s (u.holdWrite a) := Stands.holdIf (Stands.holdIf h _ _) _ _

theorem Stands.holdRead (h : Stands s u) (a) : Stands s (u.holdRead a) := Stands.holdIf (Stands.holdIf h _ _) _ _

theorem Stands.reserveSpool (h : Stands s u) (a b) : Stands s (u.reserveSpool a b) := by
  unfold State.reserveSpool
  split
  · exact Stands.holdOn h _
  · obtain ⟨⟨c, _⟩, _⟩ := h; constructor; constructor; all_goals (first | assumption | (dsimp only at *; done) | (dsimp only at *; assumption) | rfl)

theorem Stands.claimSpool (h : Stands s u) (a b) : Stands s (u.claimSpool a b) := by
  obtain ⟨⟨c, _⟩, _⟩ := h; constructor; constructor; all_goals (first | assumption | (dsimp only at *; done) | (dsimp only at *; assumption) | rfl)

theorem Stands.ite (c : Prop) [Decidable c] {a b : State} (h : Stands s a) (k : Stands s b) : Stands s (if c then a else b) := by split <;> assumption

theorem Stands.guarded (h : Stands s u) (p) (f : State → State) (k : ∀ v, Stands s v → Stands s (f v)) : Stands s (u.guarded p f) := by
  unfold State.guarded; split; exact k _ (Stands.markLive h); exact h

theorem Stands.retire {f : State → State} {t} (hs : s.core.slot.val < 3) (h : Stands s (f s)) (e : slotOp s f = .next t) : Stands s { t with core := { t.core with slot := s.core.slot } } ∧ t.core.slot = s.core.slot + 1 := by
  simp only [slotOp, Host.Outcome.next.injEq] at e
  subst e
  unfold State.retire
  rw [h.ctx]
  simp only [h.slot, hs, if_true]
  obtain ⟨⟨c, _⟩, _⟩ := h
  refine ⟨?_, trivial⟩; constructor; constructor; all_goals (first | assumption | (dsimp only at *; done) | (dsimp only at *; assumption) | rfl)

theorem Stands.askWalk (h : Stands s u) (a) : Stands s (u.askWalk a) := by
  unfold State.askWalk
  dsimp only
  split
  · exact h
  · obtain ⟨⟨c, _⟩, _⟩ := h; constructor; constructor; all_goals (first | assumption | (dsimp only at *; done) | (dsimp only at *; assumption) | rfl)

theorem Stands.setXlate (h : Stands s u) (x) : Stands s ({ u with xlate := x } : State) := by
  obtain ⟨⟨c, _⟩, _⟩ := h; constructor; constructor; all_goals (first | assumption | (dsimp only at *; done) | (dsimp only at *; assumption) | rfl)

theorem Stands.setHandleinfo (h : Stands s u) (x : Dword) : Stands s ({ u with sys := { u.sys with handleinfo := x } } : State) := by
  obtain ⟨⟨c, hr, hsys, _⟩, _⟩ := h; constructor; constructor
  case toStandsRegs.sys => dsimp only; rw [hsys]
  all_goals (first | assumption | (dsimp only at *; done) | (dsimp only at *; assumption) | rfl)

theorem Stands.lookup (h : Stands s u) (a b) : Stands s (u.lookup a b).1 := by
  unfold State.lookup
  dsimp only
  split
  · exact h
  · exact Stands.setXlate h _

theorem Stands.waitOn (h : Stands s u) (a b c d) : Stands s (u.waitOn a b c d) := by
  unfold State.waitOn
  simp only []
  split
  · exact Stands.holdOn h _
  · refine Stands.holdOn ?_ _
    obtain ⟨⟨c, _⟩, _⟩ := h; constructor; constructor; all_goals (first | assumption | (dsimp only at *; done) | (dsimp only at *; assumption) | rfl)

theorem Stands.setIsts (h : Stands s u) (a b) : Stands s ({ u with core := { u.core with ists := a, loose := b } } : State) := by
  obtain ⟨⟨c, _⟩, _⟩ := h; constructor; constructor; all_goals (first | assumption | (dsimp only at *; done) | (dsimp only at *; assumption) | rfl)

theorem Stands.isMain (h : Stands s u) : u.isMain = true := by simp [State.isMain, h.ctx]

end Sys2Proof.Machine
end

