-- ==== Sys2Proof/Laws/Operands.lean ====
section
/-! SUPPORT. The values of scalar operations as operations on bit vectors (R86 to R92). -/

namespace Sys2Proof.Laws
open Sys2Proof.Machine

/-- The low 32 bits of a doubleword (R86). -/
theorem low32 (x : Dword) : x.extractLsb' 0 32 = x.setWidth 32 := by
  apply BitVec.eq_of_toNat_eq; simp

theorem aluResult_zero (f : Member) (x y : Dword) :
    aluResult f 0 x y = BitVec.ofInt 64 (f 64 x.toNat y.toNat x.toInt y.toInt) := rfl

theorem aluResult_one (f : Member) (x y : Dword) :
    aluResult f 1 x y = (BitVec.ofInt 32 (f 32 (x.setWidth 32 : Word).toNat (y.setWidth 32 : Word).toNat
      (x.setWidth 32 : Word).toInt (y.setWidth 32 : Word).toInt)).signExtend 64 := by
  simp only [← low32]; rfl

theorem ofInt_natCast (n m : Nat) : BitVec.ofInt n (m : Int) = BitVec.ofNat n m := by
  apply BitVec.eq_of_toNat_eq; simp

theorem ofInt_neg_one (n : Nat) : BitVec.ofInt n (-1) = BitVec.allOnes n := by
  apply BitVec.eq_of_toNat_eq
  have h : (0 : Int) < 2 ^ n := by positivity
  have e : (-1 : Int) % 2 ^ n = 2 ^ n - 1 := by
    rw [← Int.add_mul_emod_self_left (-1) (2 ^ n) 1, Int.emod_eq_of_lt (by omega) (by omega)]
    ring
  have k := Nat.one_le_two_pow (n := n)
  simp only [BitVec.toNat_ofInt, BitVec.toNat_allOnes]
  push_cast
  rw [e]
  zify [k]
  exact Int.toNat_of_nonneg (by omega)

variable {n : Nat} (x y : BitVec n)

/-! Each member at the width of its operands. -/

theorem memAdd_eq : BitVec.ofInt n (memAdd n x.toNat y.toNat x.toInt y.toInt) = x + y := by
  simp [memAdd, BitVec.ofInt_add]

theorem memSub_eq : BitVec.ofInt n (memSub n x.toNat y.toNat x.toInt y.toInt) = x - y := by
  apply BitVec.eq_of_toInt_eq; simp [memSub, BitVec.toInt_sub]

theorem memMul_eq : BitVec.ofInt n (memMul n x.toNat y.toNat x.toInt y.toInt) = x * y := by
  simp [memMul, BitVec.ofInt_mul]

theorem memAnd_eq : BitVec.ofInt n (memAnd n x.toNat y.toNat x.toInt y.toInt) = x &&& y := by
  rw [memAnd, ofInt_natCast]; apply BitVec.eq_of_toNat_eq; simp

theorem memOr_eq : BitVec.ofInt n (memOr n x.toNat y.toNat x.toInt y.toInt) = x ||| y := by
  rw [memOr, ofInt_natCast]; apply BitVec.eq_of_toNat_eq; simp

theorem memXor_eq : BitVec.ofInt n (memXor n x.toNat y.toNat x.toInt y.toInt) = x ^^^ y := by
  rw [memXor, ofInt_natCast]; apply BitVec.eq_of_toNat_eq; simp

theorem memMulh_eq {m : Nat} (hm : m = n + n) : BitVec.ofInt n (memMulh n x.toNat y.toNat x.toInt y.toInt) =
    (x.signExtend m * y.signExtend m).extractLsb' n n := by
  subst hm
  have hx : (x.signExtend (n + n)).toInt = x.toInt := by rw [BitVec.toInt_signExtend_of_le (by omega)]
  have hy : (y.signExtend (n + n)).toInt = y.toInt := by rw [BitVec.toInt_signExtend_of_le (by omega)]
  have hp : x.signExtend (n + n) * y.signExtend (n + n) = BitVec.ofInt (n + n) (x.toInt * y.toInt) := by
    rw [BitVec.ofInt_mul, ← hx, ← hy, BitVec.ofInt_toInt, BitVec.ofInt_toInt]
  have hN : (0 : Int) < 2 ^ n := by positivity
  rw [hp, memMulh, Int.fdiv_eq_ediv_of_nonneg _ hN.le]
  generalize x.toInt * y.toInt = z
  apply BitVec.eq_of_toNat_eq
  have hz : ((z % 2 ^ (n + n)).toNat : Int) = z % 2 ^ (n + n) := Int.toNat_of_nonneg (Int.emod_nonneg _ (by positivity))
  have h1 : z % 2 ^ (n + n) / 2 ^ n = z / 2 ^ n % 2 ^ n := by
    have e := Int.emod_add_mul_ediv z (2 ^ (n + n))
    have e2 : z = z % 2 ^ (n + n) + 2 ^ n * (2 ^ n * (z / 2 ^ (n + n))) := by rw [← mul_assoc, ← pow_add]; exact e.symm
    have e3 : z / 2 ^ n = z % 2 ^ (n + n) / 2 ^ n + 2 ^ n * (z / 2 ^ (n + n)) := by
      conv_lhs => rw [e2, Int.add_mul_ediv_left _ _ hN.ne']
    rw [e3, Int.add_mul_emod_self_left, eq_comm]
    apply Int.emod_eq_of_lt
    · exact Int.ediv_nonneg (Int.emod_nonneg _ (by positivity)) hN.le
    · apply Int.ediv_lt_of_lt_mul hN
      rw [← pow_add]; exact Int.emod_lt_of_pos _ (by positivity)
  have h2 : ((z % 2 ^ (n + n)).toNat / 2 ^ n : Int) % 2 ^ n = z / 2 ^ n % 2 ^ n := by
    rw [hz, h1, Int.emod_emod_of_dvd _ (dvd_refl _)]
  zify
  simp only [BitVec.extractLsb'_toNat, Nat.shiftRight_eq_div_pow, BitVec.toNat_ofInt]
  push_cast
  rw [← h2, Int.toNat_of_nonneg (Int.emod_nonneg _ (by positivity)), Int.toNat_of_nonneg (Int.emod_nonneg _ (by positivity))]

theorem memMulhn_eq {m : Nat} (hm : m = n + n) : BitVec.ofInt n (memMulhn n x.toNat y.toNat x.toInt y.toInt) =
    (x.setWidth m * y.setWidth m).extractLsb' n n := by
  subst hm
  rw [memMulhn, ofInt_natCast]; apply BitVec.eq_of_toNat_eq
  have hx := x.isLt
  have hy := y.isLt
  have h1 : x.toNat % 2 ^ (n + n) = x.toNat := Nat.mod_eq_of_lt (by rw [Nat.pow_add]; nlinarith)
  have h2 : y.toNat % 2 ^ (n + n) = y.toNat := Nat.mod_eq_of_lt (by rw [Nat.pow_add]; nlinarith)
  have h3 : x.toNat * y.toNat % 2 ^ (n + n) = x.toNat * y.toNat := Nat.mod_eq_of_lt (by rw [Nat.pow_add]; nlinarith)
  simp [BitVec.extractLsb'_toNat, BitVec.toNat_mul, h1, h2, h3, Nat.shiftRight_eq_div_pow]

theorem memDiv_eq (hn : 0 < n) : BitVec.ofInt n (memDiv n x.toNat y.toNat x.toInt y.toInt) =
    if y = 0 then BitVec.allOnes n else x.sdiv y := by
  by_cases h : y = 0
  · subst h
    simpa [memDiv] using ofInt_neg_one n
  · have h0 : y.toInt ≠ 0 := fun e => h (BitVec.eq_of_toInt_eq (by simpa using e))
    rw [memDiv, if_neg h0, if_neg h]
    apply BitVec.eq_of_toInt_eq
    rw [BitVec.toInt_sdiv]
    split
    · rename_i e
      obtain ⟨e1, e2⟩ := e
      have : (2 : Int) ^ n = 2 ^ (n - 1) + 2 ^ (n - 1) := by
        obtain ⟨m, rfl⟩ : ∃ m, n = m + 1 := ⟨n - 1, by omega⟩
        simp [pow_succ]; ring
      rw [e1, e2, BitVec.toInt_ofInt]
      have := Int.add_bmod_right (-2 ^ (n - 1)) (2 ^ n)
      rw [← this]
      congr 1
      simp
      omega
    · rw [BitVec.toInt_ofInt]

theorem memDivn_eq : BitVec.ofInt n (memDivn n x.toNat y.toNat x.toInt y.toInt) =
    if y = 0 then BitVec.allOnes n else x / y := by
  by_cases h : y = 0
  · subst h
    rw [← ofInt_neg_one]
    apply BitVec.eq_of_toInt_eq
    have := Int.add_bmod_right (-1) (2 ^ n)
    rw [if_pos rfl, BitVec.toInt_ofInt, BitVec.toInt_ofInt, ← this]
    congr 1
  · have h0 : y.toNat ≠ 0 := fun e => h (BitVec.eq_of_toNat_eq (by simpa using e))
    rw [memDivn, if_neg h0, if_neg h, ofInt_natCast]; apply BitVec.eq_of_toNat_eq
    simp [Nat.mod_eq_of_lt (lt_of_le_of_lt (Nat.div_le_self x.toNat y.toNat) x.isLt)]

theorem memRem_eq : BitVec.ofInt n (memRem n x.toNat y.toNat x.toInt y.toInt) = if y = 0 then x else x.srem y := by
  by_cases h : y = 0
  · subst h; simp [memRem]
  · have h0 : y.toInt ≠ 0 := fun e => h (BitVec.eq_of_toInt_eq (by simpa using e))
    rw [memRem, if_neg h0, if_neg h, ← BitVec.ofInt_toInt (x := x.srem y), BitVec.toInt_srem]
    split
    · rename_i e
      obtain ⟨e1, e2⟩ := e
      simp [e2]
    · congr 1
      have := Int.mul_tdiv_add_tmod x.toInt y.toInt
      omega

theorem memRemn_eq : BitVec.ofInt n (memRemn n x.toNat y.toNat x.toInt y.toInt) = if y = 0 then x else x % y := by
  by_cases h : y = 0
  · subst h; simp [memRemn]
  · have h0 : y.toNat ≠ 0 := fun e => h (BitVec.eq_of_toNat_eq (by simpa using e))
    rw [memRemn, if_neg h0, if_neg h, ofInt_natCast]; apply BitVec.eq_of_toNat_eq
    have h1 : x.toNat - y.toNat * (x.toNat / y.toNat) = x.toNat % y.toNat := by
      have := Nat.div_add_mod x.toNat y.toNat; omega
    rw [h1]; simp [Nat.mod_eq_of_lt (lt_of_le_of_lt (Nat.mod_le x.toNat y.toNat) x.isLt)]

theorem memShl_eq : BitVec.ofInt n (memShl n x.toNat y.toNat x.toInt y.toInt) = x <<< (y.toNat % n) := by
  rw [memShl, ofInt_natCast]; apply BitVec.eq_of_toNat_eq; simp [shiftCount, Nat.shiftLeft_eq]

theorem memShr_eq : BitVec.ofInt n (memShr n x.toNat y.toNat x.toInt y.toInt) = x >>> (y.toNat % n) := by
  rw [memShr, ofInt_natCast]; apply BitVec.eq_of_toNat_eq
  have h := lt_of_le_of_lt (Nat.div_le_self x.toNat (2 ^ (y.toNat % n))) x.isLt
  simp [shiftCount, Nat.shiftRight_eq_div_pow, Nat.mod_eq_of_lt h]

theorem memSar_eq : BitVec.ofInt n (memSar n x.toNat y.toNat x.toInt y.toInt) = x.sshiftRight (y.toNat % n) := by
  rw [← BitVec.ofInt_toInt (x := x.sshiftRight (y.toNat % n)), BitVec.toInt_sshiftRight, Int.shiftRight_eq_div_pow]
  simp [memSar, shiftCount, Int.fdiv_eq_ediv_of_nonneg]

theorem memMin_eq : BitVec.ofInt n (memMin n x.toNat y.toNat x.toInt y.toInt) = if x.sle y then x else y := by
  simp only [memMin, BitVec.sle_iff_toInt_le]; split <;> simp

theorem memMax_eq : BitVec.ofInt n (memMax n x.toNat y.toNat x.toInt y.toInt) = if y.sle x then x else y := by
  simp only [memMax, BitVec.sle_iff_toInt_le]; split <;> simp

theorem memMinn_eq : BitVec.ofInt n (memMinn n x.toNat y.toNat x.toInt y.toInt) = if x.ule y then x else y := by
  rw [memMinn, ofInt_natCast]; simp only [BitVec.ule_iff_toNat_le]; split <;> simp

theorem memMaxn_eq : BitVec.ofInt n (memMaxn n x.toNat y.toNat x.toInt y.toInt) = if y.ule x then x else y := by
  rw [memMaxn, ofInt_natCast]; simp only [BitVec.ule_iff_toNat_le]; split <;> simp

/-! Bits (R90). -/

theorem getLsbD_nat (j : Nat) : x.getLsbD j = decide (x.toNat / 2 ^ j % 2 = 1) := by
  rw [BitVec.getLsbD, Nat.testBit_eq_decide_div_mod_eq]

theorem sextLow_eq (k : Nat) (v : Dword) : sextLow k v = (v.setWidth k).signExtend 64 := by
  simp [sextLow]

theorem zextLow_eq (k : Nat) (v : Dword) : zextLow k v = (v.setWidth k).setWidth 64 := by
  apply BitVec.eq_of_toNat_eq; simp [zextLow]

theorem clzAux_eq (k : Nat) (h : k < n) : x.clzAuxRec k = BitVec.ofNat n (clzNat (k + 1) x.toNat + (n - 1 - k)) := by
  induction k with
  | zero =>
    rw [BitVec.clzAuxRec_zero, getLsbD_nat]
    simp only [clzNat]
    by_cases e : x.toNat / 2 ^ 0 % 2 = 1
    · rw [if_pos (by simpa using e), if_pos e]; simp
    · rw [if_neg (by simpa using e), if_neg e]; congr 1; omega
  | succ k ih =>
    rw [BitVec.clzAuxRec_succ, ih (by omega), getLsbD_nat]
    conv_rhs => rw [clzNat]
    by_cases e : x.toNat / 2 ^ (k + 1) % 2 = 1
    · rw [if_pos (by simpa using e), if_pos e]; simp
    · rw [if_neg (by simpa using e), if_neg e]; congr 1; omega

theorem clzNat_eq (h : 0 < n) : BitVec.ofNat n (clzNat n x.toNat) = x.clz := by
  have := clzAux_eq x (n - 1) (by omega)
  rw [BitVec.clz, this, show n - 1 + 1 = n by omega]
  simp

theorem clz_reverse (k : Nat) (h : k ≤ n) : clzNat k x.reverse.toNat = ctzNat k (x.toNat / 2 ^ (n - k)) := by
  induction k with
  | zero => rfl
  | succ k ih =>
    have e : n - k = n - (k + 1) + 1 := by omega
    have e1 : x.toNat / 2 ^ (n - (k + 1)) / 2 = x.toNat / 2 ^ (n - k) := by rw [Nat.div_div_eq_div_mul, ← pow_succ, ← e]
    have e2 : (x.reverse.toNat / 2 ^ k % 2 = 1) = (x.toNat / 2 ^ (n - (k + 1)) % 2 = 1) := by
      have := getLsbD_nat x.reverse k
      rw [BitVec.getLsbD_reverse, BitVec.getMsbD_eq_getLsbD, getLsbD_nat] at this
      have h1 : n - 1 - k = n - (k + 1) := by omega
      rw [h1] at this
      simp [show k < n by omega] at this
      simpa using this.symm
    simp only [clzNat, ctzNat, e1, e2, ih (by omega)]

theorem ctzNat_eq (h : 0 < n) : BitVec.ofNat n (ctzNat n x.toNat) = x.ctz := by
  rw [BitVec.ctz, ← clzNat_eq _ h, clz_reverse x n (le_refl n)]
  simp

theorem popNat_eq (k v : Nat) : popNat k v = ∑ j ∈ Finset.range k, v / 2 ^ j % 2 := by
  induction k generalizing v with
  | zero => rfl
  | succ k ih =>
    rw [popNat, ih, Finset.sum_range_succ', add_comm]
    simp [Nat.div_div_eq_div_mul, pow_succ, mul_comm]

theorem cpopNatRec_eq (k acc : Nat) : x.cpopNatRec k acc = acc + ∑ j ∈ Finset.range k, x.toNat / 2 ^ j % 2 := by
  induction k generalizing acc with
  | zero => simp
  | succ k ih =>
    rw [BitVec.cpopNatRec_succ, ih, Finset.sum_range_succ, getLsbD_nat]
    rcases Nat.mod_two_eq_zero_or_one (x.toNat / 2 ^ k) with e | e <;> simp [e]
    omega

theorem popNat_cpop : BitVec.ofNat n (popNat n x.toNat) = x.cpop := by
  rw [BitVec.cpop, cpopNatRec_eq, popNat_eq, Nat.zero_add]

theorem crcBytes (x : Word) : (x.setWidth 64 : Dword).toNat = x.toNat := by simp; omega

/-- insertField, bit by bit. -/
theorem getLsbD_insertField (d v : Dword) (pos len j : Nat) (hj : j < 64) :
    (insertField d v pos len).getLsbD j = if pos ≤ j ∧ j < pos + len then v.getLsbD (j - pos) else d.getLsbD j := by
  have e : d.toNat = d.toNat % 2 ^ pos + 2 ^ pos * (d.toNat / 2 ^ pos % 2 ^ len + 2 ^ len * (d.toNat / 2 ^ (pos + len))) := by
    rw [pow_add, ← Nat.div_div_eq_div_mul, Nat.mod_add_div, Nat.mod_add_div]
  have e2 : d.toNat - d.toNat / 2 ^ pos % 2 ^ len * 2 ^ pos + v.toNat % 2 ^ len * 2 ^ pos =
      d.toNat % 2 ^ pos + 2 ^ pos * (v.toNat % 2 ^ len + 2 ^ len * (d.toNat / 2 ^ (pos + len))) := by
    rw [Nat.mul_add] at e
    rw [Nat.mul_add, Nat.mul_comm (d.toNat / 2 ^ pos % 2 ^ len), Nat.mul_comm (v.toNat % 2 ^ len)]
    omega
  simp only [insertField, e2, BitVec.getLsbD_ofNat, hj, decide_true, Bool.true_and]
  have l1 := Nat.mod_lt d.toNat (Nat.two_pow_pos pos)
  have l2 := Nat.mod_lt v.toNat (Nat.two_pow_pos len)
  rw [Nat.add_comm, Nat.testBit_two_pow_mul_add _ l1]
  by_cases h1 : j < pos
  · rw [if_pos h1, if_neg (by omega), Nat.testBit_mod_two_pow]; simp [h1, BitVec.getLsbD]
  · rw [if_neg h1, Nat.add_comm, Nat.testBit_two_pow_mul_add _ l2]
    by_cases h2 : j - pos < len
    · rw [if_pos h2, if_pos (by omega), Nat.testBit_mod_two_pow]; simp [h2, BitVec.getLsbD]
    · rw [if_neg h2, if_neg (by omega), Nat.testBit_div_two_pow, BitVec.getLsbD]
      congr 1; omega

/-- A comparison by its code (R91). -/
theorem compareBy_eq (c : Nat) (h : c < 6) : compareBy c x y =
    if c = 0 then decide (x = y) else if c = 1 then decide (x ≠ y) else if c = 2 then decide (x.toInt < y.toInt)
    else if c = 3 then decide (x.toInt ≤ y.toInt) else if c = 4 then decide (x.toNat < y.toNat) else decide (x.toNat ≤ y.toNat) := by
  have : c = 0 ∨ c = 1 ∨ c = 2 ∨ c = 3 ∨ c = 4 ∨ c = 5 := by omega
  rcases this with rfl | rfl | rfl | rfl | rfl | rfl <;>
    simp [compareBy, BitVec.slt, BitVec.sle, BitVec.ult, BitVec.ule, bne, beq_eq_decide]

end Sys2Proof.Laws
end

