-- ==== Sys2Proof/Laws/PerInstr.lean ====
section
/-! SUPPORT. One lemma per instruction: its word decodes to it (R15, R26, R300). -/

set_option Elab.async false

namespace Sys2Proof.Laws

theorem fld_eq {w lo n : Nat} {x : BitVec n} (h : w / 2 ^ lo % 2 ^ n = x.toNat) : fld w lo n = x := by
  apply BitVec.eq_of_toNat_eq
  simpa [fld] using h

theorem slot_of_raw {w : Nat} {i : Instr} (h0 : bits w 25 6 ≠ 0) (h1 : bits w 25 6 < 0x2A) (h : decodeRaw w = some i)
    (hw : wellFormed i = true) : decodeSlot w = .ok i := by
  have h2 : ¬ 0x2A ≤ bits w 25 6 := by omega
  simp [decodeSlot, h0, h2, h, hw]

theorem raw_01 {w : Nat} (h : bits w 25 6 = 1) : decodeRaw w = decodeMajor01 w := by simp only [decodeRaw, h]

theorem raw_02 {w : Nat} (h : bits w 25 6 = 2) : decodeRaw w = decodeMajor02 w := by simp only [decodeRaw, h]

theorem raw_03 {w : Nat} (h : bits w 25 6 = 3) : decodeRaw w = decodeMajor03 w := by simp only [decodeRaw, h]

theorem raw_04 {w : Nat} (h : bits w 25 6 = 4) : decodeRaw w = decodeMajor04 w := by simp only [decodeRaw, h]

theorem raw_05 {w : Nat} (h : bits w 25 6 = 5) : decodeRaw w = decodeMajor05 w := by simp only [decodeRaw, h]

theorem raw_06 {w : Nat} (h : bits w 25 6 = 6) : decodeRaw w = decodeMajor06 w := by simp only [decodeRaw, h]

theorem raw_07 {w : Nat} (h : bits w 25 6 = 7) : decodeRaw w = decodeMajor07 w := by simp only [decodeRaw, h]

theorem raw_08 {w : Nat} (h : bits w 25 6 = 8) : decodeRaw w = decodeMajor08 w := by simp only [decodeRaw, h]

theorem raw_09 {w : Nat} (h : bits w 25 6 = 9) : decodeRaw w = decodeMajor09 w := by simp only [decodeRaw, h]

theorem raw_0A {w : Nat} (h : bits w 25 6 = 10) : decodeRaw w = decodeMajor0A w := by simp only [decodeRaw, h]

theorem raw_0B {w : Nat} (h : bits w 25 6 = 11) : decodeRaw w = decodeMajor0B w := by simp only [decodeRaw, h]

theorem raw_0C {w : Nat} (h : bits w 25 6 = 12) : decodeRaw w = decodeMajor0C w := by simp only [decodeRaw, h]

theorem raw_0D {w : Nat} (h : bits w 25 6 = 13) : decodeRaw w = decodeMajor0D w := by simp only [decodeRaw, h]

theorem raw_0E {w : Nat} (h : bits w 25 6 = 14) : decodeRaw w = decodeMajor0E w := by simp only [decodeRaw, h]

theorem raw_0F {w : Nat} (h : bits w 25 6 = 15) : decodeRaw w = decodeMajor0F w := by simp only [decodeRaw, h]

theorem raw_10 {w : Nat} (h : bits w 25 6 = 16) : decodeRaw w = decodeMajor10 w := by simp only [decodeRaw, h]

theorem raw_11 {w : Nat} (h : bits w 25 6 = 17) : decodeRaw w = decodeMajor11 w := by simp only [decodeRaw, h]

theorem raw_12 {w : Nat} (h : bits w 25 6 = 18) : decodeRaw w = decodeMajor12 w := by simp only [decodeRaw, h]

theorem raw_13 {w : Nat} (h : bits w 25 6 = 19) : decodeRaw w = decodeMajor13 w := by simp only [decodeRaw, h]

theorem raw_14 {w : Nat} (h : bits w 25 6 = 20) : decodeRaw w = decodeMajor14 w := by simp only [decodeRaw, h]

theorem raw_15 {w : Nat} (h : bits w 25 6 = 21) : decodeRaw w = decodeMajor15 w := by simp only [decodeRaw, h]

theorem raw_16 {w : Nat} (h : bits w 25 6 = 22) : decodeRaw w = decodeMajor16 w := by simp only [decodeRaw, h]

theorem raw_17 {w : Nat} (h : bits w 25 6 = 23) : decodeRaw w = decodeMajor17 w := by simp only [decodeRaw, h]

theorem raw_18 {w : Nat} (h : bits w 25 6 = 24) : decodeRaw w = decodeMajor18 w := by simp only [decodeRaw, h]

theorem raw_19 {w : Nat} (h : bits w 25 6 = 25) : decodeRaw w = decodeMajor19 w := by simp only [decodeRaw, h]

theorem raw_1A {w : Nat} (h : bits w 25 6 = 26) : decodeRaw w = decodeMajor1A w := by simp only [decodeRaw, h]

theorem raw_1B {w : Nat} (h : bits w 25 6 = 27) : decodeRaw w = decodeMajor1B w := by simp only [decodeRaw, h]

theorem raw_1C {w : Nat} (h : bits w 25 6 = 28) : decodeRaw w = decodeMajor1C w := by simp only [decodeRaw, h]

theorem raw_1D {w : Nat} (h : bits w 25 6 = 29) : decodeRaw w = decodeMajor1D w := by simp only [decodeRaw, h]

theorem raw_1E {w : Nat} (h : bits w 25 6 = 30) : decodeRaw w = decodeMajor1E w := by simp only [decodeRaw, h]

theorem raw_1F {w : Nat} (h : bits w 25 6 = 31) : decodeRaw w = decodeMajor1F w := by simp only [decodeRaw, h]

theorem raw_20 {w : Nat} (h : bits w 25 6 = 32) : decodeRaw w = decodeMajor20 w := by simp only [decodeRaw, h]

theorem raw_21 {w : Nat} (h : bits w 25 6 = 33) : decodeRaw w = decodeMajor21 w := by simp only [decodeRaw, h]

theorem raw_22 {w : Nat} (h : bits w 25 6 = 34) : decodeRaw w = decodeMajor22 w := by simp only [decodeRaw, h]

theorem raw_23 {w : Nat} (h : bits w 25 6 = 35) : decodeRaw w = decodeMajor23 w := by simp only [decodeRaw, h]

theorem raw_24 {w : Nat} (h : bits w 25 6 = 36) : decodeRaw w = decodeMajor24 w := by simp only [decodeRaw, h]

theorem raw_25 {w : Nat} (h : bits w 25 6 = 37) : decodeRaw w = decodeMajor25 w := by simp only [decodeRaw, h]

theorem raw_26 {w : Nat} (h : bits w 25 6 = 38) : decodeRaw w = decodeMajor26 w := by simp only [decodeRaw, h]

theorem raw_27 {w : Nat} (h : bits w 25 6 = 39) : decodeRaw w = decodeMajor27 w := by simp only [decodeRaw, h]

theorem raw_28 {w : Nat} (h : bits w 25 6 = 40) : decodeRaw w = decodeMajor28 w := by simp only [decodeRaw, h]

theorem raw_29 {w : Nat} (h : bits w 25 6 = 41) : decodeRaw w = decodeMajor29 w := by simp only [decodeRaw, h]

namespace RoundTrip

/-- The word of a well-formed instruction decodes to it. A step of a unit or event has no word. -/
def Statement (i : Instr) : Prop :=
  wellFormed i = true → isEvent i = false →
    if isRoutine i then decodeRoutine (encode i) = some i else decodeSlot (encode i) = .ok i

theorem lay_0c25 {wd C M c0 : Nat}
    (hC : C = M * 33554432 + c0 * 1) (hM : M < 64) (h0 : c0 < 33554432)
    (he : wd = C) :
    bits wd 25 6 = M ∧ bits wd 0 25 = c0 := by
  subst hC
  refine ⟨by simp only [bits]; omega, by simp only [bits]; omega⟩

theorem lay_0c7_10c15_7f3 {wd C M c0 c1 : Nat} (x0 : BitVec 3)
    (hC : C = M * 33554432 + c0 * 1 + c1 * 1024) (hM : M < 64) (h0 : c0 < 128) (h1 : c1 < 32768)
    (he : wd = C + x0.toNat * 128) :
    bits wd 25 6 = M ∧ bits wd 0 7 = c0 ∧ bits wd 10 15 = c1 ∧ fld wd 7 3 = x0 := by
  have lt0 := x0.isLt
  subst hC
  refine ⟨by simp only [bits]; omega, by simp only [bits]; omega, by simp only [bits]; omega, fld_eq (by omega)⟩

theorem lay_0c6_20f5_15f5_10f5_7f3_6f1 {wd C M c0 : Nat} (x0 : BitVec 5) (x1 : BitVec 5) (x2 : BitVec 5) (x3 : BitVec 3) (x4 : BitVec 1)
    (hC : C = M * 33554432 + c0 * 1) (hM : M < 64) (h0 : c0 < 64)
    (he : wd = C + x0.toNat * 1048576 + x1.toNat * 32768 + x2.toNat * 1024 + x3.toNat * 128 + x4.toNat * 64) :
    bits wd 25 6 = M ∧ bits wd 0 6 = c0 ∧ fld wd 20 5 = x0 ∧ fld wd 15 5 = x1 ∧ fld wd 10 5 = x2 ∧ fld wd 7 3 = x3 ∧ fld wd 6 1 = x4 := by
  have lt0 := x0.isLt; have lt1 := x1.isLt; have lt2 := x2.isLt; have lt3 := x3.isLt; have lt4 := x4.isLt
  subst hC
  refine ⟨by simp only [bits]; omega, by simp only [bits]; omega, fld_eq (by omega), fld_eq (by omega), fld_eq (by omega), fld_eq (by omega), fld_eq (by omega)⟩

theorem lay_20f5_15f5_12f3_0f12 {wd C M : Nat} (x0 : BitVec 5) (x1 : BitVec 5) (x2 : BitVec 3) (x3 : BitVec 12)
    (hC : C = M * 33554432) (hM : M < 64)
    (he : wd = C + x0.toNat * 1048576 + x1.toNat * 32768 + x2.toNat * 4096 + x3.toNat) :
    bits wd 25 6 = M ∧ fld wd 20 5 = x0 ∧ fld wd 15 5 = x1 ∧ fld wd 12 3 = x2 ∧ fld wd 0 12 = x3 := by
  have lt0 := x0.isLt; have lt1 := x1.isLt; have lt2 := x2.isLt; have lt3 := x3.isLt
  subst hC
  refine ⟨by simp only [bits]; omega, fld_eq (by omega), fld_eq (by omega), fld_eq (by omega), fld_eq (by omega)⟩

theorem lay_10c2_20f5_15f5_12f3_0f10 {wd C M c0 : Nat} (x0 : BitVec 5) (x1 : BitVec 5) (x2 : BitVec 3) (x3 : BitVec 10)
    (hC : C = M * 33554432 + c0 * 1024) (hM : M < 64) (h0 : c0 < 4)
    (he : wd = C + x0.toNat * 1048576 + x1.toNat * 32768 + x2.toNat * 4096 + x3.toNat) :
    bits wd 25 6 = M ∧ bits wd 10 2 = c0 ∧ fld wd 20 5 = x0 ∧ fld wd 15 5 = x1 ∧ fld wd 12 3 = x2 ∧ fld wd 0 10 = x3 := by
  have lt0 := x0.isLt; have lt1 := x1.isLt; have lt2 := x2.isLt; have lt3 := x3.isLt
  subst hC
  refine ⟨by simp only [bits]; omega, by simp only [bits]; omega, fld_eq (by omega), fld_eq (by omega), fld_eq (by omega), fld_eq (by omega)⟩

theorem lay_6c6_20f5_15f5_12f3_0f6 {wd C M c0 : Nat} (x0 : BitVec 5) (x1 : BitVec 5) (x2 : BitVec 3) (x3 : BitVec 6)
    (hC : C = M * 33554432 + c0 * 64) (hM : M < 64) (h0 : c0 < 64)
    (he : wd = C + x0.toNat * 1048576 + x1.toNat * 32768 + x2.toNat * 4096 + x3.toNat) :
    bits wd 25 6 = M ∧ bits wd 6 6 = c0 ∧ fld wd 20 5 = x0 ∧ fld wd 15 5 = x1 ∧ fld wd 12 3 = x2 ∧ fld wd 0 6 = x3 := by
  have lt0 := x0.isLt; have lt1 := x1.isLt; have lt2 := x2.isLt; have lt3 := x3.isLt
  subst hC
  refine ⟨by simp only [bits]; omega, by simp only [bits]; omega, fld_eq (by omega), fld_eq (by omega), fld_eq (by omega), fld_eq (by omega)⟩

theorem lay_15c5_20f5_12f3_0f12 {wd C M c0 : Nat} (x0 : BitVec 5) (x1 : BitVec 3) (x2 : BitVec 12)
    (hC : C = M * 33554432 + c0 * 32768) (hM : M < 64) (h0 : c0 < 32)
    (he : wd = C + x0.toNat * 1048576 + x1.toNat * 4096 + x2.toNat) :
    bits wd 25 6 = M ∧ bits wd 15 5 = c0 ∧ fld wd 20 5 = x0 ∧ fld wd 12 3 = x1 ∧ fld wd 0 12 = x2 := by
  have lt0 := x0.isLt; have lt1 := x1.isLt; have lt2 := x2.isLt
  subst hC
  refine ⟨by simp only [bits]; omega, by simp only [bits]; omega, fld_eq (by omega), fld_eq (by omega), fld_eq (by omega)⟩

theorem lay_0c15_20f5_15f5 {wd C M c0 : Nat} (x0 : BitVec 5) (x1 : BitVec 5)
    (hC : C = M * 33554432 + c0 * 1) (hM : M < 64) (h0 : c0 < 32768)
    (he : wd = C + x0.toNat * 1048576 + x1.toNat * 32768) :
    bits wd 25 6 = M ∧ bits wd 0 15 = c0 ∧ fld wd 20 5 = x0 ∧ fld wd 15 5 = x1 := by
  have lt0 := x0.isLt; have lt1 := x1.isLt
  subst hC
  refine ⟨by simp only [bits]; omega, by simp only [bits]; omega, fld_eq (by omega), fld_eq (by omega)⟩

theorem lay_6c9_20f5_15f5_0f6 {wd C M c0 : Nat} (x0 : BitVec 5) (x1 : BitVec 5) (x2 : BitVec 6)
    (hC : C = M * 33554432 + c0 * 64) (hM : M < 64) (h0 : c0 < 512)
    (he : wd = C + x0.toNat * 1048576 + x1.toNat * 32768 + x2.toNat) :
    bits wd 25 6 = M ∧ bits wd 6 9 = c0 ∧ fld wd 20 5 = x0 ∧ fld wd 15 5 = x1 ∧ fld wd 0 6 = x2 := by
  have lt0 := x0.isLt; have lt1 := x1.isLt; have lt2 := x2.isLt
  subst hC
  refine ⟨by simp only [bits]; omega, by simp only [bits]; omega, fld_eq (by omega), fld_eq (by omega), fld_eq (by omega)⟩

theorem lay_12c3_20f5_15f5_6f6_0f6 {wd C M c0 : Nat} (x0 : BitVec 5) (x1 : BitVec 5) (x2 : BitVec 6) (x3 : BitVec 6)
    (hC : C = M * 33554432 + c0 * 4096) (hM : M < 64) (h0 : c0 < 8)
    (he : wd = C + x0.toNat * 1048576 + x1.toNat * 32768 + x2.toNat * 64 + x3.toNat) :
    bits wd 25 6 = M ∧ bits wd 12 3 = c0 ∧ fld wd 20 5 = x0 ∧ fld wd 15 5 = x1 ∧ fld wd 6 6 = x2 ∧ fld wd 0 6 = x3 := by
  have lt0 := x0.isLt; have lt1 := x1.isLt; have lt2 := x2.isLt; have lt3 := x3.isLt
  subst hC
  refine ⟨by simp only [bits]; omega, by simp only [bits]; omega, fld_eq (by omega), fld_eq (by omega), fld_eq (by omega), fld_eq (by omega)⟩

theorem lay_0c4_18c1_22f3_19f3_17f1_14f3_9f5_4f5 {wd C M c0 c1 : Nat} (x0 : BitVec 3) (x1 : BitVec 3) (x2 : BitVec 1) (x3 : BitVec 3) (x4 : BitVec 5) (x5 : BitVec 5)
    (hC : C = M * 33554432 + c0 * 1 + c1 * 262144) (hM : M < 64) (h0 : c0 < 16) (h1 : c1 < 2)
    (he : wd = C + x0.toNat * 4194304 + x1.toNat * 524288 + x2.toNat * 131072 + x3.toNat * 16384 + x4.toNat * 512 + x5.toNat * 16) :
    bits wd 25 6 = M ∧ bits wd 0 4 = c0 ∧ bits wd 18 1 = c1 ∧ fld wd 22 3 = x0 ∧ fld wd 19 3 = x1 ∧ fld wd 17 1 = x2 ∧ fld wd 14 3 = x3 ∧ fld wd 9 5 = x4 ∧ fld wd 4 5 = x5 := by
  have lt0 := x0.isLt; have lt1 := x1.isLt; have lt2 := x2.isLt; have lt3 := x3.isLt; have lt4 := x4.isLt; have lt5 := x5.isLt
  subst hC
  refine ⟨by simp only [bits]; omega, by simp only [bits]; omega, by simp only [bits]; omega, fld_eq (by omega), fld_eq (by omega), fld_eq (by omega), fld_eq (by omega), fld_eq (by omega), fld_eq (by omega)⟩

theorem lay_18c1_22f3_19f3_17f1_14f3_9f5_0f9 {wd C M c0 : Nat} (x0 : BitVec 3) (x1 : BitVec 3) (x2 : BitVec 1) (x3 : BitVec 3) (x4 : BitVec 5) (x5 : BitVec 9)
    (hC : C = M * 33554432 + c0 * 262144) (hM : M < 64) (h0 : c0 < 2)
    (he : wd = C + x0.toNat * 4194304 + x1.toNat * 524288 + x2.toNat * 131072 + x3.toNat * 16384 + x4.toNat * 512 + x5.toNat) :
    bits wd 25 6 = M ∧ bits wd 18 1 = c0 ∧ fld wd 22 3 = x0 ∧ fld wd 19 3 = x1 ∧ fld wd 17 1 = x2 ∧ fld wd 14 3 = x3 ∧ fld wd 9 5 = x4 ∧ fld wd 0 9 = x5 := by
  have lt0 := x0.isLt; have lt1 := x1.isLt; have lt2 := x2.isLt; have lt3 := x3.isLt; have lt4 := x4.isLt; have lt5 := x5.isLt
  subst hC
  refine ⟨by simp only [bits]; omega, by simp only [bits]; omega, fld_eq (by omega), fld_eq (by omega), fld_eq (by omega), fld_eq (by omega), fld_eq (by omega), fld_eq (by omega)⟩

theorem lay_0c7_20f5_15f5_10f5_7f3 {wd C M c0 : Nat} (x0 : BitVec 5) (x1 : BitVec 5) (x2 : BitVec 5) (x3 : BitVec 3)
    (hC : C = M * 33554432 + c0 * 1) (hM : M < 64) (h0 : c0 < 128)
    (he : wd = C + x0.toNat * 1048576 + x1.toNat * 32768 + x2.toNat * 1024 + x3.toNat * 128) :
    bits wd 25 6 = M ∧ bits wd 0 7 = c0 ∧ fld wd 20 5 = x0 ∧ fld wd 15 5 = x1 ∧ fld wd 10 5 = x2 ∧ fld wd 7 3 = x3 := by
  have lt0 := x0.isLt; have lt1 := x1.isLt; have lt2 := x2.isLt; have lt3 := x3.isLt
  subst hC
  refine ⟨by simp only [bits]; omega, by simp only [bits]; omega, fld_eq (by omega), fld_eq (by omega), fld_eq (by omega), fld_eq (by omega)⟩

theorem lay_0c7_10c5_20f5_15f5_7f3 {wd C M c0 c1 : Nat} (x0 : BitVec 5) (x1 : BitVec 5) (x2 : BitVec 3)
    (hC : C = M * 33554432 + c0 * 1 + c1 * 1024) (hM : M < 64) (h0 : c0 < 128) (h1 : c1 < 32)
    (he : wd = C + x0.toNat * 1048576 + x1.toNat * 32768 + x2.toNat * 128) :
    bits wd 25 6 = M ∧ bits wd 0 7 = c0 ∧ bits wd 10 5 = c1 ∧ fld wd 20 5 = x0 ∧ fld wd 15 5 = x1 ∧ fld wd 7 3 = x2 := by
  have lt0 := x0.isLt; have lt1 := x1.isLt; have lt2 := x2.isLt
  subst hC
  refine ⟨by simp only [bits]; omega, by simp only [bits]; omega, by simp only [bits]; omega, fld_eq (by omega), fld_eq (by omega), fld_eq (by omega)⟩

theorem lay_0c10_20f5_15f5_13f2_10f3 {wd C M c0 : Nat} (x0 : BitVec 5) (x1 : BitVec 5) (x2 : BitVec 2) (x3 : BitVec 3)
    (hC : C = M * 33554432 + c0 * 1) (hM : M < 64) (h0 : c0 < 1024)
    (he : wd = C + x0.toNat * 1048576 + x1.toNat * 32768 + x2.toNat * 8192 + x3.toNat * 1024) :
    bits wd 25 6 = M ∧ bits wd 0 10 = c0 ∧ fld wd 20 5 = x0 ∧ fld wd 15 5 = x1 ∧ fld wd 13 2 = x2 ∧ fld wd 10 3 = x3 := by
  have lt0 := x0.isLt; have lt1 := x1.isLt; have lt2 := x2.isLt; have lt3 := x3.isLt
  subst hC
  refine ⟨by simp only [bits]; omega, by simp only [bits]; omega, fld_eq (by omega), fld_eq (by omega), fld_eq (by omega), fld_eq (by omega)⟩

theorem lay_0c4_9c3_20f5_15f5_12f3_4f5 {wd C M c0 c1 : Nat} (x0 : BitVec 5) (x1 : BitVec 5) (x2 : BitVec 3) (x3 : BitVec 5)
    (hC : C = M * 33554432 + c0 * 1 + c1 * 512) (hM : M < 64) (h0 : c0 < 16) (h1 : c1 < 8)
    (he : wd = C + x0.toNat * 1048576 + x1.toNat * 32768 + x2.toNat * 4096 + x3.toNat * 16) :
    bits wd 25 6 = M ∧ bits wd 0 4 = c0 ∧ bits wd 9 3 = c1 ∧ fld wd 20 5 = x0 ∧ fld wd 15 5 = x1 ∧ fld wd 12 3 = x2 ∧ fld wd 4 5 = x3 := by
  have lt0 := x0.isLt; have lt1 := x1.isLt; have lt2 := x2.isLt; have lt3 := x3.isLt
  subst hC
  refine ⟨by simp only [bits]; omega, by simp only [bits]; omega, by simp only [bits]; omega, fld_eq (by omega), fld_eq (by omega), fld_eq (by omega), fld_eq (by omega)⟩

theorem lay_9c3_20f5_15f5_12f3_0f9 {wd C M c0 : Nat} (x0 : BitVec 5) (x1 : BitVec 5) (x2 : BitVec 3) (x3 : BitVec 9)
    (hC : C = M * 33554432 + c0 * 512) (hM : M < 64) (h0 : c0 < 8)
    (he : wd = C + x0.toNat * 1048576 + x1.toNat * 32768 + x2.toNat * 4096 + x3.toNat) :
    bits wd 25 6 = M ∧ bits wd 9 3 = c0 ∧ fld wd 20 5 = x0 ∧ fld wd 15 5 = x1 ∧ fld wd 12 3 = x2 ∧ fld wd 0 9 = x3 := by
  have lt0 := x0.isLt; have lt1 := x1.isLt; have lt2 := x2.isLt; have lt3 := x3.isLt
  subst hC
  refine ⟨by simp only [bits]; omega, by simp only [bits]; omega, fld_eq (by omega), fld_eq (by omega), fld_eq (by omega), fld_eq (by omega)⟩

theorem lay_0c12_20f5_15f5_12f3 {wd C M c0 : Nat} (x0 : BitVec 5) (x1 : BitVec 5) (x2 : BitVec 3)
    (hC : C = M * 33554432 + c0 * 1) (hM : M < 64) (h0 : c0 < 4096)
    (he : wd = C + x0.toNat * 1048576 + x1.toNat * 32768 + x2.toNat * 4096) :
    bits wd 25 6 = M ∧ bits wd 0 12 = c0 ∧ fld wd 20 5 = x0 ∧ fld wd 15 5 = x1 ∧ fld wd 12 3 = x2 := by
  have lt0 := x0.isLt; have lt1 := x1.isLt; have lt2 := x2.isLt
  subst hC
  refine ⟨by simp only [bits]; omega, by simp only [bits]; omega, fld_eq (by omega), fld_eq (by omega), fld_eq (by omega)⟩

theorem lay_0c6_9c3_20f5_15f5_12f3_6f3 {wd C M c0 c1 : Nat} (x0 : BitVec 5) (x1 : BitVec 5) (x2 : BitVec 3) (x3 : BitVec 3)
    (hC : C = M * 33554432 + c0 * 1 + c1 * 512) (hM : M < 64) (h0 : c0 < 64) (h1 : c1 < 8)
    (he : wd = C + x0.toNat * 1048576 + x1.toNat * 32768 + x2.toNat * 4096 + x3.toNat * 64) :
    bits wd 25 6 = M ∧ bits wd 0 6 = c0 ∧ bits wd 9 3 = c1 ∧ fld wd 20 5 = x0 ∧ fld wd 15 5 = x1 ∧ fld wd 12 3 = x2 ∧ fld wd 6 3 = x3 := by
  have lt0 := x0.isLt; have lt1 := x1.isLt; have lt2 := x2.isLt; have lt3 := x3.isLt
  subst hC
  refine ⟨by simp only [bits]; omega, by simp only [bits]; omega, by simp only [bits]; omega, fld_eq (by omega), fld_eq (by omega), fld_eq (by omega), fld_eq (by omega)⟩

theorem lay_24c1_21f3_0f21 {wd C M c0 : Nat} (x0 : BitVec 3) (x1 : BitVec 21)
    (hC : C = M * 33554432 + c0 * 16777216) (hM : M < 64) (h0 : c0 < 2)
    (he : wd = C + x0.toNat * 2097152 + x1.toNat) :
    bits wd 25 6 = M ∧ bits wd 24 1 = c0 ∧ fld wd 21 3 = x0 ∧ fld wd 0 21 = x1 := by
  have lt0 := x0.isLt; have lt1 := x1.isLt
  subst hC
  refine ⟨by simp only [bits]; omega, by simp only [bits]; omega, fld_eq (by omega), fld_eq (by omega)⟩

theorem lay_0c15_23c2_20f3_15f5 {wd C M c0 c1 : Nat} (x0 : BitVec 3) (x1 : BitVec 5)
    (hC : C = M * 33554432 + c0 * 1 + c1 * 8388608) (hM : M < 64) (h0 : c0 < 32768) (h1 : c1 < 4)
    (he : wd = C + x0.toNat * 1048576 + x1.toNat * 32768) :
    bits wd 25 6 = M ∧ bits wd 0 15 = c0 ∧ bits wd 23 2 = c1 ∧ fld wd 20 3 = x0 ∧ fld wd 15 5 = x1 := by
  have lt0 := x0.isLt; have lt1 := x1.isLt
  subst hC
  refine ⟨by simp only [bits]; omega, by simp only [bits]; omega, by simp only [bits]; omega, fld_eq (by omega), fld_eq (by omega)⟩

theorem lay_0c20_23c2_20f3 {wd C M c0 c1 : Nat} (x0 : BitVec 3)
    (hC : C = M * 33554432 + c0 * 1 + c1 * 8388608) (hM : M < 64) (h0 : c0 < 1048576) (h1 : c1 < 4)
    (he : wd = C + x0.toNat * 1048576) :
    bits wd 25 6 = M ∧ bits wd 0 20 = c0 ∧ bits wd 23 2 = c1 ∧ fld wd 20 3 = x0 := by
  have lt0 := x0.isLt
  subst hC
  refine ⟨by simp only [bits]; omega, by simp only [bits]; omega, by simp only [bits]; omega, fld_eq (by omega)⟩

theorem lay_20c5_15f5_0f15 {wd C M c0 : Nat} (x0 : BitVec 5) (x1 : BitVec 15)
    (hC : C = M * 33554432 + c0 * 1048576) (hM : M < 64) (h0 : c0 < 32)
    (he : wd = C + x0.toNat * 32768 + x1.toNat) :
    bits wd 25 6 = M ∧ bits wd 20 5 = c0 ∧ fld wd 15 5 = x0 ∧ fld wd 0 15 = x1 := by
  have lt0 := x0.isLt; have lt1 := x1.isLt
  subst hC
  refine ⟨by simp only [bits]; omega, by simp only [bits]; omega, fld_eq (by omega), fld_eq (by omega)⟩

theorem lay_20c5_10f10_0f10 {wd C M c0 : Nat} (x0 : BitVec 10) (x1 : BitVec 10)
    (hC : C = M * 33554432 + c0 * 1048576) (hM : M < 64) (h0 : c0 < 32)
    (he : wd = C + x0.toNat * 1024 + x1.toNat) :
    bits wd 25 6 = M ∧ bits wd 20 5 = c0 ∧ fld wd 10 10 = x0 ∧ fld wd 0 10 = x1 := by
  have lt0 := x0.isLt; have lt1 := x1.isLt
  subst hC
  refine ⟨by simp only [bits]; omega, by simp only [bits]; omega, fld_eq (by omega), fld_eq (by omega)⟩

theorem lay_0c12_20c5_15f5_12f3 {wd C M c0 c1 : Nat} (x0 : BitVec 5) (x1 : BitVec 3)
    (hC : C = M * 33554432 + c0 * 1 + c1 * 1048576) (hM : M < 64) (h0 : c0 < 4096) (h1 : c1 < 32)
    (he : wd = C + x0.toNat * 32768 + x1.toNat * 4096) :
    bits wd 25 6 = M ∧ bits wd 0 12 = c0 ∧ bits wd 20 5 = c1 ∧ fld wd 15 5 = x0 ∧ fld wd 12 3 = x1 := by
  have lt0 := x0.isLt; have lt1 := x1.isLt
  subst hC
  refine ⟨by simp only [bits]; omega, by simp only [bits]; omega, by simp only [bits]; omega, fld_eq (by omega), fld_eq (by omega)⟩

theorem lay_16c9_0f16 {wd C M c0 : Nat} (x0 : BitVec 16)
    (hC : C = M * 33554432 + c0 * 65536) (hM : M < 64) (h0 : c0 < 512)
    (he : wd = C + x0.toNat) :
    bits wd 25 6 = M ∧ bits wd 16 9 = c0 ∧ fld wd 0 16 = x0 := by
  have lt0 := x0.isLt
  subst hC
  refine ⟨by simp only [bits]; omega, by simp only [bits]; omega, fld_eq (by omega)⟩

theorem lay_0c9_22c3_17f5_12f5_9f3 {wd C M c0 c1 : Nat} (x0 : BitVec 5) (x1 : BitVec 5) (x2 : BitVec 3)
    (hC : C = M * 33554432 + c0 * 1 + c1 * 4194304) (hM : M < 64) (h0 : c0 < 512) (h1 : c1 < 8)
    (he : wd = C + x0.toNat * 131072 + x1.toNat * 4096 + x2.toNat * 512) :
    bits wd 25 6 = M ∧ bits wd 0 9 = c0 ∧ bits wd 22 3 = c1 ∧ fld wd 17 5 = x0 ∧ fld wd 12 5 = x1 ∧ fld wd 9 3 = x2 := by
  have lt0 := x0.isLt; have lt1 := x1.isLt; have lt2 := x2.isLt
  subst hC
  refine ⟨by simp only [bits]; omega, by simp only [bits]; omega, by simp only [bits]; omega, fld_eq (by omega), fld_eq (by omega), fld_eq (by omega)⟩

theorem lay_0c9_22c3_12f10_9f3 {wd C M c0 c1 : Nat} (x0 : BitVec 10) (x1 : BitVec 3)
    (hC : C = M * 33554432 + c0 * 1 + c1 * 4194304) (hM : M < 64) (h0 : c0 < 512) (h1 : c1 < 8)
    (he : wd = C + x0.toNat * 4096 + x1.toNat * 512) :
    bits wd 25 6 = M ∧ bits wd 0 9 = c0 ∧ bits wd 22 3 = c1 ∧ fld wd 12 10 = x0 ∧ fld wd 9 3 = x1 := by
  have lt0 := x0.isLt; have lt1 := x1.isLt
  subst hC
  refine ⟨by simp only [bits]; omega, by simp only [bits]; omega, by simp only [bits]; omega, fld_eq (by omega), fld_eq (by omega)⟩

theorem lay_0c7_20c5_10f10_7f3 {wd C M c0 c1 : Nat} (x0 : BitVec 10) (x1 : BitVec 3)
    (hC : C = M * 33554432 + c0 * 1 + c1 * 1048576) (hM : M < 64) (h0 : c0 < 128) (h1 : c1 < 32)
    (he : wd = C + x0.toNat * 1024 + x1.toNat * 128) :
    bits wd 25 6 = M ∧ bits wd 0 7 = c0 ∧ bits wd 20 5 = c1 ∧ fld wd 10 10 = x0 ∧ fld wd 7 3 = x1 := by
  have lt0 := x0.isLt; have lt1 := x1.isLt
  subst hC
  refine ⟨by simp only [bits]; omega, by simp only [bits]; omega, by simp only [bits]; omega, fld_eq (by omega), fld_eq (by omega)⟩

theorem lay_0c7_10c10_20f5_7f3 {wd C M c0 c1 : Nat} (x0 : BitVec 5) (x1 : BitVec 3)
    (hC : C = M * 33554432 + c0 * 1 + c1 * 1024) (hM : M < 64) (h0 : c0 < 128) (h1 : c1 < 1024)
    (he : wd = C + x0.toNat * 1048576 + x1.toNat * 128) :
    bits wd 25 6 = M ∧ bits wd 0 7 = c0 ∧ bits wd 10 10 = c1 ∧ fld wd 20 5 = x0 ∧ fld wd 7 3 = x1 := by
  have lt0 := x0.isLt; have lt1 := x1.isLt
  subst hC
  refine ⟨by simp only [bits]; omega, by simp only [bits]; omega, by simp only [bits]; omega, fld_eq (by omega), fld_eq (by omega)⟩

theorem lay_0c4_20f5_10f10_7f3_6f1_4f2 {wd C M c0 : Nat} (x0 : BitVec 5) (x1 : BitVec 10) (x2 : BitVec 3) (x3 : BitVec 1) (x4 : BitVec 2)
    (hC : C = M * 33554432 + c0 * 1) (hM : M < 64) (h0 : c0 < 16)
    (he : wd = C + x0.toNat * 1048576 + x1.toNat * 1024 + x2.toNat * 128 + x3.toNat * 64 + x4.toNat * 16) :
    bits wd 25 6 = M ∧ bits wd 0 4 = c0 ∧ fld wd 20 5 = x0 ∧ fld wd 10 10 = x1 ∧ fld wd 7 3 = x2 ∧ fld wd 6 1 = x3 ∧ fld wd 4 2 = x4 := by
  have lt0 := x0.isLt; have lt1 := x1.isLt; have lt2 := x2.isLt; have lt3 := x3.isLt; have lt4 := x4.isLt
  subst hC
  refine ⟨by simp only [bits]; omega, by simp only [bits]; omega, fld_eq (by omega), fld_eq (by omega), fld_eq (by omega), fld_eq (by omega), fld_eq (by omega)⟩

theorem lay_24c1_19f5_14f5_9f5_6f3_3f3_1f2_0f1 {wd C M c0 : Nat} (x0 : BitVec 5) (x1 : BitVec 5) (x2 : BitVec 5) (x3 : BitVec 3) (x4 : BitVec 3) (x5 : BitVec 2) (x6 : BitVec 1)
    (hC : C = M * 33554432 + c0 * 16777216) (hM : M < 64) (h0 : c0 < 2)
    (he : wd = C + x0.toNat * 524288 + x1.toNat * 16384 + x2.toNat * 512 + x3.toNat * 64 + x4.toNat * 8 + x5.toNat * 2 + x6.toNat) :
    bits wd 25 6 = M ∧ bits wd 24 1 = c0 ∧ fld wd 19 5 = x0 ∧ fld wd 14 5 = x1 ∧ fld wd 9 5 = x2 ∧ fld wd 6 3 = x3 ∧ fld wd 3 3 = x4 ∧ fld wd 1 2 = x5 ∧ fld wd 0 1 = x6 := by
  have lt0 := x0.isLt; have lt1 := x1.isLt; have lt2 := x2.isLt; have lt3 := x3.isLt; have lt4 := x4.isLt; have lt5 := x5.isLt; have lt6 := x6.isLt
  subst hC
  refine ⟨by simp only [bits]; omega, by simp only [bits]; omega, fld_eq (by omega), fld_eq (by omega), fld_eq (by omega), fld_eq (by omega), fld_eq (by omega), fld_eq (by omega), fld_eq (by omega)⟩

theorem lay_0c3_22c3_17f5_12f5_7f5_4f3_3f1 {wd C M c0 c1 : Nat} (x0 : BitVec 5) (x1 : BitVec 5) (x2 : BitVec 5) (x3 : BitVec 3) (x4 : BitVec 1)
    (hC : C = M * 33554432 + c0 * 1 + c1 * 4194304) (hM : M < 64) (h0 : c0 < 8) (h1 : c1 < 8)
    (he : wd = C + x0.toNat * 131072 + x1.toNat * 4096 + x2.toNat * 128 + x3.toNat * 16 + x4.toNat * 8) :
    bits wd 25 6 = M ∧ bits wd 0 3 = c0 ∧ bits wd 22 3 = c1 ∧ fld wd 17 5 = x0 ∧ fld wd 12 5 = x1 ∧ fld wd 7 5 = x2 ∧ fld wd 4 3 = x3 ∧ fld wd 3 1 = x4 := by
  have lt0 := x0.isLt; have lt1 := x1.isLt; have lt2 := x2.isLt; have lt3 := x3.isLt; have lt4 := x4.isLt
  subst hC
  refine ⟨by simp only [bits]; omega, by simp only [bits]; omega, by simp only [bits]; omega, fld_eq (by omega), fld_eq (by omega), fld_eq (by omega), fld_eq (by omega), fld_eq (by omega)⟩

theorem lay_0c17_22c3_17f5 {wd C M c0 c1 : Nat} (x0 : BitVec 5)
    (hC : C = M * 33554432 + c0 * 1 + c1 * 4194304) (hM : M < 64) (h0 : c0 < 131072) (h1 : c1 < 8)
    (he : wd = C + x0.toNat * 131072) :
    bits wd 25 6 = M ∧ bits wd 0 17 = c0 ∧ bits wd 22 3 = c1 ∧ fld wd 17 5 = x0 := by
  have lt0 := x0.isLt
  subst hC
  refine ⟨by simp only [bits]; omega, by simp only [bits]; omega, by simp only [bits]; omega, fld_eq (by omega)⟩

theorem lay_0c7_22c3_17f5_12f5_7f5 {wd C M c0 c1 : Nat} (x0 : BitVec 5) (x1 : BitVec 5) (x2 : BitVec 5)
    (hC : C = M * 33554432 + c0 * 1 + c1 * 4194304) (hM : M < 64) (h0 : c0 < 128) (h1 : c1 < 8)
    (he : wd = C + x0.toNat * 131072 + x1.toNat * 4096 + x2.toNat * 128) :
    bits wd 25 6 = M ∧ bits wd 0 7 = c0 ∧ bits wd 22 3 = c1 ∧ fld wd 17 5 = x0 ∧ fld wd 12 5 = x1 ∧ fld wd 7 5 = x2 := by
  have lt0 := x0.isLt; have lt1 := x1.isLt; have lt2 := x2.isLt
  subst hC
  refine ⟨by simp only [bits]; omega, by simp only [bits]; omega, by simp only [bits]; omega, fld_eq (by omega), fld_eq (by omega), fld_eq (by omega)⟩

theorem lay_0c4_20f5_15f5_10f5_7f3_4f3 {wd C M c0 : Nat} (x0 : BitVec 5) (x1 : BitVec 5) (x2 : BitVec 5) (x3 : BitVec 3) (x4 : BitVec 3)
    (hC : C = M * 33554432 + c0 * 1) (hM : M < 64) (h0 : c0 < 16)
    (he : wd = C + x0.toNat * 1048576 + x1.toNat * 32768 + x2.toNat * 1024 + x3.toNat * 128 + x4.toNat * 16) :
    bits wd 25 6 = M ∧ bits wd 0 4 = c0 ∧ fld wd 20 5 = x0 ∧ fld wd 15 5 = x1 ∧ fld wd 10 5 = x2 ∧ fld wd 7 3 = x3 ∧ fld wd 4 3 = x4 := by
  have lt0 := x0.isLt; have lt1 := x1.isLt; have lt2 := x2.isLt; have lt3 := x3.isLt; have lt4 := x4.isLt
  subst hC
  refine ⟨by simp only [bits]; omega, by simp only [bits]; omega, fld_eq (by omega), fld_eq (by omega), fld_eq (by omega), fld_eq (by omega), fld_eq (by omega)⟩

theorem lay_0c4_10c5_20f5_15f5_7f3_4f3 {wd C M c0 c1 : Nat} (x0 : BitVec 5) (x1 : BitVec 5) (x2 : BitVec 3) (x3 : BitVec 3)
    (hC : C = M * 33554432 + c0 * 1 + c1 * 1024) (hM : M < 64) (h0 : c0 < 16) (h1 : c1 < 32)
    (he : wd = C + x0.toNat * 1048576 + x1.toNat * 32768 + x2.toNat * 128 + x3.toNat * 16) :
    bits wd 25 6 = M ∧ bits wd 0 4 = c0 ∧ bits wd 10 5 = c1 ∧ fld wd 20 5 = x0 ∧ fld wd 15 5 = x1 ∧ fld wd 7 3 = x2 ∧ fld wd 4 3 = x3 := by
  have lt0 := x0.isLt; have lt1 := x1.isLt; have lt2 := x2.isLt; have lt3 := x3.isLt
  subst hC
  refine ⟨by simp only [bits]; omega, by simp only [bits]; omega, by simp only [bits]; omega, fld_eq (by omega), fld_eq (by omega), fld_eq (by omega), fld_eq (by omega)⟩

theorem lay_3c1_20f5_15f5_10f5_7f3_4f3_0f3 {wd C M c0 : Nat} (x0 : BitVec 5) (x1 : BitVec 5) (x2 : BitVec 5) (x3 : BitVec 3) (x4 : BitVec 3) (x5 : BitVec 3)
    (hC : C = M * 33554432 + c0 * 8) (hM : M < 64) (h0 : c0 < 2)
    (he : wd = C + x0.toNat * 1048576 + x1.toNat * 32768 + x2.toNat * 1024 + x3.toNat * 128 + x4.toNat * 16 + x5.toNat) :
    bits wd 25 6 = M ∧ bits wd 3 1 = c0 ∧ fld wd 20 5 = x0 ∧ fld wd 15 5 = x1 ∧ fld wd 10 5 = x2 ∧ fld wd 7 3 = x3 ∧ fld wd 4 3 = x4 ∧ fld wd 0 3 = x5 := by
  have lt0 := x0.isLt; have lt1 := x1.isLt; have lt2 := x2.isLt; have lt3 := x3.isLt; have lt4 := x4.isLt; have lt5 := x5.isLt
  subst hC
  refine ⟨by simp only [bits]; omega, by simp only [bits]; omega, fld_eq (by omega), fld_eq (by omega), fld_eq (by omega), fld_eq (by omega), fld_eq (by omega), fld_eq (by omega)⟩

theorem lay_2c2_20f5_15f5_10f5_7f3_4f3_0f2 {wd C M c0 : Nat} (x0 : BitVec 5) (x1 : BitVec 5) (x2 : BitVec 5) (x3 : BitVec 3) (x4 : BitVec 3) (x5 : BitVec 2)
    (hC : C = M * 33554432 + c0 * 4) (hM : M < 64) (h0 : c0 < 4)
    (he : wd = C + x0.toNat * 1048576 + x1.toNat * 32768 + x2.toNat * 1024 + x3.toNat * 128 + x4.toNat * 16 + x5.toNat) :
    bits wd 25 6 = M ∧ bits wd 2 2 = c0 ∧ fld wd 20 5 = x0 ∧ fld wd 15 5 = x1 ∧ fld wd 10 5 = x2 ∧ fld wd 7 3 = x3 ∧ fld wd 4 3 = x4 ∧ fld wd 0 2 = x5 := by
  have lt0 := x0.isLt; have lt1 := x1.isLt; have lt2 := x2.isLt; have lt3 := x3.isLt; have lt4 := x4.isLt; have lt5 := x5.isLt
  subst hC
  refine ⟨by simp only [bits]; omega, by simp only [bits]; omega, fld_eq (by omega), fld_eq (by omega), fld_eq (by omega), fld_eq (by omega), fld_eq (by omega), fld_eq (by omega)⟩

theorem lay_0c4_13c2_20f5_15f5_10f3_7f3_4f3 {wd C M c0 c1 : Nat} (x0 : BitVec 5) (x1 : BitVec 5) (x2 : BitVec 3) (x3 : BitVec 3) (x4 : BitVec 3)
    (hC : C = M * 33554432 + c0 * 1 + c1 * 8192) (hM : M < 64) (h0 : c0 < 16) (h1 : c1 < 4)
    (he : wd = C + x0.toNat * 1048576 + x1.toNat * 32768 + x2.toNat * 1024 + x3.toNat * 128 + x4.toNat * 16) :
    bits wd 25 6 = M ∧ bits wd 0 4 = c0 ∧ bits wd 13 2 = c1 ∧ fld wd 20 5 = x0 ∧ fld wd 15 5 = x1 ∧ fld wd 10 3 = x2 ∧ fld wd 7 3 = x3 ∧ fld wd 4 3 = x4 := by
  have lt0 := x0.isLt; have lt1 := x1.isLt; have lt2 := x2.isLt; have lt3 := x3.isLt; have lt4 := x4.isLt
  subst hC
  refine ⟨by simp only [bits]; omega, by simp only [bits]; omega, by simp only [bits]; omega, fld_eq (by omega), fld_eq (by omega), fld_eq (by omega), fld_eq (by omega), fld_eq (by omega)⟩

theorem lay_0c4_7c3_20f5_15f5_10f5_4f3 {wd C M c0 c1 : Nat} (x0 : BitVec 5) (x1 : BitVec 5) (x2 : BitVec 5) (x3 : BitVec 3)
    (hC : C = M * 33554432 + c0 * 1 + c1 * 128) (hM : M < 64) (h0 : c0 < 16) (h1 : c1 < 8)
    (he : wd = C + x0.toNat * 1048576 + x1.toNat * 32768 + x2.toNat * 1024 + x3.toNat * 16) :
    bits wd 25 6 = M ∧ bits wd 0 4 = c0 ∧ bits wd 7 3 = c1 ∧ fld wd 20 5 = x0 ∧ fld wd 15 5 = x1 ∧ fld wd 10 5 = x2 ∧ fld wd 4 3 = x3 := by
  have lt0 := x0.isLt; have lt1 := x1.isLt; have lt2 := x2.isLt; have lt3 := x3.isLt
  subst hC
  refine ⟨by simp only [bits]; omega, by simp only [bits]; omega, by simp only [bits]; omega, fld_eq (by omega), fld_eq (by omega), fld_eq (by omega), fld_eq (by omega)⟩

theorem lay_0c4_10c10_20f5_7f3_4f3 {wd C M c0 c1 : Nat} (x0 : BitVec 5) (x1 : BitVec 3) (x2 : BitVec 3)
    (hC : C = M * 33554432 + c0 * 1 + c1 * 1024) (hM : M < 64) (h0 : c0 < 16) (h1 : c1 < 1024)
    (he : wd = C + x0.toNat * 1048576 + x1.toNat * 128 + x2.toNat * 16) :
    bits wd 25 6 = M ∧ bits wd 0 4 = c0 ∧ bits wd 10 10 = c1 ∧ fld wd 20 5 = x0 ∧ fld wd 7 3 = x1 ∧ fld wd 4 3 = x2 := by
  have lt0 := x0.isLt; have lt1 := x1.isLt; have lt2 := x2.isLt
  subst hC
  refine ⟨by simp only [bits]; omega, by simp only [bits]; omega, by simp only [bits]; omega, fld_eq (by omega), fld_eq (by omega), fld_eq (by omega)⟩

theorem lay_20f5_15f5_12f3_9f3_6f3_3f3_0f3 {wd C M : Nat} (x0 : BitVec 5) (x1 : BitVec 5) (x2 : BitVec 3) (x3 : BitVec 3) (x4 : BitVec 3) (x5 : BitVec 3) (x6 : BitVec 3)
    (hC : C = M * 33554432) (hM : M < 64)
    (he : wd = C + x0.toNat * 1048576 + x1.toNat * 32768 + x2.toNat * 4096 + x3.toNat * 512 + x4.toNat * 64 + x5.toNat * 8 + x6.toNat) :
    bits wd 25 6 = M ∧ fld wd 20 5 = x0 ∧ fld wd 15 5 = x1 ∧ fld wd 12 3 = x2 ∧ fld wd 9 3 = x3 ∧ fld wd 6 3 = x4 ∧ fld wd 3 3 = x5 ∧ fld wd 0 3 = x6 := by
  have lt0 := x0.isLt; have lt1 := x1.isLt; have lt2 := x2.isLt; have lt3 := x3.isLt; have lt4 := x4.isLt; have lt5 := x5.isLt; have lt6 := x6.isLt
  subst hC
  refine ⟨by simp only [bits]; omega, fld_eq (by omega), fld_eq (by omega), fld_eq (by omega), fld_eq (by omega), fld_eq (by omega), fld_eq (by omega), fld_eq (by omega)⟩

theorem lay_20f5_16f4_12f4_9f3_0f9 {wd C M : Nat} (x0 : BitVec 5) (x1 : BitVec 4) (x2 : BitVec 4) (x3 : BitVec 3) (x4 : BitVec 9)
    (hC : C = M * 33554432) (hM : M < 64)
    (he : wd = C + x0.toNat * 1048576 + x1.toNat * 65536 + x2.toNat * 4096 + x3.toNat * 512 + x4.toNat) :
    bits wd 25 6 = M ∧ fld wd 20 5 = x0 ∧ fld wd 16 4 = x1 ∧ fld wd 12 4 = x2 ∧ fld wd 9 3 = x3 ∧ fld wd 0 9 = x4 := by
  have lt0 := x0.isLt; have lt1 := x1.isLt; have lt2 := x2.isLt; have lt3 := x3.isLt; have lt4 := x4.isLt
  subst hC
  refine ⟨by simp only [bits]; omega, fld_eq (by omega), fld_eq (by omega), fld_eq (by omega), fld_eq (by omega), fld_eq (by omega)⟩

theorem lay_16c4_20f5_12f4_9f3_0f9 {wd C M c0 : Nat} (x0 : BitVec 5) (x1 : BitVec 4) (x2 : BitVec 3) (x3 : BitVec 9)
    (hC : C = M * 33554432 + c0 * 65536) (hM : M < 64) (h0 : c0 < 16)
    (he : wd = C + x0.toNat * 1048576 + x1.toNat * 4096 + x2.toNat * 512 + x3.toNat) :
    bits wd 25 6 = M ∧ bits wd 16 4 = c0 ∧ fld wd 20 5 = x0 ∧ fld wd 12 4 = x1 ∧ fld wd 9 3 = x2 ∧ fld wd 0 9 = x3 := by
  have lt0 := x0.isLt; have lt1 := x1.isLt; have lt2 := x2.isLt; have lt3 := x3.isLt
  subst hC
  refine ⟨by simp only [bits]; omega, by simp only [bits]; omega, fld_eq (by omega), fld_eq (by omega), fld_eq (by omega), fld_eq (by omega)⟩

theorem lay_7c2_16c4_20f5_12f4_9f3_2f5_0f2 {wd C M c0 c1 : Nat} (x0 : BitVec 5) (x1 : BitVec 4) (x2 : BitVec 3) (x3 : BitVec 5) (x4 : BitVec 2)
    (hC : C = M * 33554432 + c0 * 128 + c1 * 65536) (hM : M < 64) (h0 : c0 < 4) (h1 : c1 < 16)
    (he : wd = C + x0.toNat * 1048576 + x1.toNat * 4096 + x2.toNat * 512 + x3.toNat * 4 + x4.toNat) :
    bits wd 25 6 = M ∧ bits wd 7 2 = c0 ∧ bits wd 16 4 = c1 ∧ fld wd 20 5 = x0 ∧ fld wd 12 4 = x1 ∧ fld wd 9 3 = x2 ∧ fld wd 2 5 = x3 ∧ fld wd 0 2 = x4 := by
  have lt0 := x0.isLt; have lt1 := x1.isLt; have lt2 := x2.isLt; have lt3 := x3.isLt; have lt4 := x4.isLt
  subst hC
  refine ⟨by simp only [bits]; omega, by simp only [bits]; omega, by simp only [bits]; omega, fld_eq (by omega), fld_eq (by omega), fld_eq (by omega), fld_eq (by omega), fld_eq (by omega)⟩

theorem lay_0c2_7c2_16c4_20f5_12f4_9f3_2f5 {wd C M c0 c1 c2 : Nat} (x0 : BitVec 5) (x1 : BitVec 4) (x2 : BitVec 3) (x3 : BitVec 5)
    (hC : C = M * 33554432 + c0 * 1 + c1 * 128 + c2 * 65536) (hM : M < 64) (h0 : c0 < 4) (h1 : c1 < 4) (h2 : c2 < 16)
    (he : wd = C + x0.toNat * 1048576 + x1.toNat * 4096 + x2.toNat * 512 + x3.toNat * 4) :
    bits wd 25 6 = M ∧ bits wd 0 2 = c0 ∧ bits wd 7 2 = c1 ∧ bits wd 16 4 = c2 ∧ fld wd 20 5 = x0 ∧ fld wd 12 4 = x1 ∧ fld wd 9 3 = x2 ∧ fld wd 2 5 = x3 := by
  have lt0 := x0.isLt; have lt1 := x1.isLt; have lt2 := x2.isLt; have lt3 := x3.isLt
  subst hC
  refine ⟨by simp only [bits]; omega, by simp only [bits]; omega, by simp only [bits]; omega, by simp only [bits]; omega, fld_eq (by omega), fld_eq (by omega), fld_eq (by omega), fld_eq (by omega)⟩

theorem lay_0c2_7c5_16c4_20f5_12f4_2f5 {wd C M c0 c1 c2 : Nat} (x0 : BitVec 5) (x1 : BitVec 4) (x2 : BitVec 5)
    (hC : C = M * 33554432 + c0 * 1 + c1 * 128 + c2 * 65536) (hM : M < 64) (h0 : c0 < 4) (h1 : c1 < 32) (h2 : c2 < 16)
    (he : wd = C + x0.toNat * 1048576 + x1.toNat * 4096 + x2.toNat * 4) :
    bits wd 25 6 = M ∧ bits wd 0 2 = c0 ∧ bits wd 7 5 = c1 ∧ bits wd 16 4 = c2 ∧ fld wd 20 5 = x0 ∧ fld wd 12 4 = x1 ∧ fld wd 2 5 = x2 := by
  have lt0 := x0.isLt; have lt1 := x1.isLt; have lt2 := x2.isLt
  subst hC
  refine ⟨by simp only [bits]; omega, by simp only [bits]; omega, by simp only [bits]; omega, by simp only [bits]; omega, fld_eq (by omega), fld_eq (by omega), fld_eq (by omega)⟩

theorem lay_4c2_20f5_16f4_12f4_7f5_6f1_0f4 {wd C M c0 : Nat} (x0 : BitVec 5) (x1 : BitVec 4) (x2 : BitVec 4) (x3 : BitVec 5) (x4 : BitVec 1) (x5 : BitVec 4)
    (hC : C = M * 33554432 + c0 * 16) (hM : M < 64) (h0 : c0 < 4)
    (he : wd = C + x0.toNat * 1048576 + x1.toNat * 65536 + x2.toNat * 4096 + x3.toNat * 128 + x4.toNat * 64 + x5.toNat) :
    bits wd 25 6 = M ∧ bits wd 4 2 = c0 ∧ fld wd 20 5 = x0 ∧ fld wd 16 4 = x1 ∧ fld wd 12 4 = x2 ∧ fld wd 7 5 = x3 ∧ fld wd 6 1 = x4 ∧ fld wd 0 4 = x5 := by
  have lt0 := x0.isLt; have lt1 := x1.isLt; have lt2 := x2.isLt; have lt3 := x3.isLt; have lt4 := x4.isLt; have lt5 := x5.isLt
  subst hC
  refine ⟨by simp only [bits]; omega, by simp only [bits]; omega, fld_eq (by omega), fld_eq (by omega), fld_eq (by omega), fld_eq (by omega), fld_eq (by omega), fld_eq (by omega)⟩

theorem lay_0c6_20f5_16f4_12f4_7f5_6f1 {wd C M c0 : Nat} (x0 : BitVec 5) (x1 : BitVec 4) (x2 : BitVec 4) (x3 : BitVec 5) (x4 : BitVec 1)
    (hC : C = M * 33554432 + c0 * 1) (hM : M < 64) (h0 : c0 < 64)
    (he : wd = C + x0.toNat * 1048576 + x1.toNat * 65536 + x2.toNat * 4096 + x3.toNat * 128 + x4.toNat * 64) :
    bits wd 25 6 = M ∧ bits wd 0 6 = c0 ∧ fld wd 20 5 = x0 ∧ fld wd 16 4 = x1 ∧ fld wd 12 4 = x2 ∧ fld wd 7 5 = x3 ∧ fld wd 6 1 = x4 := by
  have lt0 := x0.isLt; have lt1 := x1.isLt; have lt2 := x2.isLt; have lt3 := x3.isLt; have lt4 := x4.isLt
  subst hC
  refine ⟨by simp only [bits]; omega, by simp only [bits]; omega, fld_eq (by omega), fld_eq (by omega), fld_eq (by omega), fld_eq (by omega), fld_eq (by omega)⟩

theorem lay_0c7_20f5_16f4_12f4_7f5 {wd C M c0 : Nat} (x0 : BitVec 5) (x1 : BitVec 4) (x2 : BitVec 4) (x3 : BitVec 5)
    (hC : C = M * 33554432 + c0 * 1) (hM : M < 64) (h0 : c0 < 128)
    (he : wd = C + x0.toNat * 1048576 + x1.toNat * 65536 + x2.toNat * 4096 + x3.toNat * 128) :
    bits wd 25 6 = M ∧ bits wd 0 7 = c0 ∧ fld wd 20 5 = x0 ∧ fld wd 16 4 = x1 ∧ fld wd 12 4 = x2 ∧ fld wd 7 5 = x3 := by
  have lt0 := x0.isLt; have lt1 := x1.isLt; have lt2 := x2.isLt; have lt3 := x3.isLt
  subst hC
  refine ⟨by simp only [bits]; omega, by simp only [bits]; omega, fld_eq (by omega), fld_eq (by omega), fld_eq (by omega), fld_eq (by omega)⟩

theorem lay_0c12_20f5_16f4_12f4 {wd C M c0 : Nat} (x0 : BitVec 5) (x1 : BitVec 4) (x2 : BitVec 4)
    (hC : C = M * 33554432 + c0 * 1) (hM : M < 64) (h0 : c0 < 4096)
    (he : wd = C + x0.toNat * 1048576 + x1.toNat * 65536 + x2.toNat * 4096) :
    bits wd 25 6 = M ∧ bits wd 0 12 = c0 ∧ fld wd 20 5 = x0 ∧ fld wd 16 4 = x1 ∧ fld wd 12 4 = x2 := by
  have lt0 := x0.isLt; have lt1 := x1.isLt; have lt2 := x2.isLt
  subst hC
  refine ⟨by simp only [bits]; omega, by simp only [bits]; omega, fld_eq (by omega), fld_eq (by omega), fld_eq (by omega)⟩

theorem lay_0c20_22c3_20f2 {wd C M c0 c1 : Nat} (x0 : BitVec 2)
    (hC : C = M * 33554432 + c0 * 1 + c1 * 4194304) (hM : M < 64) (h0 : c0 < 1048576) (h1 : c1 < 8)
    (he : wd = C + x0.toNat * 1048576) :
    bits wd 25 6 = M ∧ bits wd 0 20 = c0 ∧ bits wd 22 3 = c1 ∧ fld wd 20 2 = x0 := by
  have lt0 := x0.isLt
  subst hC
  refine ⟨by simp only [bits]; omega, by simp only [bits]; omega, by simp only [bits]; omega, fld_eq (by omega)⟩

theorem lay_0c13_22c3_18f4_13f5 {wd C M c0 c1 : Nat} (x0 : BitVec 4) (x1 : BitVec 5)
    (hC : C = M * 33554432 + c0 * 1 + c1 * 4194304) (hM : M < 64) (h0 : c0 < 8192) (h1 : c1 < 8)
    (he : wd = C + x0.toNat * 262144 + x1.toNat * 8192) :
    bits wd 25 6 = M ∧ bits wd 0 13 = c0 ∧ bits wd 22 3 = c1 ∧ fld wd 18 4 = x0 ∧ fld wd 13 5 = x1 := by
  have lt0 := x0.isLt; have lt1 := x1.isLt
  subst hC
  refine ⟨by simp only [bits]; omega, by simp only [bits]; omega, by simp only [bits]; omega, fld_eq (by omega), fld_eq (by omega)⟩

theorem lay_0c13_22c3_17f5_13f4 {wd C M c0 c1 : Nat} (x0 : BitVec 5) (x1 : BitVec 4)
    (hC : C = M * 33554432 + c0 * 1 + c1 * 4194304) (hM : M < 64) (h0 : c0 < 8192) (h1 : c1 < 8)
    (he : wd = C + x0.toNat * 131072 + x1.toNat * 8192) :
    bits wd 25 6 = M ∧ bits wd 0 13 = c0 ∧ bits wd 22 3 = c1 ∧ fld wd 17 5 = x0 ∧ fld wd 13 4 = x1 := by
  have lt0 := x0.isLt; have lt1 := x1.isLt
  subst hC
  refine ⟨by simp only [bits]; omega, by simp only [bits]; omega, by simp only [bits]; omega, fld_eq (by omega), fld_eq (by omega)⟩

theorem lay_0c18_22c3_18f4 {wd C M c0 c1 : Nat} (x0 : BitVec 4)
    (hC : C = M * 33554432 + c0 * 1 + c1 * 4194304) (hM : M < 64) (h0 : c0 < 262144) (h1 : c1 < 8)
    (he : wd = C + x0.toNat * 262144) :
    bits wd 25 6 = M ∧ bits wd 0 18 = c0 ∧ bits wd 22 3 = c1 ∧ fld wd 18 4 = x0 := by
  have lt0 := x0.isLt
  subst hC
  refine ⟨by simp only [bits]; omega, by simp only [bits]; omega, by simp only [bits]; omega, fld_eq (by omega)⟩

theorem lay_0c9_22c3_14f8_9f5 {wd C M c0 c1 : Nat} (x0 : BitVec 8) (x1 : BitVec 5)
    (hC : C = M * 33554432 + c0 * 1 + c1 * 4194304) (hM : M < 64) (h0 : c0 < 512) (h1 : c1 < 8)
    (he : wd = C + x0.toNat * 16384 + x1.toNat * 512) :
    bits wd 25 6 = M ∧ bits wd 0 9 = c0 ∧ bits wd 22 3 = c1 ∧ fld wd 14 8 = x0 ∧ fld wd 9 5 = x1 := by
  have lt0 := x0.isLt; have lt1 := x1.isLt
  subst hC
  refine ⟨by simp only [bits]; omega, by simp only [bits]; omega, by simp only [bits]; omega, fld_eq (by omega), fld_eq (by omega)⟩

theorem lay_0c12_22c3_14f8_12f2 {wd C M c0 c1 : Nat} (x0 : BitVec 8) (x1 : BitVec 2)
    (hC : C = M * 33554432 + c0 * 1 + c1 * 4194304) (hM : M < 64) (h0 : c0 < 4096) (h1 : c1 < 8)
    (he : wd = C + x0.toNat * 16384 + x1.toNat * 4096) :
    bits wd 25 6 = M ∧ bits wd 0 12 = c0 ∧ bits wd 22 3 = c1 ∧ fld wd 14 8 = x0 ∧ fld wd 12 2 = x1 := by
  have lt0 := x0.isLt; have lt1 := x1.isLt
  subst hC
  refine ⟨by simp only [bits]; omega, by simp only [bits]; omega, by simp only [bits]; omega, fld_eq (by omega), fld_eq (by omega)⟩

theorem lay_0c14_22c3_19f3_14f5 {wd C M c0 c1 : Nat} (x0 : BitVec 3) (x1 : BitVec 5)
    (hC : C = M * 33554432 + c0 * 1 + c1 * 4194304) (hM : M < 64) (h0 : c0 < 16384) (h1 : c1 < 8)
    (he : wd = C + x0.toNat * 524288 + x1.toNat * 16384) :
    bits wd 25 6 = M ∧ bits wd 0 14 = c0 ∧ bits wd 22 3 = c1 ∧ fld wd 19 3 = x0 ∧ fld wd 14 5 = x1 := by
  have lt0 := x0.isLt; have lt1 := x1.isLt
  subst hC
  refine ⟨by simp only [bits]; omega, by simp only [bits]; omega, by simp only [bits]; omega, fld_eq (by omega), fld_eq (by omega)⟩

theorem lay_0c19_22c3_19f3 {wd C M c0 c1 : Nat} (x0 : BitVec 3)
    (hC : C = M * 33554432 + c0 * 1 + c1 * 4194304) (hM : M < 64) (h0 : c0 < 524288) (h1 : c1 < 8)
    (he : wd = C + x0.toNat * 524288) :
    bits wd 25 6 = M ∧ bits wd 0 19 = c0 ∧ bits wd 22 3 = c1 ∧ fld wd 19 3 = x0 := by
  have lt0 := x0.isLt
  subst hC
  refine ⟨by simp only [bits]; omega, by simp only [bits]; omega, by simp only [bits]; omega, fld_eq (by omega)⟩

theorem lay_22c3_16f6_8f8_0f8 {wd C M c0 : Nat} (x0 : BitVec 6) (x1 : BitVec 8) (x2 : BitVec 8)
    (hC : C = M * 33554432 + c0 * 4194304) (hM : M < 64) (h0 : c0 < 8)
    (he : wd = C + x0.toNat * 65536 + x1.toNat * 256 + x2.toNat) :
    bits wd 25 6 = M ∧ bits wd 22 3 = c0 ∧ fld wd 16 6 = x0 ∧ fld wd 8 8 = x1 ∧ fld wd 0 8 = x2 := by
  have lt0 := x0.isLt; have lt1 := x1.isLt; have lt2 := x2.isLt
  subst hC
  refine ⟨by simp only [bits]; omega, by simp only [bits]; omega, fld_eq (by omega), fld_eq (by omega), fld_eq (by omega)⟩

theorem lay_0c16_22c3_16f6 {wd C M c0 c1 : Nat} (x0 : BitVec 6)
    (hC : C = M * 33554432 + c0 * 1 + c1 * 4194304) (hM : M < 64) (h0 : c0 < 65536) (h1 : c1 < 8)
    (he : wd = C + x0.toNat * 65536) :
    bits wd 25 6 = M ∧ bits wd 0 16 = c0 ∧ bits wd 22 3 = c1 ∧ fld wd 16 6 = x0 := by
  have lt0 := x0.isLt
  subst hC
  refine ⟨by simp only [bits]; omega, by simp only [bits]; omega, by simp only [bits]; omega, fld_eq (by omega)⟩

theorem lay_0c1_22c3_16f6_8f8_7f1_2f5_1f1 {wd C M c0 c1 : Nat} (x0 : BitVec 6) (x1 : BitVec 8) (x2 : BitVec 1) (x3 : BitVec 5) (x4 : BitVec 1)
    (hC : C = M * 33554432 + c0 * 1 + c1 * 4194304) (hM : M < 64) (h0 : c0 < 2) (h1 : c1 < 8)
    (he : wd = C + x0.toNat * 65536 + x1.toNat * 256 + x2.toNat * 128 + x3.toNat * 4 + x4.toNat * 2) :
    bits wd 25 6 = M ∧ bits wd 0 1 = c0 ∧ bits wd 22 3 = c1 ∧ fld wd 16 6 = x0 ∧ fld wd 8 8 = x1 ∧ fld wd 7 1 = x2 ∧ fld wd 2 5 = x3 ∧ fld wd 1 1 = x4 := by
  have lt0 := x0.isLt; have lt1 := x1.isLt; have lt2 := x2.isLt; have lt3 := x3.isLt; have lt4 := x4.isLt
  subst hC
  refine ⟨by simp only [bits]; omega, by simp only [bits]; omega, by simp only [bits]; omega, fld_eq (by omega), fld_eq (by omega), fld_eq (by omega), fld_eq (by omega), fld_eq (by omega)⟩

theorem lay_0c8_22c3_16f6_8f8 {wd C M c0 c1 : Nat} (x0 : BitVec 6) (x1 : BitVec 8)
    (hC : C = M * 33554432 + c0 * 1 + c1 * 4194304) (hM : M < 64) (h0 : c0 < 256) (h1 : c1 < 8)
    (he : wd = C + x0.toNat * 65536 + x1.toNat * 256) :
    bits wd 25 6 = M ∧ bits wd 0 8 = c0 ∧ bits wd 22 3 = c1 ∧ fld wd 16 6 = x0 ∧ fld wd 8 8 = x1 := by
  have lt0 := x0.isLt; have lt1 := x1.isLt
  subst hC
  refine ⟨by simp only [bits]; omega, by simp only [bits]; omega, by simp only [bits]; omega, fld_eq (by omega), fld_eq (by omega)⟩

theorem lay_0c9_24c1_19f5_16f3_9f7 {wd C M c0 c1 : Nat} (x0 : BitVec 5) (x1 : BitVec 3) (x2 : BitVec 7)
    (hC : C = M * 33554432 + c0 * 1 + c1 * 16777216) (hM : M < 64) (h0 : c0 < 512) (h1 : c1 < 2)
    (he : wd = C + x0.toNat * 524288 + x1.toNat * 65536 + x2.toNat * 512) :
    bits wd 25 6 = M ∧ bits wd 0 9 = c0 ∧ bits wd 24 1 = c1 ∧ fld wd 19 5 = x0 ∧ fld wd 16 3 = x1 ∧ fld wd 9 7 = x2 := by
  have lt0 := x0.isLt; have lt1 := x1.isLt; have lt2 := x2.isLt
  subst hC
  refine ⟨by simp only [bits]; omega, by simp only [bits]; omega, by simp only [bits]; omega, fld_eq (by omega), fld_eq (by omega), fld_eq (by omega)⟩

theorem lay_0c16_24c1_16f8 {wd C M c0 c1 : Nat} (x0 : BitVec 8)
    (hC : C = M * 33554432 + c0 * 1 + c1 * 16777216) (hM : M < 64) (h0 : c0 < 65536) (h1 : c1 < 2)
    (he : wd = C + x0.toNat * 65536) :
    bits wd 25 6 = M ∧ bits wd 0 16 = c0 ∧ bits wd 24 1 = c1 ∧ fld wd 16 8 = x0 := by
  have lt0 := x0.isLt
  subst hC
  refine ⟨by simp only [bits]; omega, by simp only [bits]; omega, by simp only [bits]; omega, fld_eq (by omega)⟩

theorem lay_22c3_14f8_10f4_6f4_0f6 {wd C M c0 : Nat} (x0 : BitVec 8) (x1 : BitVec 4) (x2 : BitVec 4) (x3 : BitVec 6)
    (hC : C = M * 33554432 + c0 * 4194304) (hM : M < 64) (h0 : c0 < 8)
    (he : wd = C + x0.toNat * 16384 + x1.toNat * 1024 + x2.toNat * 64 + x3.toNat) :
    bits wd 25 6 = M ∧ bits wd 22 3 = c0 ∧ fld wd 14 8 = x0 ∧ fld wd 10 4 = x1 ∧ fld wd 6 4 = x2 ∧ fld wd 0 6 = x3 := by
  have lt0 := x0.isLt; have lt1 := x1.isLt; have lt2 := x2.isLt; have lt3 := x3.isLt
  subst hC
  refine ⟨by simp only [bits]; omega, by simp only [bits]; omega, fld_eq (by omega), fld_eq (by omega), fld_eq (by omega), fld_eq (by omega)⟩

theorem lay_0c8_22c3_18f4_14f4_8f6 {wd C M c0 c1 : Nat} (x0 : BitVec 4) (x1 : BitVec 4) (x2 : BitVec 6)
    (hC : C = M * 33554432 + c0 * 1 + c1 * 4194304) (hM : M < 64) (h0 : c0 < 256) (h1 : c1 < 8)
    (he : wd = C + x0.toNat * 262144 + x1.toNat * 16384 + x2.toNat * 256) :
    bits wd 25 6 = M ∧ bits wd 0 8 = c0 ∧ bits wd 22 3 = c1 ∧ fld wd 18 4 = x0 ∧ fld wd 14 4 = x1 ∧ fld wd 8 6 = x2 := by
  have lt0 := x0.isLt; have lt1 := x1.isLt; have lt2 := x2.isLt
  subst hC
  refine ⟨by simp only [bits]; omega, by simp only [bits]; omega, by simp only [bits]; omega, fld_eq (by omega), fld_eq (by omega), fld_eq (by omega)⟩

theorem lay_0c2_21c4_13f8_12f1_8f4_2f6 {wd C M c0 c1 : Nat} (x0 : BitVec 8) (x1 : BitVec 1) (x2 : BitVec 4) (x3 : BitVec 6)
    (hC : C = M * 33554432 + c0 * 1 + c1 * 2097152) (hM : M < 64) (h0 : c0 < 4) (h1 : c1 < 16)
    (he : wd = C + x0.toNat * 8192 + x1.toNat * 4096 + x2.toNat * 256 + x3.toNat * 4) :
    bits wd 25 6 = M ∧ bits wd 0 2 = c0 ∧ bits wd 21 4 = c1 ∧ fld wd 13 8 = x0 ∧ fld wd 12 1 = x1 ∧ fld wd 8 4 = x2 ∧ fld wd 2 6 = x3 := by
  have lt0 := x0.isLt; have lt1 := x1.isLt; have lt2 := x2.isLt; have lt3 := x3.isLt
  subst hC
  refine ⟨by simp only [bits]; omega, by simp only [bits]; omega, by simp only [bits]; omega, fld_eq (by omega), fld_eq (by omega), fld_eq (by omega), fld_eq (by omega)⟩

theorem lay_21c4_16f5_8f8_2f6_0f2 {wd C M c0 : Nat} (x0 : BitVec 5) (x1 : BitVec 8) (x2 : BitVec 6) (x3 : BitVec 2)
    (hC : C = M * 33554432 + c0 * 2097152) (hM : M < 64) (h0 : c0 < 16)
    (he : wd = C + x0.toNat * 65536 + x1.toNat * 256 + x2.toNat * 4 + x3.toNat) :
    bits wd 25 6 = M ∧ bits wd 21 4 = c0 ∧ fld wd 16 5 = x0 ∧ fld wd 8 8 = x1 ∧ fld wd 2 6 = x2 ∧ fld wd 0 2 = x3 := by
  have lt0 := x0.isLt; have lt1 := x1.isLt; have lt2 := x2.isLt; have lt3 := x3.isLt
  subst hC
  refine ⟨by simp only [bits]; omega, by simp only [bits]; omega, fld_eq (by omega), fld_eq (by omega), fld_eq (by omega), fld_eq (by omega)⟩

theorem lay_0c2_21c4_16f5_8f8_2f6 {wd C M c0 c1 : Nat} (x0 : BitVec 5) (x1 : BitVec 8) (x2 : BitVec 6)
    (hC : C = M * 33554432 + c0 * 1 + c1 * 2097152) (hM : M < 64) (h0 : c0 < 4) (h1 : c1 < 16)
    (he : wd = C + x0.toNat * 65536 + x1.toNat * 256 + x2.toNat * 4) :
    bits wd 25 6 = M ∧ bits wd 0 2 = c0 ∧ bits wd 21 4 = c1 ∧ fld wd 16 5 = x0 ∧ fld wd 8 8 = x1 ∧ fld wd 2 6 = x2 := by
  have lt0 := x0.isLt; have lt1 := x1.isLt; have lt2 := x2.isLt
  subst hC
  refine ⟨by simp only [bits]; omega, by simp only [bits]; omega, by simp only [bits]; omega, fld_eq (by omega), fld_eq (by omega), fld_eq (by omega)⟩

theorem lay_0c1_21c4_16f5_8f8_2f6_1f1 {wd C M c0 c1 : Nat} (x0 : BitVec 5) (x1 : BitVec 8) (x2 : BitVec 6) (x3 : BitVec 1)
    (hC : C = M * 33554432 + c0 * 1 + c1 * 2097152) (hM : M < 64) (h0 : c0 < 2) (h1 : c1 < 16)
    (he : wd = C + x0.toNat * 65536 + x1.toNat * 256 + x2.toNat * 4 + x3.toNat * 2) :
    bits wd 25 6 = M ∧ bits wd 0 1 = c0 ∧ bits wd 21 4 = c1 ∧ fld wd 16 5 = x0 ∧ fld wd 8 8 = x1 ∧ fld wd 2 6 = x2 ∧ fld wd 1 1 = x3 := by
  have lt0 := x0.isLt; have lt1 := x1.isLt; have lt2 := x2.isLt; have lt3 := x3.isLt
  subst hC
  refine ⟨by simp only [bits]; omega, by simp only [bits]; omega, by simp only [bits]; omega, fld_eq (by omega), fld_eq (by omega), fld_eq (by omega), fld_eq (by omega)⟩

theorem lay_0c16_21c4_16f5 {wd C M c0 c1 : Nat} (x0 : BitVec 5)
    (hC : C = M * 33554432 + c0 * 1 + c1 * 2097152) (hM : M < 64) (h0 : c0 < 65536) (h1 : c1 < 16)
    (he : wd = C + x0.toNat * 65536) :
    bits wd 25 6 = M ∧ bits wd 0 16 = c0 ∧ bits wd 21 4 = c1 ∧ fld wd 16 5 = x0 := by
  have lt0 := x0.isLt
  subst hC
  refine ⟨by simp only [bits]; omega, by simp only [bits]; omega, by simp only [bits]; omega, fld_eq (by omega)⟩

theorem lay_0c9_23c2_17f6_12f5_9f3 {wd C M c0 c1 : Nat} (x0 : BitVec 6) (x1 : BitVec 5) (x2 : BitVec 3)
    (hC : C = M * 33554432 + c0 * 1 + c1 * 8388608) (hM : M < 64) (h0 : c0 < 512) (h1 : c1 < 4)
    (he : wd = C + x0.toNat * 131072 + x1.toNat * 4096 + x2.toNat * 512) :
    bits wd 25 6 = M ∧ bits wd 0 9 = c0 ∧ bits wd 23 2 = c1 ∧ fld wd 17 6 = x0 ∧ fld wd 12 5 = x1 ∧ fld wd 9 3 = x2 := by
  have lt0 := x0.isLt; have lt1 := x1.isLt; have lt2 := x2.isLt
  subst hC
  refine ⟨by simp only [bits]; omega, by simp only [bits]; omega, by simp only [bits]; omega, fld_eq (by omega), fld_eq (by omega), fld_eq (by omega)⟩

theorem lay_12c5_23c2_17f6_9f3_0f9 {wd C M c0 c1 : Nat} (x0 : BitVec 6) (x1 : BitVec 3) (x2 : BitVec 9)
    (hC : C = M * 33554432 + c0 * 4096 + c1 * 8388608) (hM : M < 64) (h0 : c0 < 32) (h1 : c1 < 4)
    (he : wd = C + x0.toNat * 131072 + x1.toNat * 512 + x2.toNat) :
    bits wd 25 6 = M ∧ bits wd 12 5 = c0 ∧ bits wd 23 2 = c1 ∧ fld wd 17 6 = x0 ∧ fld wd 9 3 = x1 ∧ fld wd 0 9 = x2 := by
  have lt0 := x0.isLt; have lt1 := x1.isLt; have lt2 := x2.isLt
  subst hC
  refine ⟨by simp only [bits]; omega, by simp only [bits]; omega, by simp only [bits]; omega, fld_eq (by omega), fld_eq (by omega), fld_eq (by omega)⟩

theorem lay_23c2_17f6_12f5_9f3_0f9 {wd C M c0 : Nat} (x0 : BitVec 6) (x1 : BitVec 5) (x2 : BitVec 3) (x3 : BitVec 9)
    (hC : C = M * 33554432 + c0 * 8388608) (hM : M < 64) (h0 : c0 < 4)
    (he : wd = C + x0.toNat * 131072 + x1.toNat * 4096 + x2.toNat * 512 + x3.toNat) :
    bits wd 25 6 = M ∧ bits wd 23 2 = c0 ∧ fld wd 17 6 = x0 ∧ fld wd 12 5 = x1 ∧ fld wd 9 3 = x2 ∧ fld wd 0 9 = x3 := by
  have lt0 := x0.isLt; have lt1 := x1.isLt; have lt2 := x2.isLt; have lt3 := x3.isLt
  subst hC
  refine ⟨by simp only [bits]; omega, by simp only [bits]; omega, fld_eq (by omega), fld_eq (by omega), fld_eq (by omega), fld_eq (by omega)⟩

theorem lay_0c3_21c4_17f4_13f4_9f4_3f6 {wd C M c0 c1 : Nat} (x0 : BitVec 4) (x1 : BitVec 4) (x2 : BitVec 4) (x3 : BitVec 6)
    (hC : C = M * 33554432 + c0 * 1 + c1 * 2097152) (hM : M < 64) (h0 : c0 < 8) (h1 : c1 < 16)
    (he : wd = C + x0.toNat * 131072 + x1.toNat * 8192 + x2.toNat * 512 + x3.toNat * 8) :
    bits wd 25 6 = M ∧ bits wd 0 3 = c0 ∧ bits wd 21 4 = c1 ∧ fld wd 17 4 = x0 ∧ fld wd 13 4 = x1 ∧ fld wd 9 4 = x2 ∧ fld wd 3 6 = x3 := by
  have lt0 := x0.isLt; have lt1 := x1.isLt; have lt2 := x2.isLt; have lt3 := x3.isLt
  subst hC
  refine ⟨by simp only [bits]; omega, by simp only [bits]; omega, by simp only [bits]; omega, fld_eq (by omega), fld_eq (by omega), fld_eq (by omega), fld_eq (by omega)⟩

theorem lay_0c9_24c1_19f5_15f4_9f6 {wd C M c0 c1 : Nat} (x0 : BitVec 5) (x1 : BitVec 4) (x2 : BitVec 6)
    (hC : C = M * 33554432 + c0 * 1 + c1 * 16777216) (hM : M < 64) (h0 : c0 < 512) (h1 : c1 < 2)
    (he : wd = C + x0.toNat * 524288 + x1.toNat * 32768 + x2.toNat * 512) :
    bits wd 25 6 = M ∧ bits wd 0 9 = c0 ∧ bits wd 24 1 = c1 ∧ fld wd 19 5 = x0 ∧ fld wd 15 4 = x1 ∧ fld wd 9 6 = x2 := by
  have lt0 := x0.isLt; have lt1 := x1.isLt; have lt2 := x2.isLt
  subst hC
  refine ⟨by simp only [bits]; omega, by simp only [bits]; omega, by simp only [bits]; omega, fld_eq (by omega), fld_eq (by omega), fld_eq (by omega)⟩

theorem lay_0c4_24c1_22f2_18f4_13f5_10f3_4f6 {wd C M c0 c1 : Nat} (x0 : BitVec 2) (x1 : BitVec 4) (x2 : BitVec 5) (x3 : BitVec 3) (x4 : BitVec 6)
    (hC : C = M * 33554432 + c0 * 1 + c1 * 16777216) (hM : M < 64) (h0 : c0 < 16) (h1 : c1 < 2)
    (he : wd = C + x0.toNat * 4194304 + x1.toNat * 262144 + x2.toNat * 8192 + x3.toNat * 1024 + x4.toNat * 16) :
    bits wd 25 6 = M ∧ bits wd 0 4 = c0 ∧ bits wd 24 1 = c1 ∧ fld wd 22 2 = x0 ∧ fld wd 18 4 = x1 ∧ fld wd 13 5 = x2 ∧ fld wd 10 3 = x3 ∧ fld wd 4 6 = x4 := by
  have lt0 := x0.isLt; have lt1 := x1.isLt; have lt2 := x2.isLt; have lt3 := x3.isLt; have lt4 := x4.isLt
  subst hC
  refine ⟨by simp only [bits]; omega, by simp only [bits]; omega, by simp only [bits]; omega, fld_eq (by omega), fld_eq (by omega), fld_eq (by omega), fld_eq (by omega), fld_eq (by omega)⟩

theorem lay_0c10_21c4_16f5_10f6 {wd C M c0 c1 : Nat} (x0 : BitVec 5) (x1 : BitVec 6)
    (hC : C = M * 33554432 + c0 * 1 + c1 * 2097152) (hM : M < 64) (h0 : c0 < 1024) (h1 : c1 < 16)
    (he : wd = C + x0.toNat * 65536 + x1.toNat * 1024) :
    bits wd 25 6 = M ∧ bits wd 0 10 = c0 ∧ bits wd 21 4 = c1 ∧ fld wd 16 5 = x0 ∧ fld wd 10 6 = x1 := by
  have lt0 := x0.isLt; have lt1 := x1.isLt
  subst hC
  refine ⟨by simp only [bits]; omega, by simp only [bits]; omega, by simp only [bits]; omega, fld_eq (by omega), fld_eq (by omega)⟩

theorem lay_0c7_21c4_17f4_13f4_7f6 {wd C M c0 c1 : Nat} (x0 : BitVec 4) (x1 : BitVec 4) (x2 : BitVec 6)
    (hC : C = M * 33554432 + c0 * 1 + c1 * 2097152) (hM : M < 64) (h0 : c0 < 128) (h1 : c1 < 16)
    (he : wd = C + x0.toNat * 131072 + x1.toNat * 8192 + x2.toNat * 128) :
    bits wd 25 6 = M ∧ bits wd 0 7 = c0 ∧ bits wd 21 4 = c1 ∧ fld wd 17 4 = x0 ∧ fld wd 13 4 = x1 ∧ fld wd 7 6 = x2 := by
  have lt0 := x0.isLt; have lt1 := x1.isLt; have lt2 := x2.isLt
  subst hC
  refine ⟨by simp only [bits]; omega, by simp only [bits]; omega, by simp only [bits]; omega, fld_eq (by omega), fld_eq (by omega), fld_eq (by omega)⟩

theorem lay_0c11_21c4_16f5_11f5 {wd C M c0 c1 : Nat} (x0 : BitVec 5) (x1 : BitVec 5)
    (hC : C = M * 33554432 + c0 * 1 + c1 * 2097152) (hM : M < 64) (h0 : c0 < 2048) (h1 : c1 < 16)
    (he : wd = C + x0.toNat * 65536 + x1.toNat * 2048) :
    bits wd 25 6 = M ∧ bits wd 0 11 = c0 ∧ bits wd 21 4 = c1 ∧ fld wd 16 5 = x0 ∧ fld wd 11 5 = x1 := by
  have lt0 := x0.isLt; have lt1 := x1.isLt
  subst hC
  refine ⟨by simp only [bits]; omega, by simp only [bits]; omega, by simp only [bits]; omega, fld_eq (by omega), fld_eq (by omega)⟩

theorem lay_0c16_21c4_18f3_16f2 {wd C M c0 c1 : Nat} (x0 : BitVec 3) (x1 : BitVec 2)
    (hC : C = M * 33554432 + c0 * 1 + c1 * 2097152) (hM : M < 64) (h0 : c0 < 65536) (h1 : c1 < 16)
    (he : wd = C + x0.toNat * 262144 + x1.toNat * 65536) :
    bits wd 25 6 = M ∧ bits wd 0 16 = c0 ∧ bits wd 21 4 = c1 ∧ fld wd 18 3 = x0 ∧ fld wd 16 2 = x1 := by
  have lt0 := x0.isLt; have lt1 := x1.isLt
  subst hC
  refine ⟨by simp only [bits]; omega, by simp only [bits]; omega, by simp only [bits]; omega, fld_eq (by omega), fld_eq (by omega)⟩

theorem lay_0c13_21c4_18f3_13f5 {wd C M c0 c1 : Nat} (x0 : BitVec 3) (x1 : BitVec 5)
    (hC : C = M * 33554432 + c0 * 1 + c1 * 2097152) (hM : M < 64) (h0 : c0 < 8192) (h1 : c1 < 16)
    (he : wd = C + x0.toNat * 262144 + x1.toNat * 8192) :
    bits wd 25 6 = M ∧ bits wd 0 13 = c0 ∧ bits wd 21 4 = c1 ∧ fld wd 18 3 = x0 ∧ fld wd 13 5 = x1 := by
  have lt0 := x0.isLt; have lt1 := x1.isLt
  subst hC
  refine ⟨by simp only [bits]; omega, by simp only [bits]; omega, by simp only [bits]; omega, fld_eq (by omega), fld_eq (by omega)⟩

theorem nop : Statement (.nop) := by
  intro hw _
  change decodeSlot (encode (.nop)) = .ok (.nop)
  have he : encode (.nop) = 0x2000000 := rfl
  generalize encode (.nop) = wd at he
  obtain ⟨hm, b0_25⟩ := lay_0c25 (M := 1) (c0 := 0) rfl (by decide) (by decide) he
  refine slot_of_raw (by rw [hm]; decide) (by rw [hm]; decide) ?_ hw
  rw [raw_01 hm]
  simp [decodeMajor01, b0_25]

theorem shd : Statement (.shd) := by
  intro hw _
  change decodeSlot (encode (.shd)) = .ok (.shd)
  have he : encode (.shd) = 0x2000001 := rfl
  generalize encode (.shd) = wd at he
  obtain ⟨hm, b0_25⟩ := lay_0c25 (M := 1) (c0 := 1) rfl (by decide) (by decide) he
  refine slot_of_raw (by rw [hm]; decide) (by rw [hm]; decide) ?_ hw
  rw [raw_01 hm]
  simp [decodeMajor01, b0_25]

theorem halt (p : BitVec 3) : Statement (.halt p) := by
  intro hw _
  change decodeSlot (encode (.halt p)) = .ok (.halt p)
  have he : encode (.halt p) = 0x2000002 + p.toNat * 128 := rfl
  generalize encode (.halt p) = wd at he
  obtain ⟨hm, b0_7, b10_15, fp⟩ := lay_0c7_10c15_7f3 (M := 1) (c0 := 2) (c1 := 0) p rfl (by decide) (by decide) (by decide) he
  have lt_p := p.isLt
  have n0_25_0 : bits wd 0 25 ≠ 0 := by simp only [bits]; omega
  have n0_25_1 : bits wd 0 25 ≠ 1 := by simp only [bits]; omega
  refine slot_of_raw (by rw [hm]; decide) (by rw [hm]; decide) ?_ hw
  rw [raw_01 hm]
  simp [decodeMajor01, b0_7, b10_15, n0_25_0, n0_25_1, fp]

theorem idle (p : BitVec 3) : Statement (.idle p) := by
  intro hw _
  change decodeSlot (encode (.idle p)) = .ok (.idle p)
  have he : encode (.idle p) = 0x2000003 + p.toNat * 128 := rfl
  generalize encode (.idle p) = wd at he
  obtain ⟨hm, b0_7, b10_15, fp⟩ := lay_0c7_10c15_7f3 (M := 1) (c0 := 3) (c1 := 0) p rfl (by decide) (by decide) (by decide) he
  have lt_p := p.isLt
  have n0_25_0 : bits wd 0 25 ≠ 0 := by simp only [bits]; omega
  have n0_25_1 : bits wd 0 25 ≠ 1 := by simp only [bits]; omega
  refine slot_of_raw (by rw [hm]; decide) (by rw [hm]; decide) ?_ hw
  rw [raw_01 hm]
  simp [decodeMajor01, b0_7, b10_15, n0_25_0, n0_25_1, fp]

theorem add (d : BitVec 5) (a : BitVec 5) (b : BitVec 5) (p : BitVec 3) (w : BitVec 1) : Statement (.add d a b p w) := by
  intro hw _
  change decodeSlot (encode (.add d a b p w)) = .ok (.add d a b p w)
  have he : encode (.add d a b p w) = 0x4000000 + d.toNat * 1048576 + a.toNat * 32768 + b.toNat * 1024 + p.toNat * 128 + w.toNat * 64 := rfl
  generalize encode (.add d a b p w) = wd at he
  obtain ⟨hm, b0_6, fd, fa, fb, fp, fw⟩ := lay_0c6_20f5_15f5_10f5_7f3_6f1 (M := 2) (c0 := 0) d a b p w rfl (by decide) (by decide) he
  refine slot_of_raw (by rw [hm]; decide) (by rw [hm]; decide) ?_ hw
  rw [raw_02 hm]
  simp [decodeMajor02, b0_6, fd, fa, fb, fp, fw]

theorem sub (d : BitVec 5) (a : BitVec 5) (b : BitVec 5) (p : BitVec 3) (w : BitVec 1) : Statement (.sub d a b p w) := by
  intro hw _
  change decodeSlot (encode (.sub d a b p w)) = .ok (.sub d a b p w)
  have he : encode (.sub d a b p w) = 0x4000001 + d.toNat * 1048576 + a.toNat * 32768 + b.toNat * 1024 + p.toNat * 128 + w.toNat * 64 := rfl
  generalize encode (.sub d a b p w) = wd at he
  obtain ⟨hm, b0_6, fd, fa, fb, fp, fw⟩ := lay_0c6_20f5_15f5_10f5_7f3_6f1 (M := 2) (c0 := 1) d a b p w rfl (by decide) (by decide) he
  refine slot_of_raw (by rw [hm]; decide) (by rw [hm]; decide) ?_ hw
  rw [raw_02 hm]
  simp [decodeMajor02, b0_6, fd, fa, fb, fp, fw]

theorem mul (d : BitVec 5) (a : BitVec 5) (b : BitVec 5) (p : BitVec 3) (w : BitVec 1) : Statement (.mul d a b p w) := by
  intro hw _
  change decodeSlot (encode (.mul d a b p w)) = .ok (.mul d a b p w)
  have he : encode (.mul d a b p w) = 0x4000002 + d.toNat * 1048576 + a.toNat * 32768 + b.toNat * 1024 + p.toNat * 128 + w.toNat * 64 := rfl
  generalize encode (.mul d a b p w) = wd at he
  obtain ⟨hm, b0_6, fd, fa, fb, fp, fw⟩ := lay_0c6_20f5_15f5_10f5_7f3_6f1 (M := 2) (c0 := 2) d a b p w rfl (by decide) (by decide) he
  refine slot_of_raw (by rw [hm]; decide) (by rw [hm]; decide) ?_ hw
  rw [raw_02 hm]
  simp [decodeMajor02, b0_6, fd, fa, fb, fp, fw]

theorem mulh (d : BitVec 5) (a : BitVec 5) (b : BitVec 5) (p : BitVec 3) (w : BitVec 1) : Statement (.mulh d a b p w) := by
  intro hw _
  change decodeSlot (encode (.mulh d a b p w)) = .ok (.mulh d a b p w)
  have he : encode (.mulh d a b p w) = 0x4000003 + d.toNat * 1048576 + a.toNat * 32768 + b.toNat * 1024 + p.toNat * 128 + w.toNat * 64 := rfl
  generalize encode (.mulh d a b p w) = wd at he
  obtain ⟨hm, b0_6, fd, fa, fb, fp, fw⟩ := lay_0c6_20f5_15f5_10f5_7f3_6f1 (M := 2) (c0 := 3) d a b p w rfl (by decide) (by decide) he
  refine slot_of_raw (by rw [hm]; decide) (by rw [hm]; decide) ?_ hw
  rw [raw_02 hm]
  simp [decodeMajor02, b0_6, fd, fa, fb, fp, fw]

theorem mulhn (d : BitVec 5) (a : BitVec 5) (b : BitVec 5) (p : BitVec 3) (w : BitVec 1) : Statement (.mulhn d a b p w) := by
  intro hw _
  change decodeSlot (encode (.mulhn d a b p w)) = .ok (.mulhn d a b p w)
  have he : encode (.mulhn d a b p w) = 0x4000004 + d.toNat * 1048576 + a.toNat * 32768 + b.toNat * 1024 + p.toNat * 128 + w.toNat * 64 := rfl
  generalize encode (.mulhn d a b p w) = wd at he
  obtain ⟨hm, b0_6, fd, fa, fb, fp, fw⟩ := lay_0c6_20f5_15f5_10f5_7f3_6f1 (M := 2) (c0 := 4) d a b p w rfl (by decide) (by decide) he
  refine slot_of_raw (by rw [hm]; decide) (by rw [hm]; decide) ?_ hw
  rw [raw_02 hm]
  simp [decodeMajor02, b0_6, fd, fa, fb, fp, fw]

theorem div (d : BitVec 5) (a : BitVec 5) (b : BitVec 5) (p : BitVec 3) (w : BitVec 1) : Statement (.div d a b p w) := by
  intro hw _
  change decodeSlot (encode (.div d a b p w)) = .ok (.div d a b p w)
  have he : encode (.div d a b p w) = 0x4000005 + d.toNat * 1048576 + a.toNat * 32768 + b.toNat * 1024 + p.toNat * 128 + w.toNat * 64 := rfl
  generalize encode (.div d a b p w) = wd at he
  obtain ⟨hm, b0_6, fd, fa, fb, fp, fw⟩ := lay_0c6_20f5_15f5_10f5_7f3_6f1 (M := 2) (c0 := 5) d a b p w rfl (by decide) (by decide) he
  refine slot_of_raw (by rw [hm]; decide) (by rw [hm]; decide) ?_ hw
  rw [raw_02 hm]
  simp [decodeMajor02, b0_6, fd, fa, fb, fp, fw]

theorem divn (d : BitVec 5) (a : BitVec 5) (b : BitVec 5) (p : BitVec 3) (w : BitVec 1) : Statement (.divn d a b p w) := by
  intro hw _
  change decodeSlot (encode (.divn d a b p w)) = .ok (.divn d a b p w)
  have he : encode (.divn d a b p w) = 0x4000006 + d.toNat * 1048576 + a.toNat * 32768 + b.toNat * 1024 + p.toNat * 128 + w.toNat * 64 := rfl
  generalize encode (.divn d a b p w) = wd at he
  obtain ⟨hm, b0_6, fd, fa, fb, fp, fw⟩ := lay_0c6_20f5_15f5_10f5_7f3_6f1 (M := 2) (c0 := 6) d a b p w rfl (by decide) (by decide) he
  refine slot_of_raw (by rw [hm]; decide) (by rw [hm]; decide) ?_ hw
  rw [raw_02 hm]
  simp [decodeMajor02, b0_6, fd, fa, fb, fp, fw]

theorem rem (d : BitVec 5) (a : BitVec 5) (b : BitVec 5) (p : BitVec 3) (w : BitVec 1) : Statement (.rem d a b p w) := by
  intro hw _
  change decodeSlot (encode (.rem d a b p w)) = .ok (.rem d a b p w)
  have he : encode (.rem d a b p w) = 0x4000007 + d.toNat * 1048576 + a.toNat * 32768 + b.toNat * 1024 + p.toNat * 128 + w.toNat * 64 := rfl
  generalize encode (.rem d a b p w) = wd at he
  obtain ⟨hm, b0_6, fd, fa, fb, fp, fw⟩ := lay_0c6_20f5_15f5_10f5_7f3_6f1 (M := 2) (c0 := 7) d a b p w rfl (by decide) (by decide) he
  refine slot_of_raw (by rw [hm]; decide) (by rw [hm]; decide) ?_ hw
  rw [raw_02 hm]
  simp [decodeMajor02, b0_6, fd, fa, fb, fp, fw]

theorem remn (d : BitVec 5) (a : BitVec 5) (b : BitVec 5) (p : BitVec 3) (w : BitVec 1) : Statement (.remn d a b p w) := by
  intro hw _
  change decodeSlot (encode (.remn d a b p w)) = .ok (.remn d a b p w)
  have he : encode (.remn d a b p w) = 0x4000008 + d.toNat * 1048576 + a.toNat * 32768 + b.toNat * 1024 + p.toNat * 128 + w.toNat * 64 := rfl
  generalize encode (.remn d a b p w) = wd at he
  obtain ⟨hm, b0_6, fd, fa, fb, fp, fw⟩ := lay_0c6_20f5_15f5_10f5_7f3_6f1 (M := 2) (c0 := 8) d a b p w rfl (by decide) (by decide) he
  refine slot_of_raw (by rw [hm]; decide) (by rw [hm]; decide) ?_ hw
  rw [raw_02 hm]
  simp [decodeMajor02, b0_6, fd, fa, fb, fp, fw]

theorem andOp (d : BitVec 5) (a : BitVec 5) (b : BitVec 5) (p : BitVec 3) (w : BitVec 1) : Statement (.andOp d a b p w) := by
  intro hw _
  change decodeSlot (encode (.andOp d a b p w)) = .ok (.andOp d a b p w)
  have he : encode (.andOp d a b p w) = 0x4000009 + d.toNat * 1048576 + a.toNat * 32768 + b.toNat * 1024 + p.toNat * 128 + w.toNat * 64 := rfl
  generalize encode (.andOp d a b p w) = wd at he
  obtain ⟨hm, b0_6, fd, fa, fb, fp, fw⟩ := lay_0c6_20f5_15f5_10f5_7f3_6f1 (M := 2) (c0 := 9) d a b p w rfl (by decide) (by decide) he
  refine slot_of_raw (by rw [hm]; decide) (by rw [hm]; decide) ?_ hw
  rw [raw_02 hm]
  simp [decodeMajor02, b0_6, fd, fa, fb, fp, fw]

theorem orOp (d : BitVec 5) (a : BitVec 5) (b : BitVec 5) (p : BitVec 3) (w : BitVec 1) : Statement (.orOp d a b p w) := by
  intro hw _
  change decodeSlot (encode (.orOp d a b p w)) = .ok (.orOp d a b p w)
  have he : encode (.orOp d a b p w) = 0x400000a + d.toNat * 1048576 + a.toNat * 32768 + b.toNat * 1024 + p.toNat * 128 + w.toNat * 64 := rfl
  generalize encode (.orOp d a b p w) = wd at he
  obtain ⟨hm, b0_6, fd, fa, fb, fp, fw⟩ := lay_0c6_20f5_15f5_10f5_7f3_6f1 (M := 2) (c0 := 10) d a b p w rfl (by decide) (by decide) he
  refine slot_of_raw (by rw [hm]; decide) (by rw [hm]; decide) ?_ hw
  rw [raw_02 hm]
  simp [decodeMajor02, b0_6, fd, fa, fb, fp, fw]

theorem xorOp (d : BitVec 5) (a : BitVec 5) (b : BitVec 5) (p : BitVec 3) (w : BitVec 1) : Statement (.xorOp d a b p w) := by
  intro hw _
  change decodeSlot (encode (.xorOp d a b p w)) = .ok (.xorOp d a b p w)
  have he : encode (.xorOp d a b p w) = 0x400000b + d.toNat * 1048576 + a.toNat * 32768 + b.toNat * 1024 + p.toNat * 128 + w.toNat * 64 := rfl
  generalize encode (.xorOp d a b p w) = wd at he
  obtain ⟨hm, b0_6, fd, fa, fb, fp, fw⟩ := lay_0c6_20f5_15f5_10f5_7f3_6f1 (M := 2) (c0 := 11) d a b p w rfl (by decide) (by decide) he
  refine slot_of_raw (by rw [hm]; decide) (by rw [hm]; decide) ?_ hw
  rw [raw_02 hm]
  simp [decodeMajor02, b0_6, fd, fa, fb, fp, fw]

theorem shl (d : BitVec 5) (a : BitVec 5) (b : BitVec 5) (p : BitVec 3) (w : BitVec 1) : Statement (.shl d a b p w) := by
  intro hw _
  change decodeSlot (encode (.shl d a b p w)) = .ok (.shl d a b p w)
  have he : encode (.shl d a b p w) = 0x400000c + d.toNat * 1048576 + a.toNat * 32768 + b.toNat * 1024 + p.toNat * 128 + w.toNat * 64 := rfl
  generalize encode (.shl d a b p w) = wd at he
  obtain ⟨hm, b0_6, fd, fa, fb, fp, fw⟩ := lay_0c6_20f5_15f5_10f5_7f3_6f1 (M := 2) (c0 := 12) d a b p w rfl (by decide) (by decide) he
  refine slot_of_raw (by rw [hm]; decide) (by rw [hm]; decide) ?_ hw
  rw [raw_02 hm]
  simp [decodeMajor02, b0_6, fd, fa, fb, fp, fw]

theorem shr (d : BitVec 5) (a : BitVec 5) (b : BitVec 5) (p : BitVec 3) (w : BitVec 1) : Statement (.shr d a b p w) := by
  intro hw _
  change decodeSlot (encode (.shr d a b p w)) = .ok (.shr d a b p w)
  have he : encode (.shr d a b p w) = 0x400000d + d.toNat * 1048576 + a.toNat * 32768 + b.toNat * 1024 + p.toNat * 128 + w.toNat * 64 := rfl
  generalize encode (.shr d a b p w) = wd at he
  obtain ⟨hm, b0_6, fd, fa, fb, fp, fw⟩ := lay_0c6_20f5_15f5_10f5_7f3_6f1 (M := 2) (c0 := 13) d a b p w rfl (by decide) (by decide) he
  refine slot_of_raw (by rw [hm]; decide) (by rw [hm]; decide) ?_ hw
  rw [raw_02 hm]
  simp [decodeMajor02, b0_6, fd, fa, fb, fp, fw]

theorem sar (d : BitVec 5) (a : BitVec 5) (b : BitVec 5) (p : BitVec 3) (w : BitVec 1) : Statement (.sar d a b p w) := by
  intro hw _
  change decodeSlot (encode (.sar d a b p w)) = .ok (.sar d a b p w)
  have he : encode (.sar d a b p w) = 0x400000e + d.toNat * 1048576 + a.toNat * 32768 + b.toNat * 1024 + p.toNat * 128 + w.toNat * 64 := rfl
  generalize encode (.sar d a b p w) = wd at he
  obtain ⟨hm, b0_6, fd, fa, fb, fp, fw⟩ := lay_0c6_20f5_15f5_10f5_7f3_6f1 (M := 2) (c0 := 14) d a b p w rfl (by decide) (by decide) he
  refine slot_of_raw (by rw [hm]; decide) (by rw [hm]; decide) ?_ hw
  rw [raw_02 hm]
  simp [decodeMajor02, b0_6, fd, fa, fb, fp, fw]

theorem minOp (d : BitVec 5) (a : BitVec 5) (b : BitVec 5) (p : BitVec 3) (w : BitVec 1) : Statement (.minOp d a b p w) := by
  intro hw _
  change decodeSlot (encode (.minOp d a b p w)) = .ok (.minOp d a b p w)
  have he : encode (.minOp d a b p w) = 0x400000f + d.toNat * 1048576 + a.toNat * 32768 + b.toNat * 1024 + p.toNat * 128 + w.toNat * 64 := rfl
  generalize encode (.minOp d a b p w) = wd at he
  obtain ⟨hm, b0_6, fd, fa, fb, fp, fw⟩ := lay_0c6_20f5_15f5_10f5_7f3_6f1 (M := 2) (c0 := 15) d a b p w rfl (by decide) (by decide) he
  refine slot_of_raw (by rw [hm]; decide) (by rw [hm]; decide) ?_ hw
  rw [raw_02 hm]
  simp [decodeMajor02, b0_6, fd, fa, fb, fp, fw]

theorem maxOp (d : BitVec 5) (a : BitVec 5) (b : BitVec 5) (p : BitVec 3) (w : BitVec 1) : Statement (.maxOp d a b p w) := by
  intro hw _
  change decodeSlot (encode (.maxOp d a b p w)) = .ok (.maxOp d a b p w)
  have he : encode (.maxOp d a b p w) = 0x4000010 + d.toNat * 1048576 + a.toNat * 32768 + b.toNat * 1024 + p.toNat * 128 + w.toNat * 64 := rfl
  generalize encode (.maxOp d a b p w) = wd at he
  obtain ⟨hm, b0_6, fd, fa, fb, fp, fw⟩ := lay_0c6_20f5_15f5_10f5_7f3_6f1 (M := 2) (c0 := 16) d a b p w rfl (by decide) (by decide) he
  refine slot_of_raw (by rw [hm]; decide) (by rw [hm]; decide) ?_ hw
  rw [raw_02 hm]
  simp [decodeMajor02, b0_6, fd, fa, fb, fp, fw]

theorem minn (d : BitVec 5) (a : BitVec 5) (b : BitVec 5) (p : BitVec 3) (w : BitVec 1) : Statement (.minn d a b p w) := by
  intro hw _
  change decodeSlot (encode (.minn d a b p w)) = .ok (.minn d a b p w)
  have he : encode (.minn d a b p w) = 0x4000011 + d.toNat * 1048576 + a.toNat * 32768 + b.toNat * 1024 + p.toNat * 128 + w.toNat * 64 := rfl
  generalize encode (.minn d a b p w) = wd at he
  obtain ⟨hm, b0_6, fd, fa, fb, fp, fw⟩ := lay_0c6_20f5_15f5_10f5_7f3_6f1 (M := 2) (c0 := 17) d a b p w rfl (by decide) (by decide) he
  refine slot_of_raw (by rw [hm]; decide) (by rw [hm]; decide) ?_ hw
  rw [raw_02 hm]
  simp [decodeMajor02, b0_6, fd, fa, fb, fp, fw]

theorem maxn (d : BitVec 5) (a : BitVec 5) (b : BitVec 5) (p : BitVec 3) (w : BitVec 1) : Statement (.maxn d a b p w) := by
  intro hw _
  change decodeSlot (encode (.maxn d a b p w)) = .ok (.maxn d a b p w)
  have he : encode (.maxn d a b p w) = 0x4000012 + d.toNat * 1048576 + a.toNat * 32768 + b.toNat * 1024 + p.toNat * 128 + w.toNat * 64 := rfl
  generalize encode (.maxn d a b p w) = wd at he
  obtain ⟨hm, b0_6, fd, fa, fb, fp, fw⟩ := lay_0c6_20f5_15f5_10f5_7f3_6f1 (M := 2) (c0 := 18) d a b p w rfl (by decide) (by decide) he
  refine slot_of_raw (by rw [hm]; decide) (by rw [hm]; decide) ?_ hw
  rw [raw_02 hm]
  simp [decodeMajor02, b0_6, fd, fa, fb, fp, fw]

theorem sel (d : BitVec 5) (a : BitVec 5) (b : BitVec 5) (p : BitVec 3) (w : BitVec 1) : Statement (.sel d a b p w) := by
  intro hw _
  change decodeSlot (encode (.sel d a b p w)) = .ok (.sel d a b p w)
  have he : encode (.sel d a b p w) = 0x4000013 + d.toNat * 1048576 + a.toNat * 32768 + b.toNat * 1024 + p.toNat * 128 + w.toNat * 64 := rfl
  generalize encode (.sel d a b p w) = wd at he
  obtain ⟨hm, b0_6, fd, fa, fb, fp, fw⟩ := lay_0c6_20f5_15f5_10f5_7f3_6f1 (M := 2) (c0 := 19) d a b p w rfl (by decide) (by decide) he
  refine slot_of_raw (by rw [hm]; decide) (by rw [hm]; decide) ?_ hw
  rw [raw_02 hm]
  simp [decodeMajor02, b0_6, fd, fa, fb, fp, fw]

theorem crc (d : BitVec 5) (a : BitVec 5) (b : BitVec 5) (p : BitVec 3) (w : BitVec 1) : Statement (.crc d a b p w) := by
  intro hw _
  change decodeSlot (encode (.crc d a b p w)) = .ok (.crc d a b p w)
  have he : encode (.crc d a b p w) = 0x4000014 + d.toNat * 1048576 + a.toNat * 32768 + b.toNat * 1024 + p.toNat * 128 + w.toNat * 64 := rfl
  generalize encode (.crc d a b p w) = wd at he
  obtain ⟨hm, b0_6, fd, fa, fb, fp, fw⟩ := lay_0c6_20f5_15f5_10f5_7f3_6f1 (M := 2) (c0 := 20) d a b p w rfl (by decide) (by decide) he
  refine slot_of_raw (by rw [hm]; decide) (by rw [hm]; decide) ?_ hw
  rw [raw_02 hm]
  simp [decodeMajor02, b0_6, fd, fa, fb, fp, fw]

theorem addi (d : BitVec 5) (a : BitVec 5) (p : BitVec 3) (i : BitVec 12) : Statement (.addi d a p i) := by
  intro hw _
  change decodeSlot (encode (.addi d a p i)) = .ok (.addi d a p i)
  have he : encode (.addi d a p i) = 0x6000000 + d.toNat * 1048576 + a.toNat * 32768 + p.toNat * 4096 + i.toNat := rfl
  generalize encode (.addi d a p i) = wd at he
  obtain ⟨hm, fd, fa, fp, fi⟩ := lay_20f5_15f5_12f3_0f12 (M := 3) d a p i rfl (by decide) he
  refine slot_of_raw (by rw [hm]; decide) (by rw [hm]; decide) ?_ hw
  rw [raw_03 hm]
  simp [decodeMajor03, fd, fa, fp, fi]

theorem andi (d : BitVec 5) (a : BitVec 5) (p : BitVec 3) (i : BitVec 10) : Statement (.andi d a p i) := by
  intro hw _
  change decodeSlot (encode (.andi d a p i)) = .ok (.andi d a p i)
  have he : encode (.andi d a p i) = 0x8000000 + d.toNat * 1048576 + a.toNat * 32768 + p.toNat * 4096 + i.toNat := rfl
  generalize encode (.andi d a p i) = wd at he
  obtain ⟨hm, b10_2, fd, fa, fp, fi⟩ := lay_10c2_20f5_15f5_12f3_0f10 (M := 4) (c0 := 0) d a p i rfl (by decide) (by decide) he
  refine slot_of_raw (by rw [hm]; decide) (by rw [hm]; decide) ?_ hw
  rw [raw_04 hm]
  simp [decodeMajor04, b10_2, fd, fa, fp, fi]

theorem ori (d : BitVec 5) (a : BitVec 5) (p : BitVec 3) (i : BitVec 10) : Statement (.ori d a p i) := by
  intro hw _
  change decodeSlot (encode (.ori d a p i)) = .ok (.ori d a p i)
  have he : encode (.ori d a p i) = 0x8000400 + d.toNat * 1048576 + a.toNat * 32768 + p.toNat * 4096 + i.toNat := rfl
  generalize encode (.ori d a p i) = wd at he
  obtain ⟨hm, b10_2, fd, fa, fp, fi⟩ := lay_10c2_20f5_15f5_12f3_0f10 (M := 4) (c0 := 1) d a p i rfl (by decide) (by decide) he
  refine slot_of_raw (by rw [hm]; decide) (by rw [hm]; decide) ?_ hw
  rw [raw_04 hm]
  simp [decodeMajor04, b10_2, fd, fa, fp, fi]

theorem xori (d : BitVec 5) (a : BitVec 5) (p : BitVec 3) (i : BitVec 10) : Statement (.xori d a p i) := by
  intro hw _
  change decodeSlot (encode (.xori d a p i)) = .ok (.xori d a p i)
  have he : encode (.xori d a p i) = 0x8000800 + d.toNat * 1048576 + a.toNat * 32768 + p.toNat * 4096 + i.toNat := rfl
  generalize encode (.xori d a p i) = wd at he
  obtain ⟨hm, b10_2, fd, fa, fp, fi⟩ := lay_10c2_20f5_15f5_12f3_0f10 (M := 4) (c0 := 2) d a p i rfl (by decide) (by decide) he
  refine slot_of_raw (by rw [hm]; decide) (by rw [hm]; decide) ?_ hw
  rw [raw_04 hm]
  simp [decodeMajor04, b10_2, fd, fa, fp, fi]

theorem shli (d : BitVec 5) (a : BitVec 5) (p : BitVec 3) (c : BitVec 6) : Statement (.shli d a p c) := by
  intro hw _
  change decodeSlot (encode (.shli d a p c)) = .ok (.shli d a p c)
  have he : encode (.shli d a p c) = 0xa000000 + d.toNat * 1048576 + a.toNat * 32768 + p.toNat * 4096 + c.toNat := rfl
  generalize encode (.shli d a p c) = wd at he
  obtain ⟨hm, b6_6, fd, fa, fp, fc⟩ := lay_6c6_20f5_15f5_12f3_0f6 (M := 5) (c0 := 0) d a p c rfl (by decide) (by decide) he
  refine slot_of_raw (by rw [hm]; decide) (by rw [hm]; decide) ?_ hw
  rw [raw_05 hm]
  simp [decodeMajor05, b6_6, fd, fa, fp, fc]

theorem shri (d : BitVec 5) (a : BitVec 5) (p : BitVec 3) (c : BitVec 6) : Statement (.shri d a p c) := by
  intro hw _
  change decodeSlot (encode (.shri d a p c)) = .ok (.shri d a p c)
  have he : encode (.shri d a p c) = 0xa000400 + d.toNat * 1048576 + a.toNat * 32768 + p.toNat * 4096 + c.toNat := rfl
  generalize encode (.shri d a p c) = wd at he
  obtain ⟨hm, b6_6, fd, fa, fp, fc⟩ := lay_6c6_20f5_15f5_12f3_0f6 (M := 5) (c0 := 16) d a p c rfl (by decide) (by decide) he
  refine slot_of_raw (by rw [hm]; decide) (by rw [hm]; decide) ?_ hw
  rw [raw_05 hm]
  simp [decodeMajor05, b6_6, fd, fa, fp, fc]

theorem sari (d : BitVec 5) (a : BitVec 5) (p : BitVec 3) (c : BitVec 6) : Statement (.sari d a p c) := by
  intro hw _
  change decodeSlot (encode (.sari d a p c)) = .ok (.sari d a p c)
  have he : encode (.sari d a p c) = 0xa000800 + d.toNat * 1048576 + a.toNat * 32768 + p.toNat * 4096 + c.toNat := rfl
  generalize encode (.sari d a p c) = wd at he
  obtain ⟨hm, b6_6, fd, fa, fp, fc⟩ := lay_6c6_20f5_15f5_12f3_0f6 (M := 5) (c0 := 32) d a p c rfl (by decide) (by decide) he
  refine slot_of_raw (by rw [hm]; decide) (by rw [hm]; decide) ?_ hw
  rw [raw_05 hm]
  simp [decodeMajor05, b6_6, fd, fa, fp, fc]

theorem movi (d : BitVec 5) (p : BitVec 3) (i : BitVec 12) : Statement (.movi d p i) := by
  intro hw _
  change decodeSlot (encode (.movi d p i)) = .ok (.movi d p i)
  have he : encode (.movi d p i) = 0xc000000 + d.toNat * 1048576 + p.toNat * 4096 + i.toNat := rfl
  generalize encode (.movi d p i) = wd at he
  obtain ⟨hm, b15_5, fd, fp, fi⟩ := lay_15c5_20f5_12f3_0f12 (M := 6) (c0 := 0) d p i rfl (by decide) (by decide) he
  refine slot_of_raw (by rw [hm]; decide) (by rw [hm]; decide) ?_ hw
  rw [raw_06 hm]
  simp [decodeMajor06, b15_5, fd, fp, fi]

theorem movh (d : BitVec 5) (p : BitVec 3) (i : BitVec 12) : Statement (.movh d p i) := by
  intro hw _
  change decodeSlot (encode (.movh d p i)) = .ok (.movh d p i)
  have he : encode (.movh d p i) = 0xc008000 + d.toNat * 1048576 + p.toNat * 4096 + i.toNat := rfl
  generalize encode (.movh d p i) = wd at he
  obtain ⟨hm, b15_5, fd, fp, fi⟩ := lay_15c5_20f5_12f3_0f12 (M := 6) (c0 := 1) d p i rfl (by decide) (by decide) he
  refine slot_of_raw (by rw [hm]; decide) (by rw [hm]; decide) ?_ hw
  rw [raw_06 hm]
  simp [decodeMajor06, b15_5, fd, fp, fi]

theorem clz (d : BitVec 5) (a : BitVec 5) : Statement (.clz d a) := by
  intro hw _
  change decodeSlot (encode (.clz d a)) = .ok (.clz d a)
  have he : encode (.clz d a) = 0xe000000 + d.toNat * 1048576 + a.toNat * 32768 := rfl
  generalize encode (.clz d a) = wd at he
  obtain ⟨hm, b0_15, fd, fa⟩ := lay_0c15_20f5_15f5 (M := 7) (c0 := 0) d a rfl (by decide) (by decide) he
  refine slot_of_raw (by rw [hm]; decide) (by rw [hm]; decide) ?_ hw
  rw [raw_07 hm]
  simp [decodeMajor07, b0_15, fd, fa]

theorem ctz (d : BitVec 5) (a : BitVec 5) : Statement (.ctz d a) := by
  intro hw _
  change decodeSlot (encode (.ctz d a)) = .ok (.ctz d a)
  have he : encode (.ctz d a) = 0xe001000 + d.toNat * 1048576 + a.toNat * 32768 := rfl
  generalize encode (.ctz d a) = wd at he
  obtain ⟨hm, b0_15, fd, fa⟩ := lay_0c15_20f5_15f5 (M := 7) (c0 := 4096) d a rfl (by decide) (by decide) he
  refine slot_of_raw (by rw [hm]; decide) (by rw [hm]; decide) ?_ hw
  rw [raw_07 hm]
  simp [decodeMajor07, b0_15, fd, fa]

theorem popc (d : BitVec 5) (a : BitVec 5) : Statement (.popc d a) := by
  intro hw _
  change decodeSlot (encode (.popc d a)) = .ok (.popc d a)
  have he : encode (.popc d a) = 0xe002000 + d.toNat * 1048576 + a.toNat * 32768 := rfl
  generalize encode (.popc d a) = wd at he
  obtain ⟨hm, b0_15, fd, fa⟩ := lay_0c15_20f5_15f5 (M := 7) (c0 := 8192) d a rfl (by decide) (by decide) he
  refine slot_of_raw (by rw [hm]; decide) (by rw [hm]; decide) ?_ hw
  rw [raw_07 hm]
  simp [decodeMajor07, b0_15, fd, fa]

theorem sext (d : BitVec 5) (a : BitVec 5) (n : BitVec 6) : Statement (.sext d a n) := by
  intro hw _
  change decodeSlot (encode (.sext d a n)) = .ok (.sext d a n)
  have he : encode (.sext d a n) = 0xe003000 + d.toNat * 1048576 + a.toNat * 32768 + n.toNat := rfl
  generalize encode (.sext d a n) = wd at he
  obtain ⟨hm, b6_9, fd, fa, fn⟩ := lay_6c9_20f5_15f5_0f6 (M := 7) (c0 := 192) d a n rfl (by decide) (by decide) he
  have lt_d := d.isLt; have lt_a := a.isLt; have lt_n := n.isLt
  have n0_15_0 : bits wd 0 15 ≠ 0 := by simp only [bits]; omega
  have n0_15_4096 : bits wd 0 15 ≠ 4096 := by simp only [bits]; omega
  have n0_15_8192 : bits wd 0 15 ≠ 8192 := by simp only [bits]; omega
  refine slot_of_raw (by rw [hm]; decide) (by rw [hm]; decide) ?_ hw
  rw [raw_07 hm]
  simp [decodeMajor07, b6_9, n0_15_0, n0_15_4096, n0_15_8192, fd, fa, fn]

theorem zext (d : BitVec 5) (a : BitVec 5) (n : BitVec 6) : Statement (.zext d a n) := by
  intro hw _
  change decodeSlot (encode (.zext d a n)) = .ok (.zext d a n)
  have he : encode (.zext d a n) = 0xe004000 + d.toNat * 1048576 + a.toNat * 32768 + n.toNat := rfl
  generalize encode (.zext d a n) = wd at he
  obtain ⟨hm, b6_9, fd, fa, fn⟩ := lay_6c9_20f5_15f5_0f6 (M := 7) (c0 := 256) d a n rfl (by decide) (by decide) he
  have lt_d := d.isLt; have lt_a := a.isLt; have lt_n := n.isLt
  have n0_15_0 : bits wd 0 15 ≠ 0 := by simp only [bits]; omega
  have n0_15_4096 : bits wd 0 15 ≠ 4096 := by simp only [bits]; omega
  have n0_15_8192 : bits wd 0 15 ≠ 8192 := by simp only [bits]; omega
  refine slot_of_raw (by rw [hm]; decide) (by rw [hm]; decide) ?_ hw
  rw [raw_07 hm]
  simp [decodeMajor07, b6_9, n0_15_0, n0_15_4096, n0_15_8192, fd, fa, fn]

theorem bfx (d : BitVec 5) (a : BitVec 5) (o : BitVec 6) (n : BitVec 6) : Statement (.bfx d a o n) := by
  intro hw _
  change decodeSlot (encode (.bfx d a o n)) = .ok (.bfx d a o n)
  have he : encode (.bfx d a o n) = 0xe005000 + d.toNat * 1048576 + a.toNat * 32768 + o.toNat * 64 + n.toNat := rfl
  generalize encode (.bfx d a o n) = wd at he
  obtain ⟨hm, b12_3, fd, fa, fo, fn⟩ := lay_12c3_20f5_15f5_6f6_0f6 (M := 7) (c0 := 5) d a o n rfl (by decide) (by decide) he
  have lt_d := d.isLt; have lt_a := a.isLt; have lt_o := o.isLt; have lt_n := n.isLt
  have n0_15_0 : bits wd 0 15 ≠ 0 := by simp only [bits]; omega
  have n0_15_4096 : bits wd 0 15 ≠ 4096 := by simp only [bits]; omega
  have n0_15_8192 : bits wd 0 15 ≠ 8192 := by simp only [bits]; omega
  have n6_9_192 : bits wd 6 9 ≠ 192 := by simp only [bits]; omega
  have n6_9_256 : bits wd 6 9 ≠ 256 := by simp only [bits]; omega
  refine slot_of_raw (by rw [hm]; decide) (by rw [hm]; decide) ?_ hw
  rw [raw_07 hm]
  simp [decodeMajor07, b12_3, n0_15_0, n0_15_4096, n0_15_8192, n6_9_192, n6_9_256, fd, fa, fo, fn]

theorem bfi (d : BitVec 5) (a : BitVec 5) (o : BitVec 6) (n : BitVec 6) : Statement (.bfi d a o n) := by
  intro hw _
  change decodeSlot (encode (.bfi d a o n)) = .ok (.bfi d a o n)
  have he : encode (.bfi d a o n) = 0xe006000 + d.toNat * 1048576 + a.toNat * 32768 + o.toNat * 64 + n.toNat := rfl
  generalize encode (.bfi d a o n) = wd at he
  obtain ⟨hm, b12_3, fd, fa, fo, fn⟩ := lay_12c3_20f5_15f5_6f6_0f6 (M := 7) (c0 := 6) d a o n rfl (by decide) (by decide) he
  have lt_d := d.isLt; have lt_a := a.isLt; have lt_o := o.isLt; have lt_n := n.isLt
  have n0_15_0 : bits wd 0 15 ≠ 0 := by simp only [bits]; omega
  have n0_15_4096 : bits wd 0 15 ≠ 4096 := by simp only [bits]; omega
  have n0_15_8192 : bits wd 0 15 ≠ 8192 := by simp only [bits]; omega
  have n6_9_192 : bits wd 6 9 ≠ 192 := by simp only [bits]; omega
  have n6_9_256 : bits wd 6 9 ≠ 256 := by simp only [bits]; omega
  refine slot_of_raw (by rw [hm]; decide) (by rw [hm]; decide) ?_ hw
  rw [raw_07 hm]
  simp [decodeMajor07, b12_3, n0_15_0, n0_15_4096, n0_15_8192, n6_9_192, n6_9_256, fd, fa, fo, fn]

theorem cmp (d : BitVec 3) (c : BitVec 3) (w : BitVec 1) (p : BitVec 3) (a : BitVec 5) (b : BitVec 5) :
    Statement (.cmp d c w p a b) := by
  intro hw _
  change decodeSlot (encode (.cmp d c w p a b)) = .ok (.cmp d c w p a b)
  have he : encode (.cmp d c w p a b) = 0x10000000 + d.toNat * 4194304 + c.toNat * 524288 + w.toNat * 131072 + p.toNat * 16384 + a.toNat * 512 + b.toNat * 16 := rfl
  generalize encode (.cmp d c w p a b) = wd at he
  obtain ⟨hm, b0_4, b18_1, fd, fc, fw, fp, fa, fb⟩ := lay_0c4_18c1_22f3_19f3_17f1_14f3_9f5_4f5 (M := 8) (c0 := 0) (c1 := 0) d c w p a b rfl (by decide) (by decide) (by decide) he
  refine slot_of_raw (by rw [hm]; decide) (by rw [hm]; decide) ?_ hw
  rw [raw_08 hm]
  simp [decodeMajor08, b0_4, b18_1, fd, fc, fw, fp, fa, fb]

theorem cmpi (d : BitVec 3) (c : BitVec 3) (w : BitVec 1) (p : BitVec 3) (a : BitVec 5) (i : BitVec 9) :
    Statement (.cmpi d c w p a i) := by
  intro hw _
  change decodeSlot (encode (.cmpi d c w p a i)) = .ok (.cmpi d c w p a i)
  have he : encode (.cmpi d c w p a i) = 0x10040000 + d.toNat * 4194304 + c.toNat * 524288 + w.toNat * 131072 + p.toNat * 16384 + a.toNat * 512 + i.toNat := rfl
  generalize encode (.cmpi d c w p a i) = wd at he
  obtain ⟨hm, b18_1, fd, fc, fw, fp, fa, fi⟩ := lay_18c1_22f3_19f3_17f1_14f3_9f5_0f9 (M := 8) (c0 := 1) d c w p a i rfl (by decide) (by decide) he
  refine slot_of_raw (by rw [hm]; decide) (by rw [hm]; decide) ?_ hw
  rw [raw_08 hm]
  simp [decodeMajor08, b18_1, fd, fc, fw, fp, fa, fi]

theorem pand (d : BitVec 5) (a : BitVec 5) (b : BitVec 5) (p : BitVec 3) : Statement (.pand d a b p) := by
  intro hw _
  change decodeSlot (encode (.pand d a b p)) = .ok (.pand d a b p)
  have he : encode (.pand d a b p) = 0x12000000 + d.toNat * 1048576 + a.toNat * 32768 + b.toNat * 1024 + p.toNat * 128 := rfl
  generalize encode (.pand d a b p) = wd at he
  obtain ⟨hm, b0_7, fd, fa, fb, fp⟩ := lay_0c7_20f5_15f5_10f5_7f3 (M := 9) (c0 := 0) d a b p rfl (by decide) (by decide) he
  refine slot_of_raw (by rw [hm]; decide) (by rw [hm]; decide) ?_ hw
  rw [raw_09 hm]
  simp [decodeMajor09, b0_7, fd, fa, fb, fp]

theorem por (d : BitVec 5) (a : BitVec 5) (b : BitVec 5) (p : BitVec 3) : Statement (.por d a b p) := by
  intro hw _
  change decodeSlot (encode (.por d a b p)) = .ok (.por d a b p)
  have he : encode (.por d a b p) = 0x12000001 + d.toNat * 1048576 + a.toNat * 32768 + b.toNat * 1024 + p.toNat * 128 := rfl
  generalize encode (.por d a b p) = wd at he
  obtain ⟨hm, b0_7, fd, fa, fb, fp⟩ := lay_0c7_20f5_15f5_10f5_7f3 (M := 9) (c0 := 1) d a b p rfl (by decide) (by decide) he
  refine slot_of_raw (by rw [hm]; decide) (by rw [hm]; decide) ?_ hw
  rw [raw_09 hm]
  simp [decodeMajor09, b0_7, fd, fa, fb, fp]

theorem pxor (d : BitVec 5) (a : BitVec 5) (b : BitVec 5) (p : BitVec 3) : Statement (.pxor d a b p) := by
  intro hw _
  change decodeSlot (encode (.pxor d a b p)) = .ok (.pxor d a b p)
  have he : encode (.pxor d a b p) = 0x12000002 + d.toNat * 1048576 + a.toNat * 32768 + b.toNat * 1024 + p.toNat * 128 := rfl
  generalize encode (.pxor d a b p) = wd at he
  obtain ⟨hm, b0_7, fd, fa, fb, fp⟩ := lay_0c7_20f5_15f5_10f5_7f3 (M := 9) (c0 := 2) d a b p rfl (by decide) (by decide) he
  refine slot_of_raw (by rw [hm]; decide) (by rw [hm]; decide) ?_ hw
  rw [raw_09 hm]
  simp [decodeMajor09, b0_7, fd, fa, fb, fp]

theorem pnot (d : BitVec 5) (a : BitVec 5) (p : BitVec 3) : Statement (.pnot d a p) := by
  intro hw _
  change decodeSlot (encode (.pnot d a p)) = .ok (.pnot d a p)
  have he : encode (.pnot d a p) = 0x12000003 + d.toNat * 1048576 + a.toNat * 32768 + p.toNat * 128 := rfl
  generalize encode (.pnot d a p) = wd at he
  obtain ⟨hm, b0_7, b10_5, fd, fa, fp⟩ := lay_0c7_10c5_20f5_15f5_7f3 (M := 9) (c0 := 3) (c1 := 0) d a p rfl (by decide) (by decide) (by decide) he
  refine slot_of_raw (by rw [hm]; decide) (by rw [hm]; decide) ?_ hw
  rw [raw_09 hm]
  simp [decodeMajor09, b0_7, b10_5, fd, fa, fp]

theorem pmov (d : BitVec 5) (a : BitVec 5) (p : BitVec 3) : Statement (.pmov d a p) := by
  intro hw _
  change decodeSlot (encode (.pmov d a p)) = .ok (.pmov d a p)
  have he : encode (.pmov d a p) = 0x12000004 + d.toNat * 1048576 + a.toNat * 32768 + p.toNat * 128 := rfl
  generalize encode (.pmov d a p) = wd at he
  obtain ⟨hm, b0_7, b10_5, fd, fa, fp⟩ := lay_0c7_10c5_20f5_15f5_7f3 (M := 9) (c0 := 4) (c1 := 0) d a p rfl (by decide) (by decide) (by decide) he
  refine slot_of_raw (by rw [hm]; decide) (by rw [hm]; decide) ?_ hw
  rw [raw_09 hm]
  simp [decodeMajor09, b0_7, b10_5, fd, fa, fp]

theorem mand (d : BitVec 5) (a : BitVec 5) (b : BitVec 5) (p : BitVec 3) : Statement (.mand d a b p) := by
  intro hw _
  change decodeSlot (encode (.mand d a b p)) = .ok (.mand d a b p)
  have he : encode (.mand d a b p) = 0x12000005 + d.toNat * 1048576 + a.toNat * 32768 + b.toNat * 1024 + p.toNat * 128 := rfl
  generalize encode (.mand d a b p) = wd at he
  obtain ⟨hm, b0_7, fd, fa, fb, fp⟩ := lay_0c7_20f5_15f5_10f5_7f3 (M := 9) (c0 := 5) d a b p rfl (by decide) (by decide) he
  refine slot_of_raw (by rw [hm]; decide) (by rw [hm]; decide) ?_ hw
  rw [raw_09 hm]
  simp [decodeMajor09, b0_7, fd, fa, fb, fp]

theorem mor (d : BitVec 5) (a : BitVec 5) (b : BitVec 5) (p : BitVec 3) : Statement (.mor d a b p) := by
  intro hw _
  change decodeSlot (encode (.mor d a b p)) = .ok (.mor d a b p)
  have he : encode (.mor d a b p) = 0x12000006 + d.toNat * 1048576 + a.toNat * 32768 + b.toNat * 1024 + p.toNat * 128 := rfl
  generalize encode (.mor d a b p) = wd at he
  obtain ⟨hm, b0_7, fd, fa, fb, fp⟩ := lay_0c7_20f5_15f5_10f5_7f3 (M := 9) (c0 := 6) d a b p rfl (by decide) (by decide) he
  refine slot_of_raw (by rw [hm]; decide) (by rw [hm]; decide) ?_ hw
  rw [raw_09 hm]
  simp [decodeMajor09, b0_7, fd, fa, fb, fp]

theorem mxor (d : BitVec 5) (a : BitVec 5) (b : BitVec 5) (p : BitVec 3) : Statement (.mxor d a b p) := by
  intro hw _
  change decodeSlot (encode (.mxor d a b p)) = .ok (.mxor d a b p)
  have he : encode (.mxor d a b p) = 0x12000007 + d.toNat * 1048576 + a.toNat * 32768 + b.toNat * 1024 + p.toNat * 128 := rfl
  generalize encode (.mxor d a b p) = wd at he
  obtain ⟨hm, b0_7, fd, fa, fb, fp⟩ := lay_0c7_20f5_15f5_10f5_7f3 (M := 9) (c0 := 7) d a b p rfl (by decide) (by decide) he
  refine slot_of_raw (by rw [hm]; decide) (by rw [hm]; decide) ?_ hw
  rw [raw_09 hm]
  simp [decodeMajor09, b0_7, fd, fa, fb, fp]

theorem mnot (d : BitVec 5) (a : BitVec 5) (p : BitVec 3) : Statement (.mnot d a p) := by
  intro hw _
  change decodeSlot (encode (.mnot d a p)) = .ok (.mnot d a p)
  have he : encode (.mnot d a p) = 0x12000008 + d.toNat * 1048576 + a.toNat * 32768 + p.toNat * 128 := rfl
  generalize encode (.mnot d a p) = wd at he
  obtain ⟨hm, b0_7, b10_5, fd, fa, fp⟩ := lay_0c7_10c5_20f5_15f5_7f3 (M := 9) (c0 := 8) (c1 := 0) d a p rfl (by decide) (by decide) (by decide) he
  refine slot_of_raw (by rw [hm]; decide) (by rw [hm]; decide) ?_ hw
  rw [raw_09 hm]
  simp [decodeMajor09, b0_7, b10_5, fd, fa, fp]

theorem mpop (d : BitVec 5) (a : BitVec 5) (p : BitVec 3) : Statement (.mpop d a p) := by
  intro hw _
  change decodeSlot (encode (.mpop d a p)) = .ok (.mpop d a p)
  have he : encode (.mpop d a p) = 0x12000009 + d.toNat * 1048576 + a.toNat * 32768 + p.toNat * 128 := rfl
  generalize encode (.mpop d a p) = wd at he
  obtain ⟨hm, b0_7, b10_5, fd, fa, fp⟩ := lay_0c7_10c5_20f5_15f5_7f3 (M := 9) (c0 := 9) (c1 := 0) d a p rfl (by decide) (by decide) (by decide) he
  refine slot_of_raw (by rw [hm]; decide) (by rw [hm]; decide) ?_ hw
  rw [raw_09 hm]
  simp [decodeMajor09, b0_7, b10_5, fd, fa, fp]

theorem mfirst (d : BitVec 5) (a : BitVec 5) (p : BitVec 3) : Statement (.mfirst d a p) := by
  intro hw _
  change decodeSlot (encode (.mfirst d a p)) = .ok (.mfirst d a p)
  have he : encode (.mfirst d a p) = 0x1200000a + d.toNat * 1048576 + a.toNat * 32768 + p.toNat * 128 := rfl
  generalize encode (.mfirst d a p) = wd at he
  obtain ⟨hm, b0_7, b10_5, fd, fa, fp⟩ := lay_0c7_10c5_20f5_15f5_7f3 (M := 9) (c0 := 10) (c1 := 0) d a p rfl (by decide) (by decide) (by decide) he
  refine slot_of_raw (by rw [hm]; decide) (by rw [hm]; decide) ?_ hw
  rw [raw_09 hm]
  simp [decodeMajor09, b0_7, b10_5, fd, fa, fp]

theorem mset (d : BitVec 5) (a : BitVec 5) (p : BitVec 3) : Statement (.mset d a p) := by
  intro hw _
  change decodeSlot (encode (.mset d a p)) = .ok (.mset d a p)
  have he : encode (.mset d a p) = 0x1200000b + d.toNat * 1048576 + a.toNat * 32768 + p.toNat * 128 := rfl
  generalize encode (.mset d a p) = wd at he
  obtain ⟨hm, b0_7, b10_5, fd, fa, fp⟩ := lay_0c7_10c5_20f5_15f5_7f3 (M := 9) (c0 := 11) (c1 := 0) d a p rfl (by decide) (by decide) (by decide) he
  refine slot_of_raw (by rw [hm]; decide) (by rw [hm]; decide) ?_ hw
  rw [raw_09 hm]
  simp [decodeMajor09, b0_7, b10_5, fd, fa, fp]

theorem xcp (d : BitVec 5) (a : BitVec 5) (k : BitVec 2) (p : BitVec 3) : Statement (.xcp d a k p) := by
  intro hw _
  change decodeSlot (encode (.xcp d a k p)) = .ok (.xcp d a k p)
  have he : encode (.xcp d a k p) = 0x14000000 + d.toNat * 1048576 + a.toNat * 32768 + k.toNat * 8192 + p.toNat * 1024 := rfl
  generalize encode (.xcp d a k p) = wd at he
  obtain ⟨hm, b0_10, fd, fa, fk, fp⟩ := lay_0c10_20f5_15f5_13f2_10f3 (M := 10) (c0 := 0) d a k p rfl (by decide) (by decide) he
  refine slot_of_raw (by rw [hm]; decide) (by rw [hm]; decide) ?_ hw
  rw [raw_0A hm]
  simp [decodeMajor0A, b0_10, fd, fa, fk, fp]

theorem xcpv (d : BitVec 5) (a : BitVec 5) (k : BitVec 2) (p : BitVec 3) : Statement (.xcpv d a k p) := by
  intro hw _
  change decodeSlot (encode (.xcpv d a k p)) = .ok (.xcpv d a k p)
  have he : encode (.xcpv d a k p) = 0x14000001 + d.toNat * 1048576 + a.toNat * 32768 + k.toNat * 8192 + p.toNat * 1024 := rfl
  generalize encode (.xcpv d a k p) = wd at he
  obtain ⟨hm, b0_10, fd, fa, fk, fp⟩ := lay_0c10_20f5_15f5_13f2_10f3 (M := 10) (c0 := 1) d a k p rfl (by decide) (by decide) he
  refine slot_of_raw (by rw [hm]; decide) (by rw [hm]; decide) ?_ hw
  rw [raw_0A hm]
  simp [decodeMajor0A, b0_10, fd, fa, fk, fp]

theorem xcpm (d : BitVec 5) (a : BitVec 5) (k : BitVec 2) (p : BitVec 3) : Statement (.xcpm d a k p) := by
  intro hw _
  change decodeSlot (encode (.xcpm d a k p)) = .ok (.xcpm d a k p)
  have he : encode (.xcpm d a k p) = 0x14000002 + d.toNat * 1048576 + a.toNat * 32768 + k.toNat * 8192 + p.toNat * 1024 := rfl
  generalize encode (.xcpm d a k p) = wd at he
  obtain ⟨hm, b0_10, fd, fa, fk, fp⟩ := lay_0c10_20f5_15f5_13f2_10f3 (M := 10) (c0 := 2) d a k p rfl (by decide) (by decide) he
  refine slot_of_raw (by rw [hm]; decide) (by rw [hm]; decide) ?_ hw
  rw [raw_0A hm]
  simp [decodeMajor0A, b0_10, fd, fa, fk, fp]

theorem xcpw (d : BitVec 5) (a : BitVec 5) (k : BitVec 2) (p : BitVec 3) : Statement (.xcpw d a k p) := by
  intro hw _
  change decodeSlot (encode (.xcpw d a k p)) = .ok (.xcpw d a k p)
  have he : encode (.xcpw d a k p) = 0x14000003 + d.toNat * 1048576 + a.toNat * 32768 + k.toNat * 8192 + p.toNat * 1024 := rfl
  generalize encode (.xcpw d a k p) = wd at he
  obtain ⟨hm, b0_10, fd, fa, fk, fp⟩ := lay_0c10_20f5_15f5_13f2_10f3 (M := 10) (c0 := 3) d a k p rfl (by decide) (by decide) he
  refine slot_of_raw (by rw [hm]; decide) (by rw [hm]; decide) ?_ hw
  rw [raw_0A hm]
  simp [decodeMajor0A, b0_10, fd, fa, fk, fp]

theorem aadd (d : BitVec 5) (a : BitVec 5) (p : BitVec 3) (b : BitVec 5) : Statement (.aadd d a p b) := by
  intro hw _
  change decodeSlot (encode (.aadd d a p b)) = .ok (.aadd d a p b)
  have he : encode (.aadd d a p b) = 0x16000000 + d.toNat * 1048576 + a.toNat * 32768 + p.toNat * 4096 + b.toNat * 16 := rfl
  generalize encode (.aadd d a p b) = wd at he
  obtain ⟨hm, b0_4, b9_3, fd, fa, fp, fb⟩ := lay_0c4_9c3_20f5_15f5_12f3_4f5 (M := 11) (c0 := 0) (c1 := 0) d a p b rfl (by decide) (by decide) (by decide) he
  refine slot_of_raw (by rw [hm]; decide) (by rw [hm]; decide) ?_ hw
  rw [raw_0B hm]
  simp [decodeMajor0B, b0_4, b9_3, fd, fa, fp, fb]

theorem aaddImm (d : BitVec 5) (a : BitVec 5) (p : BitVec 3) (i : BitVec 9) : Statement (.aaddImm d a p i) := by
  intro hw _
  change decodeSlot (encode (.aaddImm d a p i)) = .ok (.aaddImm d a p i)
  have he : encode (.aaddImm d a p i) = 0x16000200 + d.toNat * 1048576 + a.toNat * 32768 + p.toNat * 4096 + i.toNat := rfl
  generalize encode (.aaddImm d a p i) = wd at he
  obtain ⟨hm, b9_3, fd, fa, fp, fi⟩ := lay_9c3_20f5_15f5_12f3_0f9 (M := 11) (c0 := 1) d a p i rfl (by decide) (by decide) he
  refine slot_of_raw (by rw [hm]; decide) (by rw [hm]; decide) ?_ hw
  rw [raw_0B hm]
  simp [decodeMajor0B, b9_3, fd, fa, fp, fi]

theorem amov (d : BitVec 5) (a : BitVec 5) (p : BitVec 3) : Statement (.amov d a p) := by
  intro hw _
  change decodeSlot (encode (.amov d a p)) = .ok (.amov d a p)
  have he : encode (.amov d a p) = 0x16000400 + d.toNat * 1048576 + a.toNat * 32768 + p.toNat * 4096 := rfl
  generalize encode (.amov d a p) = wd at he
  obtain ⟨hm, b0_12, fd, fa, fp⟩ := lay_0c12_20f5_15f5_12f3 (M := 11) (c0 := 1024) d a p rfl (by decide) (by decide) he
  have lt_d := d.isLt; have lt_a := a.isLt; have lt_p := p.isLt
  have b9_3 : bits wd 9 3 = 2 := by simp only [bits]; omega
  refine slot_of_raw (by rw [hm]; decide) (by rw [hm]; decide) ?_ hw
  rw [raw_0B hm]
  simp [decodeMajor0B, b0_12, b9_3, fd, fa, fp]

theorem aread (d : BitVec 5) (a : BitVec 5) (p : BitVec 3) : Statement (.aread d a p) := by
  intro hw _
  change decodeSlot (encode (.aread d a p)) = .ok (.aread d a p)
  have he : encode (.aread d a p) = 0x16000600 + d.toNat * 1048576 + a.toNat * 32768 + p.toNat * 4096 := rfl
  generalize encode (.aread d a p) = wd at he
  obtain ⟨hm, b0_12, fd, fa, fp⟩ := lay_0c12_20f5_15f5_12f3 (M := 11) (c0 := 1536) d a p rfl (by decide) (by decide) he
  have lt_d := d.isLt; have lt_a := a.isLt; have lt_p := p.isLt
  have b9_3 : bits wd 9 3 = 3 := by simp only [bits]; omega
  refine slot_of_raw (by rw [hm]; decide) (by rw [hm]; decide) ?_ hw
  rw [raw_0B hm]
  simp [decodeMajor0B, b0_12, b9_3, fd, fa, fp]

theorem luset (d : BitVec 5) (a : BitVec 5) (p : BitVec 3) (l : BitVec 3) : Statement (.luset d a p l) := by
  intro hw _
  change decodeSlot (encode (.luset d a p l)) = .ok (.luset d a p l)
  have he : encode (.luset d a p l) = 0x16000800 + d.toNat * 1048576 + a.toNat * 32768 + p.toNat * 4096 + l.toNat * 64 := rfl
  generalize encode (.luset d a p l) = wd at he
  obtain ⟨hm, b0_6, b9_3, fd, fa, fp, fl⟩ := lay_0c6_9c3_20f5_15f5_12f3_6f3 (M := 11) (c0 := 0) (c1 := 4) d a p l rfl (by decide) (by decide) (by decide) he
  have lt_d := d.isLt; have lt_a := a.isLt; have lt_p := p.isLt; have lt_l := l.isLt
  have n0_12_1024 : bits wd 0 12 ≠ 1024 := by simp only [bits]; omega
  have n0_12_1536 : bits wd 0 12 ≠ 1536 := by simp only [bits]; omega
  refine slot_of_raw (by rw [hm]; decide) (by rw [hm]; decide) ?_ hw
  rw [raw_0B hm]
  simp [decodeMajor0B, b0_6, b9_3, n0_12_1024, n0_12_1536, fd, fa, fp, fl]

theorem lurd (d : BitVec 5) (a : BitVec 5) (p : BitVec 3) (l : BitVec 3) : Statement (.lurd d a p l) := by
  intro hw _
  change decodeSlot (encode (.lurd d a p l)) = .ok (.lurd d a p l)
  have he : encode (.lurd d a p l) = 0x16000a00 + d.toNat * 1048576 + a.toNat * 32768 + p.toNat * 4096 + l.toNat * 64 := rfl
  generalize encode (.lurd d a p l) = wd at he
  obtain ⟨hm, b0_6, b9_3, fd, fa, fp, fl⟩ := lay_0c6_9c3_20f5_15f5_12f3_6f3 (M := 11) (c0 := 0) (c1 := 5) d a p l rfl (by decide) (by decide) (by decide) he
  have lt_d := d.isLt; have lt_a := a.isLt; have lt_p := p.isLt; have lt_l := l.isLt
  have n0_12_1024 : bits wd 0 12 ≠ 1024 := by simp only [bits]; omega
  have n0_12_1536 : bits wd 0 12 ≠ 1536 := by simp only [bits]; omega
  refine slot_of_raw (by rw [hm]; decide) (by rw [hm]; decide) ?_ hw
  rw [raw_0B hm]
  simp [decodeMajor0B, b0_6, b9_3, n0_12_1024, n0_12_1536, fd, fa, fp, fl]

theorem br (p : BitVec 3) (o : BitVec 21) : Statement (.br p o) := by
  intro hw _
  change decodeSlot (encode (.br p o)) = .ok (.br p o)
  have he : encode (.br p o) = 0x18000000 + p.toNat * 2097152 + o.toNat := rfl
  generalize encode (.br p o) = wd at he
  obtain ⟨hm, b24_1, fp, fo⟩ := lay_24c1_21f3_0f21 (M := 12) (c0 := 0) p o rfl (by decide) (by decide) he
  refine slot_of_raw (by rw [hm]; decide) (by rw [hm]; decide) ?_ hw
  rw [raw_0C hm]
  simp [decodeMajor0C, b24_1, fp, fo]

theorem call (p : BitVec 3) (o : BitVec 21) : Statement (.call p o) := by
  intro hw _
  change decodeSlot (encode (.call p o)) = .ok (.call p o)
  have he : encode (.call p o) = 0x19000000 + p.toNat * 2097152 + o.toNat := rfl
  generalize encode (.call p o) = wd at he
  obtain ⟨hm, b24_1, fp, fo⟩ := lay_24c1_21f3_0f21 (M := 12) (c0 := 1) p o rfl (by decide) (by decide) he
  refine slot_of_raw (by rw [hm]; decide) (by rw [hm]; decide) ?_ hw
  rw [raw_0C hm]
  simp [decodeMajor0C, b24_1, fp, fo]

theorem jr (p : BitVec 3) (a : BitVec 5) : Statement (.jr p a) := by
  intro hw _
  change decodeSlot (encode (.jr p a)) = .ok (.jr p a)
  have he : encode (.jr p a) = 0x1a000000 + p.toNat * 1048576 + a.toNat * 32768 := rfl
  generalize encode (.jr p a) = wd at he
  obtain ⟨hm, b0_15, b23_2, fp, fa⟩ := lay_0c15_23c2_20f3_15f5 (M := 13) (c0 := 0) (c1 := 0) p a rfl (by decide) (by decide) (by decide) he
  refine slot_of_raw (by rw [hm]; decide) (by rw [hm]; decide) ?_ hw
  rw [raw_0D hm]
  simp [decodeMajor0D, b0_15, b23_2, fp, fa]

theorem ret (p : BitVec 3) : Statement (.ret p) := by
  intro hw _
  change decodeSlot (encode (.ret p)) = .ok (.ret p)
  have he : encode (.ret p) = 0x1a800000 + p.toNat * 1048576 := rfl
  generalize encode (.ret p) = wd at he
  obtain ⟨hm, b0_20, b23_2, fp⟩ := lay_0c20_23c2_20f3 (M := 13) (c0 := 0) (c1 := 1) p rfl (by decide) (by decide) (by decide) he
  refine slot_of_raw (by rw [hm]; decide) (by rw [hm]; decide) ?_ hw
  rw [raw_0D hm]
  simp [decodeMajor0D, b0_20, b23_2, fp]

theorem bswap (p : BitVec 3) (a : BitVec 5) : Statement (.bswap p a) := by
  intro hw _
  change decodeSlot (encode (.bswap p a)) = .ok (.bswap p a)
  have he : encode (.bswap p a) = 0x1b000000 + p.toNat * 1048576 + a.toNat * 32768 := rfl
  generalize encode (.bswap p a) = wd at he
  obtain ⟨hm, b0_15, b23_2, fp, fa⟩ := lay_0c15_23c2_20f3_15f5 (M := 13) (c0 := 0) (c1 := 2) p a rfl (by decide) (by decide) (by decide) he
  refine slot_of_raw (by rw [hm]; decide) (by rw [hm]; decide) ?_ hw
  rw [raw_0D hm]
  simp [decodeMajor0D, b0_15, b23_2, fp, fa]

theorem loop (a : BitVec 5) (e : BitVec 15) : Statement (.loop a e) := by
  intro hw _
  change decodeSlot (encode (.loop a e)) = .ok (.loop a e)
  have he : encode (.loop a e) = 0x1c000000 + a.toNat * 32768 + e.toNat := rfl
  generalize encode (.loop a e) = wd at he
  obtain ⟨hm, b20_5, fa, fe⟩ := lay_20c5_15f5_0f15 (M := 14) (c0 := 0) a e rfl (by decide) (by decide) he
  refine slot_of_raw (by rw [hm]; decide) (by rw [hm]; decide) ?_ hw
  rw [raw_0E hm]
  simp [decodeMajor0E, b20_5, fa, fe]

theorem loopi (n : BitVec 10) (e : BitVec 10) : Statement (.loopi n e) := by
  intro hw _
  change decodeSlot (encode (.loopi n e)) = .ok (.loopi n e)
  have he : encode (.loopi n e) = 0x1c800000 + n.toNat * 1024 + e.toNat := rfl
  generalize encode (.loopi n e) = wd at he
  obtain ⟨hm, b20_5, fn, fe⟩ := lay_20c5_10f10_0f10 (M := 14) (c0 := 8) n e rfl (by decide) (by decide) he
  refine slot_of_raw (by rw [hm]; decide) (by rw [hm]; decide) ?_ hw
  rw [raw_0E hm]
  simp [decodeMajor0E, b20_5, fn, fe]

theorem lbrk (p : BitVec 3) : Statement (.lbrk p) := by
  intro hw _
  change decodeSlot (encode (.lbrk p)) = .ok (.lbrk p)
  have he : encode (.lbrk p) = 0x1d000000 + p.toNat * 1048576 := rfl
  generalize encode (.lbrk p) = wd at he
  obtain ⟨hm, b0_20, b23_2, fp⟩ := lay_0c20_23c2_20f3 (M := 14) (c0 := 0) (c1 := 2) p rfl (by decide) (by decide) (by decide) he
  have lt_p := p.isLt
  have n20_5_0 : bits wd 20 5 ≠ 0 := by simp only [bits]; omega
  have n20_5_8 : bits wd 20 5 ≠ 8 := by simp only [bits]; omega
  refine slot_of_raw (by rw [hm]; decide) (by rw [hm]; decide) ?_ hw
  rw [raw_0E hm]
  simp [decodeMajor0E, b0_20, b23_2, n20_5_0, n20_5_8, fp]

theorem lidx (d : BitVec 5) (k : BitVec 3) : Statement (.lidx d k) := by
  intro hw _
  change decodeSlot (encode (.lidx d k)) = .ok (.lidx d k)
  have he : encode (.lidx d k) = 0x1d800000 + d.toNat * 32768 + k.toNat * 4096 := rfl
  generalize encode (.lidx d k) = wd at he
  obtain ⟨hm, b0_12, b20_5, fd, fk⟩ := lay_0c12_20c5_15f5_12f3 (M := 14) (c0 := 0) (c1 := 24) d k rfl (by decide) (by decide) (by decide) he
  have lt_d := d.isLt; have lt_k := k.isLt
  have b23_2 : bits wd 23 2 = 3 := by simp only [bits]; omega
  refine slot_of_raw (by rw [hm]; decide) (by rw [hm]; decide) ?_ hw
  rw [raw_0E hm]
  simp [decodeMajor0E, b0_12, b20_5, b23_2, fd, fk]

theorem tack : Statement (.tack) := by
  intro hw _
  change decodeSlot (encode (.tack)) = .ok (.tack)
  have he : encode (.tack) = 0x1e000000 := rfl
  generalize encode (.tack) = wd at he
  obtain ⟨hm, b0_25⟩ := lay_0c25 (M := 15) (c0 := 0) rfl (by decide) (by decide) he
  refine slot_of_raw (by rw [hm]; decide) (by rw [hm]; decide) ?_ hw
  rw [raw_0F hm]
  simp [decodeMajor0F, b0_25]

theorem seam (i : BitVec 16) : Statement (.seam i) := by
  intro hw _
  change decodeSlot (encode (.seam i)) = .ok (.seam i)
  have he : encode (.seam i) = 0x1e800000 + i.toNat := rfl
  generalize encode (.seam i) = wd at he
  obtain ⟨hm, b16_9, fi⟩ := lay_16c9_0f16 (M := 15) (c0 := 128) i rfl (by decide) (by decide) he
  have lt_i := i.isLt
  have n0_25_0 : bits wd 0 25 ≠ 0 := by simp only [bits]; omega
  refine slot_of_raw (by rw [hm]; decide) (by rw [hm]; decide) ?_ hw
  rw [raw_0F hm]
  simp [decodeMajor0F, b16_9, n0_25_0, fi]

theorem notch (n : BitVec 16) : Statement (.notch n) := by
  intro hw _
  change decodeSlot (encode (.notch n)) = .ok (.notch n)
  have he : encode (.notch n) = 0x1f000000 + n.toNat := rfl
  generalize encode (.notch n) = wd at he
  obtain ⟨hm, b16_9, fn⟩ := lay_16c9_0f16 (M := 15) (c0 := 256) n rfl (by decide) (by decide) he
  have lt_n := n.isLt
  have n0_25_0 : bits wd 0 25 ≠ 0 := by simp only [bits]; omega
  refine slot_of_raw (by rw [hm]; decide) (by rw [hm]; decide) ?_ hw
  rw [raw_0F hm]
  simp [decodeMajor0F, b16_9, n0_25_0, fn]

theorem ifence : Statement (.ifence) := by
  intro hw _
  change decodeSlot (encode (.ifence)) = .ok (.ifence)
  have he : encode (.ifence) = 0x1f800000 := rfl
  generalize encode (.ifence) = wd at he
  obtain ⟨hm, b0_25⟩ := lay_0c25 (M := 15) (c0 := 25165824) rfl (by decide) (by decide) he
  have b16_9 : bits wd 16 9 = 384 := by simp only [bits]; omega
  refine slot_of_raw (by rw [hm]; decide) (by rw [hm]; decide) ?_ hw
  rw [raw_0F hm]
  simp [decodeMajor0F, b0_25, b16_9]

theorem chkEq (a : BitVec 5) (b : BitVec 5) (p : BitVec 3) : Statement (.chkEq a b p) := by
  intro hw _
  change decodeSlot (encode (.chkEq a b p)) = .ok (.chkEq a b p)
  have he : encode (.chkEq a b p) = 0x20000000 + a.toNat * 131072 + b.toNat * 4096 + p.toNat * 512 := rfl
  generalize encode (.chkEq a b p) = wd at he
  obtain ⟨hm, b0_9, b22_3, fa, fb, fp⟩ := lay_0c9_22c3_17f5_12f5_9f3 (M := 16) (c0 := 0) (c1 := 0) a b p rfl (by decide) (by decide) (by decide) he
  refine slot_of_raw (by rw [hm]; decide) (by rw [hm]; decide) ?_ hw
  rw [raw_10 hm]
  simp [decodeMajor10, b0_9, b22_3, fa, fb, fp]

theorem chkNe (a : BitVec 5) (b : BitVec 5) (p : BitVec 3) : Statement (.chkNe a b p) := by
  intro hw _
  change decodeSlot (encode (.chkNe a b p)) = .ok (.chkNe a b p)
  have he : encode (.chkNe a b p) = 0x20400000 + a.toNat * 131072 + b.toNat * 4096 + p.toNat * 512 := rfl
  generalize encode (.chkNe a b p) = wd at he
  obtain ⟨hm, b0_9, b22_3, fa, fb, fp⟩ := lay_0c9_22c3_17f5_12f5_9f3 (M := 16) (c0 := 0) (c1 := 1) a b p rfl (by decide) (by decide) (by decide) he
  refine slot_of_raw (by rw [hm]; decide) (by rw [hm]; decide) ?_ hw
  rw [raw_10 hm]
  simp [decodeMajor10, b0_9, b22_3, fa, fb, fp]

theorem trapOp (c : BitVec 10) (p : BitVec 3) : Statement (.trapOp c p) := by
  intro hw _
  change decodeSlot (encode (.trapOp c p)) = .ok (.trapOp c p)
  have he : encode (.trapOp c p) = 0x20800000 + c.toNat * 4096 + p.toNat * 512 := rfl
  generalize encode (.trapOp c p) = wd at he
  obtain ⟨hm, b0_9, b22_3, fc, fp⟩ := lay_0c9_22c3_12f10_9f3 (M := 16) (c0 := 0) (c1 := 2) c p rfl (by decide) (by decide) (by decide) he
  refine slot_of_raw (by rw [hm]; decide) (by rw [hm]; decide) ?_ hw
  rw [raw_10 hm]
  simp [decodeMajor10, b0_9, b22_3, fc, fp]

theorem fmt (v : BitVec 10) (p : BitVec 3) : Statement (.fmt v p) := by
  intro hw _
  change decodeSlot (encode (.fmt v p)) = .ok (.fmt v p)
  have he : encode (.fmt v p) = 0x22000000 + v.toNat * 1024 + p.toNat * 128 := rfl
  generalize encode (.fmt v p) = wd at he
  obtain ⟨hm, b0_7, b20_5, fv, fp⟩ := lay_0c7_20c5_10f10_7f3 (M := 17) (c0 := 0) (c1 := 0) v p rfl (by decide) (by decide) (by decide) he
  refine slot_of_raw (by rw [hm]; decide) (by rw [hm]; decide) ?_ hw
  rw [raw_11 hm]
  simp [decodeMajor11, b0_7, b20_5, fv, fp]

theorem fmtr (d : BitVec 5) (p : BitVec 3) : Statement (.fmtr d p) := by
  intro hw _
  change decodeSlot (encode (.fmtr d p)) = .ok (.fmtr d p)
  have he : encode (.fmtr d p) = 0x22000001 + d.toNat * 1048576 + p.toNat * 128 := rfl
  generalize encode (.fmtr d p) = wd at he
  obtain ⟨hm, b0_7, b10_10, fd, fp⟩ := lay_0c7_10c10_20f5_7f3 (M := 17) (c0 := 1) (c1 := 0) d p rfl (by decide) (by decide) (by decide) he
  refine slot_of_raw (by rw [hm]; decide) (by rw [hm]; decide) ?_ hw
  rw [raw_11 hm]
  simp [decodeMajor11, b0_7, b10_10, fd, fp]

theorem mfsr (d : BitVec 5) (r : BitVec 10) (p : BitVec 3) (c : BitVec 1) (k : BitVec 2) : Statement (.mfsr d r p c k) := by
  intro hw _
  change decodeSlot (encode (.mfsr d r p c k)) = .ok (.mfsr d r p c k)
  have he : encode (.mfsr d r p c k) = 0x22000002 + d.toNat * 1048576 + r.toNat * 1024 + p.toNat * 128 + c.toNat * 64 + k.toNat * 16 := rfl
  generalize encode (.mfsr d r p c k) = wd at he
  obtain ⟨hm, b0_4, fd, fr, fp, fc, fk⟩ := lay_0c4_20f5_10f10_7f3_6f1_4f2 (M := 17) (c0 := 2) d r p c k rfl (by decide) (by decide) he
  have lt_d := d.isLt; have lt_r := r.isLt; have lt_p := p.isLt; have lt_c := c.isLt; have lt_k := k.isLt
  have n0_7_0 : bits wd 0 7 ≠ 0 := by simp only [bits]; omega
  have n0_7_1 : bits wd 0 7 ≠ 1 := by simp only [bits]; omega
  refine slot_of_raw (by rw [hm]; decide) (by rw [hm]; decide) ?_ hw
  rw [raw_11 hm]
  simp [decodeMajor11, b0_4, n0_7_0, n0_7_1, fd, fr, fp, fc, fk]

theorem mtsr (a : BitVec 5) (r : BitVec 10) (p : BitVec 3) (c : BitVec 1) (k : BitVec 2) : Statement (.mtsr a r p c k) := by
  intro hw _
  change decodeSlot (encode (.mtsr a r p c k)) = .ok (.mtsr a r p c k)
  have he : encode (.mtsr a r p c k) = 0x22000003 + a.toNat * 1048576 + r.toNat * 1024 + p.toNat * 128 + c.toNat * 64 + k.toNat * 16 := rfl
  generalize encode (.mtsr a r p c k) = wd at he
  obtain ⟨hm, b0_4, fa, fr, fp, fc, fk⟩ := lay_0c4_20f5_10f10_7f3_6f1_4f2 (M := 17) (c0 := 3) a r p c k rfl (by decide) (by decide) he
  have lt_a := a.isLt; have lt_r := r.isLt; have lt_p := p.isLt; have lt_c := c.isLt; have lt_k := k.isLt
  have n0_7_0 : bits wd 0 7 ≠ 0 := by simp only [bits]; omega
  have n0_7_1 : bits wd 0 7 ≠ 1 := by simp only [bits]; omega
  refine slot_of_raw (by rw [hm]; decide) (by rw [hm]; decide) ?_ hw
  rw [raw_11 hm]
  simp [decodeMajor11, b0_4, n0_7_0, n0_7_1, fa, fr, fp, fc, fk]

theorem eret (c : BitVec 10) (p : BitVec 3) : Statement (.eret c p) := by
  intro hw _
  change decodeSlot (encode (.eret c p)) = .ok (.eret c p)
  have he : encode (.eret c p) = 0x22000004 + c.toNat * 1024 + p.toNat * 128 := rfl
  generalize encode (.eret c p) = wd at he
  obtain ⟨hm, b0_7, b20_5, fc, fp⟩ := lay_0c7_20c5_10f10_7f3 (M := 17) (c0 := 4) (c1 := 0) c p rfl (by decide) (by decide) (by decide) he
  have lt_c := c.isLt; have lt_p := p.isLt
  have b0_4 : bits wd 0 4 = 4 := by simp only [bits]; omega
  refine slot_of_raw (by rw [hm]; decide) (by rw [hm]; decide) ?_ hw
  rw [raw_11 hm]
  simp [decodeMajor11, b0_7, b20_5, b0_4, fc, fp]

theorem lyield (p : BitVec 3) : Statement (.lyield p) := by
  intro hw _
  change decodeSlot (encode (.lyield p)) = .ok (.lyield p)
  have he : encode (.lyield p) = 0x22000005 + p.toNat * 128 := rfl
  generalize encode (.lyield p) = wd at he
  obtain ⟨hm, b0_7, b10_15, fp⟩ := lay_0c7_10c15_7f3 (M := 17) (c0 := 5) (c1 := 0) p rfl (by decide) (by decide) (by decide) he
  have lt_p := p.isLt
  have b0_4 : bits wd 0 4 = 5 := by simp only [bits]; omega
  refine slot_of_raw (by rw [hm]; decide) (by rw [hm]; decide) ?_ hw
  rw [raw_11 hm]
  simp [decodeMajor11, b0_7, b10_15, b0_4, fp]

theorem inject (a : BitVec 5) (p : BitVec 3) : Statement (.inject a p) := by
  intro hw _
  change decodeSlot (encode (.inject a p)) = .ok (.inject a p)
  have he : encode (.inject a p) = 0x22000006 + a.toNat * 1048576 + p.toNat * 128 := rfl
  generalize encode (.inject a p) = wd at he
  obtain ⟨hm, b0_7, b10_10, fa, fp⟩ := lay_0c7_10c10_20f5_7f3 (M := 17) (c0 := 6) (c1 := 0) a p rfl (by decide) (by decide) (by decide) he
  have lt_a := a.isLt; have lt_p := p.isLt
  have b0_4 : bits wd 0 4 = 6 := by simp only [bits]; omega
  refine slot_of_raw (by rw [hm]; decide) (by rw [hm]; decide) ?_ hw
  rw [raw_11 hm]
  simp [decodeMajor11, b0_7, b10_10, b0_4, fa, fp]

theorem agr (g : BitVec 5) (x : BitVec 5) (y : BitVec 5) (o : BitVec 3) (c : BitVec 3) (h : BitVec 2) (n : BitVec 1) :
    Statement (.agr g x y o c h n) := by
  intro hw _
  change decodeSlot (encode (.agr g x y o c h n)) = .ok (.agr g x y o c h n)
  have he : encode (.agr g x y o c h n) = 0x24000000 + g.toNat * 524288 + x.toNat * 16384 + y.toNat * 512 + o.toNat * 64 + c.toNat * 8 + h.toNat * 2 + n.toNat := rfl
  generalize encode (.agr g x y o c h n) = wd at he
  obtain ⟨hm, b24_1, fg, fx, fy, fo, fc, fh, fn⟩ := lay_24c1_19f5_14f5_9f5_6f3_3f3_1f2_0f1 (M := 18) (c0 := 0) g x y o c h n rfl (by decide) (by decide) he
  refine slot_of_raw (by rw [hm]; decide) (by rw [hm]; decide) ?_ hw
  rw [raw_12 hm]
  simp [decodeMajor12, b24_1, fg, fx, fy, fo, fc, fh, fn]

theorem agv (g : BitVec 5) (d : BitVec 5) (x : BitVec 5) (o : BitVec 3) (n : BitVec 1) : Statement (.agv g d x o n) := by
  intro hw _
  change decodeSlot (encode (.agv g d x o n)) = .ok (.agv g d x o n)
  have he : encode (.agv g d x o n) = 0x25000000 + g.toNat * 131072 + d.toNat * 4096 + x.toNat * 128 + o.toNat * 16 + n.toNat * 8 := rfl
  generalize encode (.agv g d x o n) = wd at he
  obtain ⟨hm, b0_3, b22_3, fg, fd, fx, fo, fn⟩ := lay_0c3_22c3_17f5_12f5_7f5_4f3_3f1 (M := 18) (c0 := 0) (c1 := 4) g d x o n rfl (by decide) (by decide) (by decide) he
  have lt_g := g.isLt; have lt_d := d.isLt; have lt_x := x.isLt; have lt_o := o.isLt; have lt_n := n.isLt
  have b24_1 : bits wd 24 1 = 1 := by simp only [bits]; omega
  refine slot_of_raw (by rw [hm]; decide) (by rw [hm]; decide) ?_ hw
  rw [raw_12 hm]
  simp [decodeMajor12, b0_3, b22_3, b24_1, fg, fd, fx, fo, fn]

theorem agj (g : BitVec 5) : Statement (.agj g) := by
  intro hw _
  change decodeSlot (encode (.agj g)) = .ok (.agj g)
  have he : encode (.agj g) = 0x25400000 + g.toNat * 131072 := rfl
  generalize encode (.agj g) = wd at he
  obtain ⟨hm, b0_17, b22_3, fg⟩ := lay_0c17_22c3_17f5 (M := 18) (c0 := 0) (c1 := 5) g rfl (by decide) (by decide) (by decide) he
  have lt_g := g.isLt
  have b24_1 : bits wd 24 1 = 1 := by simp only [bits]; omega
  refine slot_of_raw (by rw [hm]; decide) (by rw [hm]; decide) ?_ hw
  rw [raw_12 hm]
  simp [decodeMajor12, b0_17, b22_3, b24_1, fg]

theorem agst (g : BitVec 5) (d : BitVec 5) (a : BitVec 5) : Statement (.agst g d a) := by
  intro hw _
  change decodeSlot (encode (.agst g d a)) = .ok (.agst g d a)
  have he : encode (.agst g d a) = 0x25800000 + g.toNat * 131072 + d.toNat * 4096 + a.toNat * 128 := rfl
  generalize encode (.agst g d a) = wd at he
  obtain ⟨hm, b0_7, b22_3, fg, fd, fa⟩ := lay_0c7_22c3_17f5_12f5_7f5 (M := 18) (c0 := 0) (c1 := 6) g d a rfl (by decide) (by decide) (by decide) he
  have lt_g := g.isLt; have lt_d := d.isLt; have lt_a := a.isLt
  have b24_1 : bits wd 24 1 = 1 := by simp only [bits]; omega
  refine slot_of_raw (by rw [hm]; decide) (by rw [hm]; decide) ?_ hw
  rw [raw_12 hm]
  simp [decodeMajor12, b0_7, b22_3, b24_1, fg, fd, fa]

theorem vaddF (d : BitVec 5) (a : BitVec 5) (b : BitVec 5) (m : BitVec 3) (t : BitVec 3) : Statement (.vaddF d a b m t) := by
  intro hw _
  change decodeSlot (encode (.vaddF d a b m t)) = .ok (.vaddF d a b m t)
  have he : encode (.vaddF d a b m t) = 0x26000000 + d.toNat * 1048576 + a.toNat * 32768 + b.toNat * 1024 + m.toNat * 128 + t.toNat * 16 := rfl
  generalize encode (.vaddF d a b m t) = wd at he
  obtain ⟨hm, b0_4, fd, fa, fb, fm, ft⟩ := lay_0c4_20f5_15f5_10f5_7f3_4f3 (M := 19) (c0 := 0) d a b m t rfl (by decide) (by decide) he
  refine slot_of_raw (by rw [hm]; decide) (by rw [hm]; decide) ?_ hw
  rw [raw_13 hm]
  simp [decodeMajor13, b0_4, fd, fa, fb, fm, ft]

theorem vsubF (d : BitVec 5) (a : BitVec 5) (b : BitVec 5) (m : BitVec 3) (t : BitVec 3) : Statement (.vsubF d a b m t) := by
  intro hw _
  change decodeSlot (encode (.vsubF d a b m t)) = .ok (.vsubF d a b m t)
  have he : encode (.vsubF d a b m t) = 0x26000001 + d.toNat * 1048576 + a.toNat * 32768 + b.toNat * 1024 + m.toNat * 128 + t.toNat * 16 := rfl
  generalize encode (.vsubF d a b m t) = wd at he
  obtain ⟨hm, b0_4, fd, fa, fb, fm, ft⟩ := lay_0c4_20f5_15f5_10f5_7f3_4f3 (M := 19) (c0 := 1) d a b m t rfl (by decide) (by decide) he
  refine slot_of_raw (by rw [hm]; decide) (by rw [hm]; decide) ?_ hw
  rw [raw_13 hm]
  simp [decodeMajor13, b0_4, fd, fa, fb, fm, ft]

theorem vmulF (d : BitVec 5) (a : BitVec 5) (b : BitVec 5) (m : BitVec 3) (t : BitVec 3) : Statement (.vmulF d a b m t) := by
  intro hw _
  change decodeSlot (encode (.vmulF d a b m t)) = .ok (.vmulF d a b m t)
  have he : encode (.vmulF d a b m t) = 0x26000002 + d.toNat * 1048576 + a.toNat * 32768 + b.toNat * 1024 + m.toNat * 128 + t.toNat * 16 := rfl
  generalize encode (.vmulF d a b m t) = wd at he
  obtain ⟨hm, b0_4, fd, fa, fb, fm, ft⟩ := lay_0c4_20f5_15f5_10f5_7f3_4f3 (M := 19) (c0 := 2) d a b m t rfl (by decide) (by decide) he
  refine slot_of_raw (by rw [hm]; decide) (by rw [hm]; decide) ?_ hw
  rw [raw_13 hm]
  simp [decodeMajor13, b0_4, fd, fa, fb, fm, ft]

theorem vmin (d : BitVec 5) (a : BitVec 5) (b : BitVec 5) (m : BitVec 3) (t : BitVec 3) : Statement (.vmin d a b m t) := by
  intro hw _
  change decodeSlot (encode (.vmin d a b m t)) = .ok (.vmin d a b m t)
  have he : encode (.vmin d a b m t) = 0x26000003 + d.toNat * 1048576 + a.toNat * 32768 + b.toNat * 1024 + m.toNat * 128 + t.toNat * 16 := rfl
  generalize encode (.vmin d a b m t) = wd at he
  obtain ⟨hm, b0_4, fd, fa, fb, fm, ft⟩ := lay_0c4_20f5_15f5_10f5_7f3_4f3 (M := 19) (c0 := 3) d a b m t rfl (by decide) (by decide) he
  refine slot_of_raw (by rw [hm]; decide) (by rw [hm]; decide) ?_ hw
  rw [raw_13 hm]
  simp [decodeMajor13, b0_4, fd, fa, fb, fm, ft]

theorem vmax (d : BitVec 5) (a : BitVec 5) (b : BitVec 5) (m : BitVec 3) (t : BitVec 3) : Statement (.vmax d a b m t) := by
  intro hw _
  change decodeSlot (encode (.vmax d a b m t)) = .ok (.vmax d a b m t)
  have he : encode (.vmax d a b m t) = 0x26000004 + d.toNat * 1048576 + a.toNat * 32768 + b.toNat * 1024 + m.toNat * 128 + t.toNat * 16 := rfl
  generalize encode (.vmax d a b m t) = wd at he
  obtain ⟨hm, b0_4, fd, fa, fb, fm, ft⟩ := lay_0c4_20f5_15f5_10f5_7f3_4f3 (M := 19) (c0 := 4) d a b m t rfl (by decide) (by decide) he
  refine slot_of_raw (by rw [hm]; decide) (by rw [hm]; decide) ?_ hw
  rw [raw_13 hm]
  simp [decodeMajor13, b0_4, fd, fa, fb, fm, ft]

theorem vabs (d : BitVec 5) (a : BitVec 5) (m : BitVec 3) (t : BitVec 3) : Statement (.vabs d a m t) := by
  intro hw _
  change decodeSlot (encode (.vabs d a m t)) = .ok (.vabs d a m t)
  have he : encode (.vabs d a m t) = 0x26000005 + d.toNat * 1048576 + a.toNat * 32768 + m.toNat * 128 + t.toNat * 16 := rfl
  generalize encode (.vabs d a m t) = wd at he
  obtain ⟨hm, b0_4, b10_5, fd, fa, fm, ft⟩ := lay_0c4_10c5_20f5_15f5_7f3_4f3 (M := 19) (c0 := 5) (c1 := 0) d a m t rfl (by decide) (by decide) (by decide) he
  refine slot_of_raw (by rw [hm]; decide) (by rw [hm]; decide) ?_ hw
  rw [raw_13 hm]
  simp [decodeMajor13, b0_4, b10_5, fd, fa, fm, ft]

theorem vneg (d : BitVec 5) (a : BitVec 5) (m : BitVec 3) (t : BitVec 3) : Statement (.vneg d a m t) := by
  intro hw _
  change decodeSlot (encode (.vneg d a m t)) = .ok (.vneg d a m t)
  have he : encode (.vneg d a m t) = 0x26000006 + d.toNat * 1048576 + a.toNat * 32768 + m.toNat * 128 + t.toNat * 16 := rfl
  generalize encode (.vneg d a m t) = wd at he
  obtain ⟨hm, b0_4, b10_5, fd, fa, fm, ft⟩ := lay_0c4_10c5_20f5_15f5_7f3_4f3 (M := 19) (c0 := 6) (c1 := 0) d a m t rfl (by decide) (by decide) (by decide) he
  refine slot_of_raw (by rw [hm]; decide) (by rw [hm]; decide) ?_ hw
  rw [raw_13 hm]
  simp [decodeMajor13, b0_4, b10_5, fd, fa, fm, ft]

theorem vcopysign (d : BitVec 5) (a : BitVec 5) (b : BitVec 5) (m : BitVec 3) (t : BitVec 3) :
    Statement (.vcopysign d a b m t) := by
  intro hw _
  change decodeSlot (encode (.vcopysign d a b m t)) = .ok (.vcopysign d a b m t)
  have he : encode (.vcopysign d a b m t) = 0x26000007 + d.toNat * 1048576 + a.toNat * 32768 + b.toNat * 1024 + m.toNat * 128 + t.toNat * 16 := rfl
  generalize encode (.vcopysign d a b m t) = wd at he
  obtain ⟨hm, b0_4, fd, fa, fb, fm, ft⟩ := lay_0c4_20f5_15f5_10f5_7f3_4f3 (M := 19) (c0 := 7) d a b m t rfl (by decide) (by decide) he
  refine slot_of_raw (by rw [hm]; decide) (by rw [hm]; decide) ?_ hw
  rw [raw_13 hm]
  simp [decodeMajor13, b0_4, fd, fa, fb, fm, ft]

theorem vfma (d : BitVec 5) (a : BitVec 5) (b : BitVec 5) (m : BitVec 3) (t : BitVec 3) : Statement (.vfma d a b m t) := by
  intro hw _
  change decodeSlot (encode (.vfma d a b m t)) = .ok (.vfma d a b m t)
  have he : encode (.vfma d a b m t) = 0x28000000 + d.toNat * 1048576 + a.toNat * 32768 + b.toNat * 1024 + m.toNat * 128 + t.toNat * 16 := rfl
  generalize encode (.vfma d a b m t) = wd at he
  obtain ⟨hm, b0_4, fd, fa, fb, fm, ft⟩ := lay_0c4_20f5_15f5_10f5_7f3_4f3 (M := 20) (c0 := 0) d a b m t rfl (by decide) (by decide) he
  refine slot_of_raw (by rw [hm]; decide) (by rw [hm]; decide) ?_ hw
  rw [raw_14 hm]
  simp [decodeMajor14, b0_4, fd, fa, fb, fm, ft]

theorem vfms (d : BitVec 5) (a : BitVec 5) (b : BitVec 5) (m : BitVec 3) (t : BitVec 3) : Statement (.vfms d a b m t) := by
  intro hw _
  change decodeSlot (encode (.vfms d a b m t)) = .ok (.vfms d a b m t)
  have he : encode (.vfms d a b m t) = 0x28000001 + d.toNat * 1048576 + a.toNat * 32768 + b.toNat * 1024 + m.toNat * 128 + t.toNat * 16 := rfl
  generalize encode (.vfms d a b m t) = wd at he
  obtain ⟨hm, b0_4, fd, fa, fb, fm, ft⟩ := lay_0c4_20f5_15f5_10f5_7f3_4f3 (M := 20) (c0 := 1) d a b m t rfl (by decide) (by decide) he
  refine slot_of_raw (by rw [hm]; decide) (by rw [hm]; decide) ?_ hw
  rw [raw_14 hm]
  simp [decodeMajor14, b0_4, fd, fa, fb, fm, ft]

theorem vfnma (d : BitVec 5) (a : BitVec 5) (b : BitVec 5) (m : BitVec 3) (t : BitVec 3) : Statement (.vfnma d a b m t) := by
  intro hw _
  change decodeSlot (encode (.vfnma d a b m t)) = .ok (.vfnma d a b m t)
  have he : encode (.vfnma d a b m t) = 0x28000002 + d.toNat * 1048576 + a.toNat * 32768 + b.toNat * 1024 + m.toNat * 128 + t.toNat * 16 := rfl
  generalize encode (.vfnma d a b m t) = wd at he
  obtain ⟨hm, b0_4, fd, fa, fb, fm, ft⟩ := lay_0c4_20f5_15f5_10f5_7f3_4f3 (M := 20) (c0 := 2) d a b m t rfl (by decide) (by decide) he
  refine slot_of_raw (by rw [hm]; decide) (by rw [hm]; decide) ?_ hw
  rw [raw_14 hm]
  simp [decodeMajor14, b0_4, fd, fa, fb, fm, ft]

theorem vfnms (d : BitVec 5) (a : BitVec 5) (b : BitVec 5) (m : BitVec 3) (t : BitVec 3) : Statement (.vfnms d a b m t) := by
  intro hw _
  change decodeSlot (encode (.vfnms d a b m t)) = .ok (.vfnms d a b m t)
  have he : encode (.vfnms d a b m t) = 0x28000003 + d.toNat * 1048576 + a.toNat * 32768 + b.toNat * 1024 + m.toNat * 128 + t.toNat * 16 := rfl
  generalize encode (.vfnms d a b m t) = wd at he
  obtain ⟨hm, b0_4, fd, fa, fb, fm, ft⟩ := lay_0c4_20f5_15f5_10f5_7f3_4f3 (M := 20) (c0 := 3) d a b m t rfl (by decide) (by decide) he
  refine slot_of_raw (by rw [hm]; decide) (by rw [hm]; decide) ?_ hw
  rw [raw_14 hm]
  simp [decodeMajor14, b0_4, fd, fa, fb, fm, ft]

theorem vaddI (d : BitVec 5) (a : BitVec 5) (b : BitVec 5) (m : BitVec 3) (t : BitVec 3) : Statement (.vaddI d a b m t) := by
  intro hw _
  change decodeSlot (encode (.vaddI d a b m t)) = .ok (.vaddI d a b m t)
  have he : encode (.vaddI d a b m t) = 0x2a000000 + d.toNat * 1048576 + a.toNat * 32768 + b.toNat * 1024 + m.toNat * 128 + t.toNat * 16 := rfl
  generalize encode (.vaddI d a b m t) = wd at he
  obtain ⟨hm, b0_4, fd, fa, fb, fm, ft⟩ := lay_0c4_20f5_15f5_10f5_7f3_4f3 (M := 21) (c0 := 0) d a b m t rfl (by decide) (by decide) he
  refine slot_of_raw (by rw [hm]; decide) (by rw [hm]; decide) ?_ hw
  rw [raw_15 hm]
  simp [decodeMajor15, b0_4, fd, fa, fb, fm, ft]

theorem vsubI (d : BitVec 5) (a : BitVec 5) (b : BitVec 5) (m : BitVec 3) (t : BitVec 3) : Statement (.vsubI d a b m t) := by
  intro hw _
  change decodeSlot (encode (.vsubI d a b m t)) = .ok (.vsubI d a b m t)
  have he : encode (.vsubI d a b m t) = 0x2a000001 + d.toNat * 1048576 + a.toNat * 32768 + b.toNat * 1024 + m.toNat * 128 + t.toNat * 16 := rfl
  generalize encode (.vsubI d a b m t) = wd at he
  obtain ⟨hm, b0_4, fd, fa, fb, fm, ft⟩ := lay_0c4_20f5_15f5_10f5_7f3_4f3 (M := 21) (c0 := 1) d a b m t rfl (by decide) (by decide) he
  refine slot_of_raw (by rw [hm]; decide) (by rw [hm]; decide) ?_ hw
  rw [raw_15 hm]
  simp [decodeMajor15, b0_4, fd, fa, fb, fm, ft]

theorem vmulI (d : BitVec 5) (a : BitVec 5) (b : BitVec 5) (m : BitVec 3) (t : BitVec 3) : Statement (.vmulI d a b m t) := by
  intro hw _
  change decodeSlot (encode (.vmulI d a b m t)) = .ok (.vmulI d a b m t)
  have he : encode (.vmulI d a b m t) = 0x2a000002 + d.toNat * 1048576 + a.toNat * 32768 + b.toNat * 1024 + m.toNat * 128 + t.toNat * 16 := rfl
  generalize encode (.vmulI d a b m t) = wd at he
  obtain ⟨hm, b0_4, fd, fa, fb, fm, ft⟩ := lay_0c4_20f5_15f5_10f5_7f3_4f3 (M := 21) (c0 := 2) d a b m t rfl (by decide) (by decide) he
  refine slot_of_raw (by rw [hm]; decide) (by rw [hm]; decide) ?_ hw
  rw [raw_15 hm]
  simp [decodeMajor15, b0_4, fd, fa, fb, fm, ft]

theorem vmulh (d : BitVec 5) (a : BitVec 5) (b : BitVec 5) (m : BitVec 3) (t : BitVec 3) : Statement (.vmulh d a b m t) := by
  intro hw _
  change decodeSlot (encode (.vmulh d a b m t)) = .ok (.vmulh d a b m t)
  have he : encode (.vmulh d a b m t) = 0x2a000003 + d.toNat * 1048576 + a.toNat * 32768 + b.toNat * 1024 + m.toNat * 128 + t.toNat * 16 := rfl
  generalize encode (.vmulh d a b m t) = wd at he
  obtain ⟨hm, b0_4, fd, fa, fb, fm, ft⟩ := lay_0c4_20f5_15f5_10f5_7f3_4f3 (M := 21) (c0 := 3) d a b m t rfl (by decide) (by decide) he
  refine slot_of_raw (by rw [hm]; decide) (by rw [hm]; decide) ?_ hw
  rw [raw_15 hm]
  simp [decodeMajor15, b0_4, fd, fa, fb, fm, ft]

theorem vadds (d : BitVec 5) (a : BitVec 5) (b : BitVec 5) (m : BitVec 3) (t : BitVec 3) : Statement (.vadds d a b m t) := by
  intro hw _
  change decodeSlot (encode (.vadds d a b m t)) = .ok (.vadds d a b m t)
  have he : encode (.vadds d a b m t) = 0x2a000004 + d.toNat * 1048576 + a.toNat * 32768 + b.toNat * 1024 + m.toNat * 128 + t.toNat * 16 := rfl
  generalize encode (.vadds d a b m t) = wd at he
  obtain ⟨hm, b0_4, fd, fa, fb, fm, ft⟩ := lay_0c4_20f5_15f5_10f5_7f3_4f3 (M := 21) (c0 := 4) d a b m t rfl (by decide) (by decide) he
  refine slot_of_raw (by rw [hm]; decide) (by rw [hm]; decide) ?_ hw
  rw [raw_15 hm]
  simp [decodeMajor15, b0_4, fd, fa, fb, fm, ft]

theorem vsubs (d : BitVec 5) (a : BitVec 5) (b : BitVec 5) (m : BitVec 3) (t : BitVec 3) : Statement (.vsubs d a b m t) := by
  intro hw _
  change decodeSlot (encode (.vsubs d a b m t)) = .ok (.vsubs d a b m t)
  have he : encode (.vsubs d a b m t) = 0x2a000005 + d.toNat * 1048576 + a.toNat * 32768 + b.toNat * 1024 + m.toNat * 128 + t.toNat * 16 := rfl
  generalize encode (.vsubs d a b m t) = wd at he
  obtain ⟨hm, b0_4, fd, fa, fb, fm, ft⟩ := lay_0c4_20f5_15f5_10f5_7f3_4f3 (M := 21) (c0 := 5) d a b m t rfl (by decide) (by decide) he
  refine slot_of_raw (by rw [hm]; decide) (by rw [hm]; decide) ?_ hw
  rw [raw_15 hm]
  simp [decodeMajor15, b0_4, fd, fa, fb, fm, ft]

theorem vand (d : BitVec 5) (a : BitVec 5) (b : BitVec 5) (m : BitVec 3) (t : BitVec 3) : Statement (.vand d a b m t) := by
  intro hw _
  change decodeSlot (encode (.vand d a b m t)) = .ok (.vand d a b m t)
  have he : encode (.vand d a b m t) = 0x2a000006 + d.toNat * 1048576 + a.toNat * 32768 + b.toNat * 1024 + m.toNat * 128 + t.toNat * 16 := rfl
  generalize encode (.vand d a b m t) = wd at he
  obtain ⟨hm, b0_4, fd, fa, fb, fm, ft⟩ := lay_0c4_20f5_15f5_10f5_7f3_4f3 (M := 21) (c0 := 6) d a b m t rfl (by decide) (by decide) he
  refine slot_of_raw (by rw [hm]; decide) (by rw [hm]; decide) ?_ hw
  rw [raw_15 hm]
  simp [decodeMajor15, b0_4, fd, fa, fb, fm, ft]

theorem vor (d : BitVec 5) (a : BitVec 5) (b : BitVec 5) (m : BitVec 3) (t : BitVec 3) : Statement (.vor d a b m t) := by
  intro hw _
  change decodeSlot (encode (.vor d a b m t)) = .ok (.vor d a b m t)
  have he : encode (.vor d a b m t) = 0x2a000007 + d.toNat * 1048576 + a.toNat * 32768 + b.toNat * 1024 + m.toNat * 128 + t.toNat * 16 := rfl
  generalize encode (.vor d a b m t) = wd at he
  obtain ⟨hm, b0_4, fd, fa, fb, fm, ft⟩ := lay_0c4_20f5_15f5_10f5_7f3_4f3 (M := 21) (c0 := 7) d a b m t rfl (by decide) (by decide) he
  refine slot_of_raw (by rw [hm]; decide) (by rw [hm]; decide) ?_ hw
  rw [raw_15 hm]
  simp [decodeMajor15, b0_4, fd, fa, fb, fm, ft]

theorem vxor (d : BitVec 5) (a : BitVec 5) (b : BitVec 5) (m : BitVec 3) (t : BitVec 3) : Statement (.vxor d a b m t) := by
  intro hw _
  change decodeSlot (encode (.vxor d a b m t)) = .ok (.vxor d a b m t)
  have he : encode (.vxor d a b m t) = 0x2a000008 + d.toNat * 1048576 + a.toNat * 32768 + b.toNat * 1024 + m.toNat * 128 + t.toNat * 16 := rfl
  generalize encode (.vxor d a b m t) = wd at he
  obtain ⟨hm, b0_4, fd, fa, fb, fm, ft⟩ := lay_0c4_20f5_15f5_10f5_7f3_4f3 (M := 21) (c0 := 8) d a b m t rfl (by decide) (by decide) he
  refine slot_of_raw (by rw [hm]; decide) (by rw [hm]; decide) ?_ hw
  rw [raw_15 hm]
  simp [decodeMajor15, b0_4, fd, fa, fb, fm, ft]

theorem vnot (d : BitVec 5) (a : BitVec 5) (m : BitVec 3) (t : BitVec 3) : Statement (.vnot d a m t) := by
  intro hw _
  change decodeSlot (encode (.vnot d a m t)) = .ok (.vnot d a m t)
  have he : encode (.vnot d a m t) = 0x2a000009 + d.toNat * 1048576 + a.toNat * 32768 + m.toNat * 128 + t.toNat * 16 := rfl
  generalize encode (.vnot d a m t) = wd at he
  obtain ⟨hm, b0_4, b10_5, fd, fa, fm, ft⟩ := lay_0c4_10c5_20f5_15f5_7f3_4f3 (M := 21) (c0 := 9) (c1 := 0) d a m t rfl (by decide) (by decide) (by decide) he
  refine slot_of_raw (by rw [hm]; decide) (by rw [hm]; decide) ?_ hw
  rw [raw_15 hm]
  simp [decodeMajor15, b0_4, b10_5, fd, fa, fm, ft]

theorem vpopc (d : BitVec 5) (a : BitVec 5) (m : BitVec 3) (t : BitVec 3) : Statement (.vpopc d a m t) := by
  intro hw _
  change decodeSlot (encode (.vpopc d a m t)) = .ok (.vpopc d a m t)
  have he : encode (.vpopc d a m t) = 0x2a000409 + d.toNat * 1048576 + a.toNat * 32768 + m.toNat * 128 + t.toNat * 16 := rfl
  generalize encode (.vpopc d a m t) = wd at he
  obtain ⟨hm, b0_4, b10_5, fd, fa, fm, ft⟩ := lay_0c4_10c5_20f5_15f5_7f3_4f3 (M := 21) (c0 := 9) (c1 := 1) d a m t rfl (by decide) (by decide) (by decide) he
  refine slot_of_raw (by rw [hm]; decide) (by rw [hm]; decide) ?_ hw
  rw [raw_15 hm]
  simp [decodeMajor15, b0_4, b10_5, fd, fa, fm, ft]

theorem vclz (d : BitVec 5) (a : BitVec 5) (m : BitVec 3) (t : BitVec 3) : Statement (.vclz d a m t) := by
  intro hw _
  change decodeSlot (encode (.vclz d a m t)) = .ok (.vclz d a m t)
  have he : encode (.vclz d a m t) = 0x2a000809 + d.toNat * 1048576 + a.toNat * 32768 + m.toNat * 128 + t.toNat * 16 := rfl
  generalize encode (.vclz d a m t) = wd at he
  obtain ⟨hm, b0_4, b10_5, fd, fa, fm, ft⟩ := lay_0c4_10c5_20f5_15f5_7f3_4f3 (M := 21) (c0 := 9) (c1 := 2) d a m t rfl (by decide) (by decide) (by decide) he
  refine slot_of_raw (by rw [hm]; decide) (by rw [hm]; decide) ?_ hw
  rw [raw_15 hm]
  simp [decodeMajor15, b0_4, b10_5, fd, fa, fm, ft]

theorem vshl (d : BitVec 5) (a : BitVec 5) (b : BitVec 5) (m : BitVec 3) (t : BitVec 3) : Statement (.vshl d a b m t) := by
  intro hw _
  change decodeSlot (encode (.vshl d a b m t)) = .ok (.vshl d a b m t)
  have he : encode (.vshl d a b m t) = 0x2a00000a + d.toNat * 1048576 + a.toNat * 32768 + b.toNat * 1024 + m.toNat * 128 + t.toNat * 16 := rfl
  generalize encode (.vshl d a b m t) = wd at he
  obtain ⟨hm, b0_4, fd, fa, fb, fm, ft⟩ := lay_0c4_20f5_15f5_10f5_7f3_4f3 (M := 21) (c0 := 10) d a b m t rfl (by decide) (by decide) he
  refine slot_of_raw (by rw [hm]; decide) (by rw [hm]; decide) ?_ hw
  rw [raw_15 hm]
  simp [decodeMajor15, b0_4, fd, fa, fb, fm, ft]

theorem vshr (d : BitVec 5) (a : BitVec 5) (b : BitVec 5) (m : BitVec 3) (t : BitVec 3) : Statement (.vshr d a b m t) := by
  intro hw _
  change decodeSlot (encode (.vshr d a b m t)) = .ok (.vshr d a b m t)
  have he : encode (.vshr d a b m t) = 0x2a00000b + d.toNat * 1048576 + a.toNat * 32768 + b.toNat * 1024 + m.toNat * 128 + t.toNat * 16 := rfl
  generalize encode (.vshr d a b m t) = wd at he
  obtain ⟨hm, b0_4, fd, fa, fb, fm, ft⟩ := lay_0c4_20f5_15f5_10f5_7f3_4f3 (M := 21) (c0 := 11) d a b m t rfl (by decide) (by decide) he
  refine slot_of_raw (by rw [hm]; decide) (by rw [hm]; decide) ?_ hw
  rw [raw_15 hm]
  simp [decodeMajor15, b0_4, fd, fa, fb, fm, ft]

theorem vsar (d : BitVec 5) (a : BitVec 5) (b : BitVec 5) (m : BitVec 3) (t : BitVec 3) : Statement (.vsar d a b m t) := by
  intro hw _
  change decodeSlot (encode (.vsar d a b m t)) = .ok (.vsar d a b m t)
  have he : encode (.vsar d a b m t) = 0x2a00000c + d.toNat * 1048576 + a.toNat * 32768 + b.toNat * 1024 + m.toNat * 128 + t.toNat * 16 := rfl
  generalize encode (.vsar d a b m t) = wd at he
  obtain ⟨hm, b0_4, fd, fa, fb, fm, ft⟩ := lay_0c4_20f5_15f5_10f5_7f3_4f3 (M := 21) (c0 := 12) d a b m t rfl (by decide) (by decide) he
  refine slot_of_raw (by rw [hm]; decide) (by rw [hm]; decide) ?_ hw
  rw [raw_15 hm]
  simp [decodeMajor15, b0_4, fd, fa, fb, fm, ft]

theorem vmulhN (d : BitVec 5) (a : BitVec 5) (b : BitVec 5) (m : BitVec 3) (t : BitVec 3) :
    Statement (.vmulhN d a b m t) := by
  intro hw _
  change decodeSlot (encode (.vmulhN d a b m t)) = .ok (.vmulhN d a b m t)
  have he : encode (.vmulhN d a b m t) = 0x2a00000d + d.toNat * 1048576 + a.toNat * 32768 + b.toNat * 1024 + m.toNat * 128 + t.toNat * 16 := rfl
  generalize encode (.vmulhN d a b m t) = wd at he
  obtain ⟨hm, b0_4, fd, fa, fb, fm, ft⟩ := lay_0c4_20f5_15f5_10f5_7f3_4f3 (M := 21) (c0 := 13) d a b m t rfl (by decide) (by decide) he
  refine slot_of_raw (by rw [hm]; decide) (by rw [hm]; decide) ?_ hw
  rw [raw_15 hm]
  simp [decodeMajor15, b0_4, fd, fa, fb, fm, ft]

theorem vaddsN (d : BitVec 5) (a : BitVec 5) (b : BitVec 5) (m : BitVec 3) (t : BitVec 3) :
    Statement (.vaddsN d a b m t) := by
  intro hw _
  change decodeSlot (encode (.vaddsN d a b m t)) = .ok (.vaddsN d a b m t)
  have he : encode (.vaddsN d a b m t) = 0x2a00000e + d.toNat * 1048576 + a.toNat * 32768 + b.toNat * 1024 + m.toNat * 128 + t.toNat * 16 := rfl
  generalize encode (.vaddsN d a b m t) = wd at he
  obtain ⟨hm, b0_4, fd, fa, fb, fm, ft⟩ := lay_0c4_20f5_15f5_10f5_7f3_4f3 (M := 21) (c0 := 14) d a b m t rfl (by decide) (by decide) he
  refine slot_of_raw (by rw [hm]; decide) (by rw [hm]; decide) ?_ hw
  rw [raw_15 hm]
  simp [decodeMajor15, b0_4, fd, fa, fb, fm, ft]

theorem vsubsN (d : BitVec 5) (a : BitVec 5) (b : BitVec 5) (m : BitVec 3) (t : BitVec 3) :
    Statement (.vsubsN d a b m t) := by
  intro hw _
  change decodeSlot (encode (.vsubsN d a b m t)) = .ok (.vsubsN d a b m t)
  have he : encode (.vsubsN d a b m t) = 0x2a00000f + d.toNat * 1048576 + a.toNat * 32768 + b.toNat * 1024 + m.toNat * 128 + t.toNat * 16 := rfl
  generalize encode (.vsubsN d a b m t) = wd at he
  obtain ⟨hm, b0_4, fd, fa, fb, fm, ft⟩ := lay_0c4_20f5_15f5_10f5_7f3_4f3 (M := 21) (c0 := 15) d a b m t rfl (by decide) (by decide) he
  refine slot_of_raw (by rw [hm]; decide) (by rw [hm]; decide) ?_ hw
  rw [raw_15 hm]
  simp [decodeMajor15, b0_4, fd, fa, fb, fm, ft]

theorem vcmp (d : BitVec 5) (a : BitVec 5) (b : BitVec 5) (m : BitVec 3) (t : BitVec 3) (c : BitVec 3) :
    Statement (.vcmp d a b m t c) := by
  intro hw _
  change decodeSlot (encode (.vcmp d a b m t c)) = .ok (.vcmp d a b m t c)
  have he : encode (.vcmp d a b m t c) = 0x2c000000 + d.toNat * 1048576 + a.toNat * 32768 + b.toNat * 1024 + m.toNat * 128 + t.toNat * 16 + c.toNat := rfl
  generalize encode (.vcmp d a b m t c) = wd at he
  obtain ⟨hm, b3_1, fd, fa, fb, fm, ft, fc⟩ := lay_3c1_20f5_15f5_10f5_7f3_4f3_0f3 (M := 22) (c0 := 0) d a b m t c rfl (by decide) (by decide) he
  have hx : c.toNat < 7 := by
    simp [wellFormed, below] at hw; omega
  have lt_d := d.isLt; have lt_a := a.isLt; have lt_b := b.isLt; have lt_m := m.isLt; have lt_t := t.isLt; have lt_c := c.isLt
  have n0_4_7 : bits wd 0 4 ≠ 7 := by simp only [bits]; omega
  refine slot_of_raw (by rw [hm]; decide) (by rw [hm]; decide) ?_ hw
  rw [raw_16 hm]
  simp [decodeMajor16, b3_1, n0_4_7, fd, fa, fb, fm, ft, fc]

theorem vcmpN (d : BitVec 5) (a : BitVec 5) (b : BitVec 5) (m : BitVec 3) (t : BitVec 3) (c : BitVec 2) :
    Statement (.vcmpN d a b m t c) := by
  intro hw _
  change decodeSlot (encode (.vcmpN d a b m t c)) = .ok (.vcmpN d a b m t c)
  have he : encode (.vcmpN d a b m t c) = 0x2c00000c + d.toNat * 1048576 + a.toNat * 32768 + b.toNat * 1024 + m.toNat * 128 + t.toNat * 16 + c.toNat := rfl
  generalize encode (.vcmpN d a b m t c) = wd at he
  obtain ⟨hm, b2_2, fd, fa, fb, fm, ft, fc⟩ := lay_2c2_20f5_15f5_10f5_7f3_4f3_0f2 (M := 22) (c0 := 3) d a b m t c rfl (by decide) (by decide) he
  have lt_d := d.isLt; have lt_a := a.isLt; have lt_b := b.isLt; have lt_m := m.isLt; have lt_t := t.isLt; have lt_c := c.isLt
  have n0_4_7 : bits wd 0 4 ≠ 7 := by simp only [bits]; omega
  have b3_1 : bits wd 3 1 = 1 := by simp only [bits]; omega
  refine slot_of_raw (by rw [hm]; decide) (by rw [hm]; decide) ?_ hw
  rw [raw_16 hm]
  simp [decodeMajor16, b2_2, n0_4_7, b3_1, fd, fa, fb, fm, ft, fc]

theorem vrankGt (d : BitVec 5) (a : BitVec 5) (b : BitVec 5) (m : BitVec 3) (t : BitVec 3) :
    Statement (.vrankGt d a b m t) := by
  intro hw _
  change decodeSlot (encode (.vrankGt d a b m t)) = .ok (.vrankGt d a b m t)
  have he : encode (.vrankGt d a b m t) = 0x2c000007 + d.toNat * 1048576 + a.toNat * 32768 + b.toNat * 1024 + m.toNat * 128 + t.toNat * 16 := rfl
  generalize encode (.vrankGt d a b m t) = wd at he
  obtain ⟨hm, b0_4, fd, fa, fb, fm, ft⟩ := lay_0c4_20f5_15f5_10f5_7f3_4f3 (M := 22) (c0 := 7) d a b m t rfl (by decide) (by decide) he
  refine slot_of_raw (by rw [hm]; decide) (by rw [hm]; decide) ?_ hw
  rw [raw_16 hm]
  simp [decodeMajor16, b0_4, fd, fa, fb, fm, ft]

theorem vrankGe (d : BitVec 5) (a : BitVec 5) (b : BitVec 5) (m : BitVec 3) (t : BitVec 3) :
    Statement (.vrankGe d a b m t) := by
  intro hw _
  change decodeSlot (encode (.vrankGe d a b m t)) = .ok (.vrankGe d a b m t)
  have he : encode (.vrankGe d a b m t) = 0x2c000008 + d.toNat * 1048576 + a.toNat * 32768 + b.toNat * 1024 + m.toNat * 128 + t.toNat * 16 := rfl
  generalize encode (.vrankGe d a b m t) = wd at he
  obtain ⟨hm, b0_4, fd, fa, fb, fm, ft⟩ := lay_0c4_20f5_15f5_10f5_7f3_4f3 (M := 22) (c0 := 8) d a b m t rfl (by decide) (by decide) he
  have lt_d := d.isLt; have lt_a := a.isLt; have lt_b := b.isLt; have lt_m := m.isLt; have lt_t := t.isLt
  have b3_1 : bits wd 3 1 = 1 := by simp only [bits]; omega
  have b2_2 : bits wd 2 2 = 2 := by simp only [bits]; omega
  refine slot_of_raw (by rw [hm]; decide) (by rw [hm]; decide) ?_ hw
  rw [raw_16 hm]
  simp [decodeMajor16, b0_4, b3_1, b2_2, fd, fa, fb, fm, ft]

theorem vsel (d : BitVec 5) (a : BitVec 5) (b : BitVec 5) (m : BitVec 3) (t : BitVec 3) : Statement (.vsel d a b m t) := by
  intro hw _
  change decodeSlot (encode (.vsel d a b m t)) = .ok (.vsel d a b m t)
  have he : encode (.vsel d a b m t) = 0x2c000009 + d.toNat * 1048576 + a.toNat * 32768 + b.toNat * 1024 + m.toNat * 128 + t.toNat * 16 := rfl
  generalize encode (.vsel d a b m t) = wd at he
  obtain ⟨hm, b0_4, fd, fa, fb, fm, ft⟩ := lay_0c4_20f5_15f5_10f5_7f3_4f3 (M := 22) (c0 := 9) d a b m t rfl (by decide) (by decide) he
  have lt_d := d.isLt; have lt_a := a.isLt; have lt_b := b.isLt; have lt_m := m.isLt; have lt_t := t.isLt
  have b3_1 : bits wd 3 1 = 1 := by simp only [bits]; omega
  have b2_2 : bits wd 2 2 = 2 := by simp only [bits]; omega
  refine slot_of_raw (by rw [hm]; decide) (by rw [hm]; decide) ?_ hw
  rw [raw_16 hm]
  simp [decodeMajor16, b0_4, b3_1, b2_2, fd, fa, fb, fm, ft]

theorem vcx (x : BitVec 5) (y : BitVec 5) (d : BitVec 3) (m : BitVec 3) (t : BitVec 3) : Statement (.vcx x y d m t) := by
  intro hw _
  change decodeSlot (encode (.vcx x y d m t)) = .ok (.vcx x y d m t)
  have he : encode (.vcx x y d m t) = 0x2c00000a + x.toNat * 1048576 + y.toNat * 32768 + d.toNat * 1024 + m.toNat * 128 + t.toNat * 16 := rfl
  generalize encode (.vcx x y d m t) = wd at he
  obtain ⟨hm, b0_4, b13_2, fx, fy, fd, fm, ft⟩ := lay_0c4_13c2_20f5_15f5_10f3_7f3_4f3 (M := 22) (c0 := 10) (c1 := 0) x y d m t rfl (by decide) (by decide) (by decide) he
  have lt_x := x.isLt; have lt_y := y.isLt; have lt_d := d.isLt; have lt_m := m.isLt; have lt_t := t.isLt
  have b3_1 : bits wd 3 1 = 1 := by simp only [bits]; omega
  have b2_2 : bits wd 2 2 = 2 := by simp only [bits]; omega
  refine slot_of_raw (by rw [hm]; decide) (by rw [hm]; decide) ?_ hw
  rw [raw_16 hm]
  simp [decodeMajor16, b0_4, b13_2, b3_1, b2_2, fx, fy, fd, fm, ft]

theorem vclass (d : BitVec 5) (a : BitVec 5) (m : BitVec 3) (t : BitVec 3) : Statement (.vclass d a m t) := by
  intro hw _
  change decodeSlot (encode (.vclass d a m t)) = .ok (.vclass d a m t)
  have he : encode (.vclass d a m t) = 0x2c00000b + d.toNat * 1048576 + a.toNat * 32768 + m.toNat * 128 + t.toNat * 16 := rfl
  generalize encode (.vclass d a m t) = wd at he
  obtain ⟨hm, b0_4, b10_5, fd, fa, fm, ft⟩ := lay_0c4_10c5_20f5_15f5_7f3_4f3 (M := 22) (c0 := 11) (c1 := 0) d a m t rfl (by decide) (by decide) (by decide) he
  have lt_d := d.isLt; have lt_a := a.isLt; have lt_m := m.isLt; have lt_t := t.isLt
  have b3_1 : bits wd 3 1 = 1 := by simp only [bits]; omega
  have b2_2 : bits wd 2 2 = 2 := by simp only [bits]; omega
  refine slot_of_raw (by rw [hm]; decide) (by rw [hm]; decide) ?_ hw
  rw [raw_16 hm]
  simp [decodeMajor16, b0_4, b10_5, b3_1, b2_2, fd, fa, fm, ft]

theorem vperm (d : BitVec 5) (a : BitVec 5) (b : BitVec 5) (m : BitVec 3) (t : BitVec 3) : Statement (.vperm d a b m t) := by
  intro hw _
  change decodeSlot (encode (.vperm d a b m t)) = .ok (.vperm d a b m t)
  have he : encode (.vperm d a b m t) = 0x2e000000 + d.toNat * 1048576 + a.toNat * 32768 + b.toNat * 1024 + m.toNat * 128 + t.toNat * 16 := rfl
  generalize encode (.vperm d a b m t) = wd at he
  obtain ⟨hm, b0_4, fd, fa, fb, fm, ft⟩ := lay_0c4_20f5_15f5_10f5_7f3_4f3 (M := 23) (c0 := 0) d a b m t rfl (by decide) (by decide) he
  refine slot_of_raw (by rw [hm]; decide) (by rw [hm]; decide) ?_ hw
  rw [raw_17 hm]
  simp [decodeMajor17, b0_4, fd, fa, fb, fm, ft]

theorem vrot (d : BitVec 5) (a : BitVec 5) (b : BitVec 5) (m : BitVec 3) (t : BitVec 3) : Statement (.vrot d a b m t) := by
  intro hw _
  change decodeSlot (encode (.vrot d a b m t)) = .ok (.vrot d a b m t)
  have he : encode (.vrot d a b m t) = 0x2e000001 + d.toNat * 1048576 + a.toNat * 32768 + b.toNat * 1024 + m.toNat * 128 + t.toNat * 16 := rfl
  generalize encode (.vrot d a b m t) = wd at he
  obtain ⟨hm, b0_4, fd, fa, fb, fm, ft⟩ := lay_0c4_20f5_15f5_10f5_7f3_4f3 (M := 23) (c0 := 1) d a b m t rfl (by decide) (by decide) he
  refine slot_of_raw (by rw [hm]; decide) (by rw [hm]; decide) ?_ hw
  rw [raw_17 hm]
  simp [decodeMajor17, b0_4, fd, fa, fb, fm, ft]

theorem vslide (d : BitVec 5) (a : BitVec 5) (b : BitVec 5) (m : BitVec 3) (t : BitVec 3) :
    Statement (.vslide d a b m t) := by
  intro hw _
  change decodeSlot (encode (.vslide d a b m t)) = .ok (.vslide d a b m t)
  have he : encode (.vslide d a b m t) = 0x2e000002 + d.toNat * 1048576 + a.toNat * 32768 + b.toNat * 1024 + m.toNat * 128 + t.toNat * 16 := rfl
  generalize encode (.vslide d a b m t) = wd at he
  obtain ⟨hm, b0_4, fd, fa, fb, fm, ft⟩ := lay_0c4_20f5_15f5_10f5_7f3_4f3 (M := 23) (c0 := 2) d a b m t rfl (by decide) (by decide) he
  refine slot_of_raw (by rw [hm]; decide) (by rw [hm]; decide) ?_ hw
  rw [raw_17 hm]
  simp [decodeMajor17, b0_4, fd, fa, fb, fm, ft]

theorem vbcast (d : BitVec 5) (a : BitVec 5) (m : BitVec 3) (t : BitVec 3) : Statement (.vbcast d a m t) := by
  intro hw _
  change decodeSlot (encode (.vbcast d a m t)) = .ok (.vbcast d a m t)
  have he : encode (.vbcast d a m t) = 0x2e000003 + d.toNat * 1048576 + a.toNat * 32768 + m.toNat * 128 + t.toNat * 16 := rfl
  generalize encode (.vbcast d a m t) = wd at he
  obtain ⟨hm, b0_4, b10_5, fd, fa, fm, ft⟩ := lay_0c4_10c5_20f5_15f5_7f3_4f3 (M := 23) (c0 := 3) (c1 := 0) d a m t rfl (by decide) (by decide) (by decide) he
  refine slot_of_raw (by rw [hm]; decide) (by rw [hm]; decide) ?_ hw
  rw [raw_17 hm]
  simp [decodeMajor17, b0_4, b10_5, fd, fa, fm, ft]

theorem vext (d : BitVec 5) (a : BitVec 5) (b : BitVec 5) (t : BitVec 3) : Statement (.vext d a b t) := by
  intro hw _
  change decodeSlot (encode (.vext d a b t)) = .ok (.vext d a b t)
  have he : encode (.vext d a b t) = 0x2e000004 + d.toNat * 1048576 + a.toNat * 32768 + b.toNat * 1024 + t.toNat * 16 := rfl
  generalize encode (.vext d a b t) = wd at he
  obtain ⟨hm, b0_4, b7_3, fd, fa, fb, ft⟩ := lay_0c4_7c3_20f5_15f5_10f5_4f3 (M := 23) (c0 := 4) (c1 := 0) d a b t rfl (by decide) (by decide) (by decide) he
  refine slot_of_raw (by rw [hm]; decide) (by rw [hm]; decide) ?_ hw
  rw [raw_17 hm]
  simp [decodeMajor17, b0_4, b7_3, fd, fa, fb, ft]

theorem vins (d : BitVec 5) (a : BitVec 5) (b : BitVec 5) (t : BitVec 3) : Statement (.vins d a b t) := by
  intro hw _
  change decodeSlot (encode (.vins d a b t)) = .ok (.vins d a b t)
  have he : encode (.vins d a b t) = 0x2e000005 + d.toNat * 1048576 + a.toNat * 32768 + b.toNat * 1024 + t.toNat * 16 := rfl
  generalize encode (.vins d a b t) = wd at he
  obtain ⟨hm, b0_4, b7_3, fd, fa, fb, ft⟩ := lay_0c4_7c3_20f5_15f5_10f5_4f3 (M := 23) (c0 := 5) (c1 := 0) d a b t rfl (by decide) (by decide) (by decide) he
  refine slot_of_raw (by rw [hm]; decide) (by rw [hm]; decide) ?_ hw
  rw [raw_17 hm]
  simp [decodeMajor17, b0_4, b7_3, fd, fa, fb, ft]

theorem vidx (d : BitVec 5) (m : BitVec 3) (t : BitVec 3) : Statement (.vidx d m t) := by
  intro hw _
  change decodeSlot (encode (.vidx d m t)) = .ok (.vidx d m t)
  have he : encode (.vidx d m t) = 0x2e000006 + d.toNat * 1048576 + m.toNat * 128 + t.toNat * 16 := rfl
  generalize encode (.vidx d m t) = wd at he
  obtain ⟨hm, b0_4, b10_10, fd, fm, ft⟩ := lay_0c4_10c10_20f5_7f3_4f3 (M := 23) (c0 := 6) (c1 := 0) d m t rfl (by decide) (by decide) (by decide) he
  refine slot_of_raw (by rw [hm]; decide) (by rw [hm]; decide) ?_ hw
  rw [raw_17 hm]
  simp [decodeMajor17, b0_4, b10_10, fd, fm, ft]

theorem vzipLo (d : BitVec 5) (a : BitVec 5) (b : BitVec 5) (m : BitVec 3) (t : BitVec 3) :
    Statement (.vzipLo d a b m t) := by
  intro hw _
  change decodeSlot (encode (.vzipLo d a b m t)) = .ok (.vzipLo d a b m t)
  have he : encode (.vzipLo d a b m t) = 0x2e000007 + d.toNat * 1048576 + a.toNat * 32768 + b.toNat * 1024 + m.toNat * 128 + t.toNat * 16 := rfl
  generalize encode (.vzipLo d a b m t) = wd at he
  obtain ⟨hm, b0_4, fd, fa, fb, fm, ft⟩ := lay_0c4_20f5_15f5_10f5_7f3_4f3 (M := 23) (c0 := 7) d a b m t rfl (by decide) (by decide) he
  refine slot_of_raw (by rw [hm]; decide) (by rw [hm]; decide) ?_ hw
  rw [raw_17 hm]
  simp [decodeMajor17, b0_4, fd, fa, fb, fm, ft]

theorem vzipHi (d : BitVec 5) (a : BitVec 5) (b : BitVec 5) (m : BitVec 3) (t : BitVec 3) :
    Statement (.vzipHi d a b m t) := by
  intro hw _
  change decodeSlot (encode (.vzipHi d a b m t)) = .ok (.vzipHi d a b m t)
  have he : encode (.vzipHi d a b m t) = 0x2e000008 + d.toNat * 1048576 + a.toNat * 32768 + b.toNat * 1024 + m.toNat * 128 + t.toNat * 16 := rfl
  generalize encode (.vzipHi d a b m t) = wd at he
  obtain ⟨hm, b0_4, fd, fa, fb, fm, ft⟩ := lay_0c4_20f5_15f5_10f5_7f3_4f3 (M := 23) (c0 := 8) d a b m t rfl (by decide) (by decide) he
  refine slot_of_raw (by rw [hm]; decide) (by rw [hm]; decide) ?_ hw
  rw [raw_17 hm]
  simp [decodeMajor17, b0_4, fd, fa, fb, fm, ft]

theorem vextN (d : BitVec 5) (a : BitVec 5) (b : BitVec 5) (t : BitVec 3) : Statement (.vextN d a b t) := by
  intro hw _
  change decodeSlot (encode (.vextN d a b t)) = .ok (.vextN d a b t)
  have he : encode (.vextN d a b t) = 0x2e000009 + d.toNat * 1048576 + a.toNat * 32768 + b.toNat * 1024 + t.toNat * 16 := rfl
  generalize encode (.vextN d a b t) = wd at he
  obtain ⟨hm, b0_4, b7_3, fd, fa, fb, ft⟩ := lay_0c4_7c3_20f5_15f5_10f5_4f3 (M := 23) (c0 := 9) (c1 := 0) d a b t rfl (by decide) (by decide) (by decide) he
  refine slot_of_raw (by rw [hm]; decide) (by rw [hm]; decide) ?_ hw
  rw [raw_17 hm]
  simp [decodeMajor17, b0_4, b7_3, fd, fa, fb, ft]

theorem vredsum (d : BitVec 5) (a : BitVec 5) (m : BitVec 3) (t : BitVec 3) : Statement (.vredsum d a m t) := by
  intro hw _
  change decodeSlot (encode (.vredsum d a m t)) = .ok (.vredsum d a m t)
  have he : encode (.vredsum d a m t) = 0x30000000 + d.toNat * 1048576 + a.toNat * 32768 + m.toNat * 128 + t.toNat * 16 := rfl
  generalize encode (.vredsum d a m t) = wd at he
  obtain ⟨hm, b0_4, b10_5, fd, fa, fm, ft⟩ := lay_0c4_10c5_20f5_15f5_7f3_4f3 (M := 24) (c0 := 0) (c1 := 0) d a m t rfl (by decide) (by decide) (by decide) he
  refine slot_of_raw (by rw [hm]; decide) (by rw [hm]; decide) ?_ hw
  rw [raw_18 hm]
  simp [decodeMajor18, b0_4, b10_5, fd, fa, fm, ft]

theorem vredmax (d : BitVec 5) (a : BitVec 5) (m : BitVec 3) (t : BitVec 3) : Statement (.vredmax d a m t) := by
  intro hw _
  change decodeSlot (encode (.vredmax d a m t)) = .ok (.vredmax d a m t)
  have he : encode (.vredmax d a m t) = 0x30000001 + d.toNat * 1048576 + a.toNat * 32768 + m.toNat * 128 + t.toNat * 16 := rfl
  generalize encode (.vredmax d a m t) = wd at he
  obtain ⟨hm, b0_4, b10_5, fd, fa, fm, ft⟩ := lay_0c4_10c5_20f5_15f5_7f3_4f3 (M := 24) (c0 := 1) (c1 := 0) d a m t rfl (by decide) (by decide) (by decide) he
  refine slot_of_raw (by rw [hm]; decide) (by rw [hm]; decide) ?_ hw
  rw [raw_18 hm]
  simp [decodeMajor18, b0_4, b10_5, fd, fa, fm, ft]

theorem vredmin (d : BitVec 5) (a : BitVec 5) (m : BitVec 3) (t : BitVec 3) : Statement (.vredmin d a m t) := by
  intro hw _
  change decodeSlot (encode (.vredmin d a m t)) = .ok (.vredmin d a m t)
  have he : encode (.vredmin d a m t) = 0x30000002 + d.toNat * 1048576 + a.toNat * 32768 + m.toNat * 128 + t.toNat * 16 := rfl
  generalize encode (.vredmin d a m t) = wd at he
  obtain ⟨hm, b0_4, b10_5, fd, fa, fm, ft⟩ := lay_0c4_10c5_20f5_15f5_7f3_4f3 (M := 24) (c0 := 2) (c1 := 0) d a m t rfl (by decide) (by decide) (by decide) he
  refine slot_of_raw (by rw [hm]; decide) (by rw [hm]; decide) ?_ hw
  rw [raw_18 hm]
  simp [decodeMajor18, b0_4, b10_5, fd, fa, fm, ft]

theorem vredand (d : BitVec 5) (a : BitVec 5) (m : BitVec 3) (t : BitVec 3) : Statement (.vredand d a m t) := by
  intro hw _
  change decodeSlot (encode (.vredand d a m t)) = .ok (.vredand d a m t)
  have he : encode (.vredand d a m t) = 0x30000003 + d.toNat * 1048576 + a.toNat * 32768 + m.toNat * 128 + t.toNat * 16 := rfl
  generalize encode (.vredand d a m t) = wd at he
  obtain ⟨hm, b0_4, b10_5, fd, fa, fm, ft⟩ := lay_0c4_10c5_20f5_15f5_7f3_4f3 (M := 24) (c0 := 3) (c1 := 0) d a m t rfl (by decide) (by decide) (by decide) he
  refine slot_of_raw (by rw [hm]; decide) (by rw [hm]; decide) ?_ hw
  rw [raw_18 hm]
  simp [decodeMajor18, b0_4, b10_5, fd, fa, fm, ft]

theorem vredor (d : BitVec 5) (a : BitVec 5) (m : BitVec 3) (t : BitVec 3) : Statement (.vredor d a m t) := by
  intro hw _
  change decodeSlot (encode (.vredor d a m t)) = .ok (.vredor d a m t)
  have he : encode (.vredor d a m t) = 0x30000004 + d.toNat * 1048576 + a.toNat * 32768 + m.toNat * 128 + t.toNat * 16 := rfl
  generalize encode (.vredor d a m t) = wd at he
  obtain ⟨hm, b0_4, b10_5, fd, fa, fm, ft⟩ := lay_0c4_10c5_20f5_15f5_7f3_4f3 (M := 24) (c0 := 4) (c1 := 0) d a m t rfl (by decide) (by decide) (by decide) he
  refine slot_of_raw (by rw [hm]; decide) (by rw [hm]; decide) ?_ hw
  rw [raw_18 hm]
  simp [decodeMajor18, b0_4, b10_5, fd, fa, fm, ft]

theorem vredmaxN (d : BitVec 5) (a : BitVec 5) (m : BitVec 3) (t : BitVec 3) : Statement (.vredmaxN d a m t) := by
  intro hw _
  change decodeSlot (encode (.vredmaxN d a m t)) = .ok (.vredmaxN d a m t)
  have he : encode (.vredmaxN d a m t) = 0x30000005 + d.toNat * 1048576 + a.toNat * 32768 + m.toNat * 128 + t.toNat * 16 := rfl
  generalize encode (.vredmaxN d a m t) = wd at he
  obtain ⟨hm, b0_4, b10_5, fd, fa, fm, ft⟩ := lay_0c4_10c5_20f5_15f5_7f3_4f3 (M := 24) (c0 := 5) (c1 := 0) d a m t rfl (by decide) (by decide) (by decide) he
  refine slot_of_raw (by rw [hm]; decide) (by rw [hm]; decide) ?_ hw
  rw [raw_18 hm]
  simp [decodeMajor18, b0_4, b10_5, fd, fa, fm, ft]

theorem vredminN (d : BitVec 5) (a : BitVec 5) (m : BitVec 3) (t : BitVec 3) : Statement (.vredminN d a m t) := by
  intro hw _
  change decodeSlot (encode (.vredminN d a m t)) = .ok (.vredminN d a m t)
  have he : encode (.vredminN d a m t) = 0x30000006 + d.toNat * 1048576 + a.toNat * 32768 + m.toNat * 128 + t.toNat * 16 := rfl
  generalize encode (.vredminN d a m t) = wd at he
  obtain ⟨hm, b0_4, b10_5, fd, fa, fm, ft⟩ := lay_0c4_10c5_20f5_15f5_7f3_4f3 (M := 24) (c0 := 6) (c1 := 0) d a m t rfl (by decide) (by decide) (by decide) he
  refine slot_of_raw (by rw [hm]; decide) (by rw [hm]; decide) ?_ hw
  rw [raw_18 hm]
  simp [decodeMajor18, b0_4, b10_5, fd, fa, fm, ft]

theorem vredsumN (d : BitVec 5) (a : BitVec 5) (m : BitVec 3) (t : BitVec 3) : Statement (.vredsumN d a m t) := by
  intro hw _
  change decodeSlot (encode (.vredsumN d a m t)) = .ok (.vredsumN d a m t)
  have he : encode (.vredsumN d a m t) = 0x30000007 + d.toNat * 1048576 + a.toNat * 32768 + m.toNat * 128 + t.toNat * 16 := rfl
  generalize encode (.vredsumN d a m t) = wd at he
  obtain ⟨hm, b0_4, b10_5, fd, fa, fm, ft⟩ := lay_0c4_10c5_20f5_15f5_7f3_4f3 (M := 24) (c0 := 7) (c1 := 0) d a m t rfl (by decide) (by decide) (by decide) he
  refine slot_of_raw (by rw [hm]; decide) (by rw [hm]; decide) ?_ hw
  rw [raw_18 hm]
  simp [decodeMajor18, b0_4, b10_5, fd, fa, fm, ft]

theorem vcvt (d : BitVec 5) (a : BitVec 5) (m : BitVec 3) (st : BitVec 3) (t : BitVec 3) (r : BitVec 3) (u : BitVec 3) :
    Statement (.vcvt d a m st t r u) := by
  intro hw _
  change decodeSlot (encode (.vcvt d a m st t r u)) = .ok (.vcvt d a m st t r u)
  have he : encode (.vcvt d a m st t r u) = 0x32000000 + d.toNat * 1048576 + a.toNat * 32768 + m.toNat * 4096 + st.toNat * 512 + t.toNat * 64 + r.toNat * 8 + u.toNat := rfl
  generalize encode (.vcvt d a m st t r u) = wd at he
  obtain ⟨hm, fd, fa, fm, fst, ft, fr, fu⟩ := lay_20f5_15f5_12f3_9f3_6f3_3f3_0f3 (M := 25) d a m st t r u rfl (by decide) he
  have hx : u.toNat < 7 := by
    simp [wellFormed, vcvtLegal, below] at hw; omega
  have lt_d := d.isLt; have lt_a := a.isLt; have lt_m := m.isLt; have lt_st := st.isLt; have lt_t := t.isLt; have lt_r := r.isLt; have lt_u := u.isLt
  have n0_4_7 : bits wd 0 4 ≠ 7 := by simp only [bits]; omega
  refine slot_of_raw (by rw [hm]; decide) (by rw [hm]; decide) ?_ hw
  rw [raw_19 hm]
  simp [decodeMajor19, n0_4_7, fd, fa, fm, fst, ft, fr, fu]

theorem vldexp (d : BitVec 5) (a : BitVec 5) (b : BitVec 5) (m : BitVec 3) (t : BitVec 3) :
    Statement (.vldexp d a b m t) := by
  intro hw _
  change decodeSlot (encode (.vldexp d a b m t)) = .ok (.vldexp d a b m t)
  have he : encode (.vldexp d a b m t) = 0x32000007 + d.toNat * 1048576 + a.toNat * 32768 + b.toNat * 1024 + m.toNat * 128 + t.toNat * 16 := rfl
  generalize encode (.vldexp d a b m t) = wd at he
  obtain ⟨hm, b0_4, fd, fa, fb, fm, ft⟩ := lay_0c4_20f5_15f5_10f5_7f3_4f3 (M := 25) (c0 := 7) d a b m t rfl (by decide) (by decide) he
  refine slot_of_raw (by rw [hm]; decide) (by rw [hm]; decide) ?_ hw
  rw [raw_19 hm]
  simp [decodeMajor19, b0_4, fd, fa, fb, fm, ft]

theorem vexp2 (d : BitVec 5) (a : BitVec 5) (m : BitVec 3) (t : BitVec 3) : Statement (.vexp2 d a m t) := by
  intro hw _
  change decodeSlot (encode (.vexp2 d a m t)) = .ok (.vexp2 d a m t)
  have he : encode (.vexp2 d a m t) = 0x34000000 + d.toNat * 1048576 + a.toNat * 32768 + m.toNat * 128 + t.toNat * 16 := rfl
  generalize encode (.vexp2 d a m t) = wd at he
  obtain ⟨hm, b0_4, b10_5, fd, fa, fm, ft⟩ := lay_0c4_10c5_20f5_15f5_7f3_4f3 (M := 26) (c0 := 0) (c1 := 0) d a m t rfl (by decide) (by decide) (by decide) he
  refine slot_of_raw (by rw [hm]; decide) (by rw [hm]; decide) ?_ hw
  rw [raw_1A hm]
  simp [decodeMajor1A, b0_4, b10_5, fd, fa, fm, ft]

theorem vlog2 (d : BitVec 5) (a : BitVec 5) (m : BitVec 3) (t : BitVec 3) : Statement (.vlog2 d a m t) := by
  intro hw _
  change decodeSlot (encode (.vlog2 d a m t)) = .ok (.vlog2 d a m t)
  have he : encode (.vlog2 d a m t) = 0x34000001 + d.toNat * 1048576 + a.toNat * 32768 + m.toNat * 128 + t.toNat * 16 := rfl
  generalize encode (.vlog2 d a m t) = wd at he
  obtain ⟨hm, b0_4, b10_5, fd, fa, fm, ft⟩ := lay_0c4_10c5_20f5_15f5_7f3_4f3 (M := 26) (c0 := 1) (c1 := 0) d a m t rfl (by decide) (by decide) (by decide) he
  refine slot_of_raw (by rw [hm]; decide) (by rw [hm]; decide) ?_ hw
  rw [raw_1A hm]
  simp [decodeMajor1A, b0_4, b10_5, fd, fa, fm, ft]

theorem vrcp (d : BitVec 5) (a : BitVec 5) (m : BitVec 3) (t : BitVec 3) : Statement (.vrcp d a m t) := by
  intro hw _
  change decodeSlot (encode (.vrcp d a m t)) = .ok (.vrcp d a m t)
  have he : encode (.vrcp d a m t) = 0x34000002 + d.toNat * 1048576 + a.toNat * 32768 + m.toNat * 128 + t.toNat * 16 := rfl
  generalize encode (.vrcp d a m t) = wd at he
  obtain ⟨hm, b0_4, b10_5, fd, fa, fm, ft⟩ := lay_0c4_10c5_20f5_15f5_7f3_4f3 (M := 26) (c0 := 2) (c1 := 0) d a m t rfl (by decide) (by decide) (by decide) he
  refine slot_of_raw (by rw [hm]; decide) (by rw [hm]; decide) ?_ hw
  rw [raw_1A hm]
  simp [decodeMajor1A, b0_4, b10_5, fd, fa, fm, ft]

theorem vrsqrt (d : BitVec 5) (a : BitVec 5) (m : BitVec 3) (t : BitVec 3) : Statement (.vrsqrt d a m t) := by
  intro hw _
  change decodeSlot (encode (.vrsqrt d a m t)) = .ok (.vrsqrt d a m t)
  have he : encode (.vrsqrt d a m t) = 0x34000003 + d.toNat * 1048576 + a.toNat * 32768 + m.toNat * 128 + t.toNat * 16 := rfl
  generalize encode (.vrsqrt d a m t) = wd at he
  obtain ⟨hm, b0_4, b10_5, fd, fa, fm, ft⟩ := lay_0c4_10c5_20f5_15f5_7f3_4f3 (M := 26) (c0 := 3) (c1 := 0) d a m t rfl (by decide) (by decide) (by decide) he
  refine slot_of_raw (by rw [hm]; decide) (by rw [hm]; decide) ?_ hw
  rw [raw_1A hm]
  simp [decodeMajor1A, b0_4, b10_5, fd, fa, fm, ft]

theorem vdiv (d : BitVec 5) (a : BitVec 5) (b : BitVec 5) (m : BitVec 3) (t : BitVec 3) : Statement (.vdiv d a b m t) := by
  intro hw _
  change decodeSlot (encode (.vdiv d a b m t)) = .ok (.vdiv d a b m t)
  have he : encode (.vdiv d a b m t) = 0x34000004 + d.toNat * 1048576 + a.toNat * 32768 + b.toNat * 1024 + m.toNat * 128 + t.toNat * 16 := rfl
  generalize encode (.vdiv d a b m t) = wd at he
  obtain ⟨hm, b0_4, fd, fa, fb, fm, ft⟩ := lay_0c4_20f5_15f5_10f5_7f3_4f3 (M := 26) (c0 := 4) d a b m t rfl (by decide) (by decide) he
  refine slot_of_raw (by rw [hm]; decide) (by rw [hm]; decide) ?_ hw
  rw [raw_1A hm]
  simp [decodeMajor1A, b0_4, fd, fa, fb, fm, ft]

theorem vsqrt (d : BitVec 5) (a : BitVec 5) (m : BitVec 3) (t : BitVec 3) : Statement (.vsqrt d a m t) := by
  intro hw _
  change decodeSlot (encode (.vsqrt d a m t)) = .ok (.vsqrt d a m t)
  have he : encode (.vsqrt d a m t) = 0x34000005 + d.toNat * 1048576 + a.toNat * 32768 + m.toNat * 128 + t.toNat * 16 := rfl
  generalize encode (.vsqrt d a m t) = wd at he
  obtain ⟨hm, b0_4, b10_5, fd, fa, fm, ft⟩ := lay_0c4_10c5_20f5_15f5_7f3_4f3 (M := 26) (c0 := 5) (c1 := 0) d a m t rfl (by decide) (by decide) (by decide) he
  refine slot_of_raw (by rw [hm]; decide) (by rw [hm]; decide) ?_ hw
  rw [raw_1A hm]
  simp [decodeMajor1A, b0_4, b10_5, fd, fa, fm, ft]

theorem ld (d : BitVec 5) (h : BitVec 4) (a : BitVec 4) (w : BitVec 3) (i : BitVec 9) : Statement (.ld d h a w i) := by
  intro hw _
  change decodeSlot (encode (.ld d h a w i)) = .ok (.ld d h a w i)
  have he : encode (.ld d h a w i) = 0x36000000 + d.toNat * 1048576 + h.toNat * 65536 + a.toNat * 4096 + w.toNat * 512 + i.toNat := rfl
  generalize encode (.ld d h a w i) = wd at he
  obtain ⟨hm, fd, fh, fa, fw, fi⟩ := lay_20f5_16f4_12f4_9f3_0f9 (M := 27) d h a w i rfl (by decide) he
  have hx : h.toNat < 15 := by
    simp [wellFormed, below] at hw; omega
  have lt_d := d.isLt; have lt_h := h.isLt; have lt_a := a.isLt; have lt_w := w.isLt; have lt_i := i.isLt
  have n16_4_15 : bits wd 16 4 ≠ 15 := by simp only [bits]; omega
  refine slot_of_raw (by rw [hm]; decide) (by rw [hm]; decide) ?_ hw
  rw [raw_1B hm]
  simp [decodeMajor1B, n16_4_15, fd, fh, fa, fw, fi]

theorem ist (d : BitVec 5) (a : BitVec 4) (p : BitVec 3) (i : BitVec 9) : Statement (.ist d a p i) := by
  intro hw _
  change decodeSlot (encode (.ist d a p i)) = .ok (.ist d a p i)
  have he : encode (.ist d a p i) = 0x360f0000 + d.toNat * 1048576 + a.toNat * 4096 + p.toNat * 512 + i.toNat := rfl
  generalize encode (.ist d a p i) = wd at he
  obtain ⟨hm, b16_4, fd, fa, fp, fi⟩ := lay_16c4_20f5_12f4_9f3_0f9 (M := 27) (c0 := 15) d a p i rfl (by decide) (by decide) he
  refine slot_of_raw (by rw [hm]; decide) (by rw [hm]; decide) ?_ hw
  rw [raw_1B hm]
  simp [decodeMajor1B, b16_4, fd, fa, fp, fi]

theorem st (d : BitVec 5) (h : BitVec 4) (a : BitVec 4) (w : BitVec 3) (i : BitVec 9) : Statement (.st d h a w i) := by
  intro hw _
  change decodeSlot (encode (.st d h a w i)) = .ok (.st d h a w i)
  have he : encode (.st d h a w i) = 0x38000000 + d.toNat * 1048576 + h.toNat * 65536 + a.toNat * 4096 + w.toNat * 512 + i.toNat := rfl
  generalize encode (.st d h a w i) = wd at he
  obtain ⟨hm, fd, fh, fa, fw, fi⟩ := lay_20f5_16f4_12f4_9f3_0f9 (M := 28) d h a w i rfl (by decide) he
  refine slot_of_raw (by rw [hm]; decide) (by rw [hm]; decide) ?_ hw
  rw [raw_1C hm]
  simp [decodeMajor1C, fd, fh, fa, fw, fi]

theorem vld (d : BitVec 5) (h : BitVec 4) (a : BitVec 4) (m : BitVec 3) (i : BitVec 9) : Statement (.vld d h a m i) := by
  intro hw _
  change decodeSlot (encode (.vld d h a m i)) = .ok (.vld d h a m i)
  have he : encode (.vld d h a m i) = 0x3a000000 + d.toNat * 1048576 + h.toNat * 65536 + a.toNat * 4096 + m.toNat * 512 + i.toNat := rfl
  generalize encode (.vld d h a m i) = wd at he
  obtain ⟨hm, fd, fh, fa, fm, fi⟩ := lay_20f5_16f4_12f4_9f3_0f9 (M := 29) d h a m i rfl (by decide) he
  have hx : h.toNat < 15 := by
    simp [wellFormed, below] at hw; omega
  have lt_d := d.isLt; have lt_h := h.isLt; have lt_a := a.isLt; have lt_m := m.isLt; have lt_i := i.isLt
  have n16_4_15 : bits wd 16 4 ≠ 15 := by simp only [bits]; omega
  refine slot_of_raw (by rw [hm]; decide) (by rw [hm]; decide) ?_ hw
  rw [raw_1D hm]
  simp [decodeMajor1D, n16_4_15, fd, fh, fa, fm, fi]

theorem vlds (d : BitVec 5) (n : BitVec 4) (m : BitVec 3) (x : BitVec 5) (w : BitVec 2) : Statement (.vlds d n m x w) := by
  intro hw _
  change decodeSlot (encode (.vlds d n m x w)) = .ok (.vlds d n m x w)
  have he : encode (.vlds d n m x w) = 0x3a0f0000 + d.toNat * 1048576 + n.toNat * 4096 + m.toNat * 512 + x.toNat * 4 + w.toNat := rfl
  generalize encode (.vlds d n m x w) = wd at he
  obtain ⟨hm, b7_2, b16_4, fd, fn, fm, fx, fw⟩ := lay_7c2_16c4_20f5_12f4_9f3_2f5_0f2 (M := 29) (c0 := 0) (c1 := 15) d n m x w rfl (by decide) (by decide) (by decide) he
  refine slot_of_raw (by rw [hm]; decide) (by rw [hm]; decide) ?_ hw
  rw [raw_1D hm]
  simp [decodeMajor1D, b7_2, b16_4, fd, fn, fm, fx, fw]

theorem vgath (d : BitVec 5) (n : BitVec 4) (m : BitVec 3) (x : BitVec 5) : Statement (.vgath d n m x) := by
  intro hw _
  change decodeSlot (encode (.vgath d n m x)) = .ok (.vgath d n m x)
  have he : encode (.vgath d n m x) = 0x3a0f0080 + d.toNat * 1048576 + n.toNat * 4096 + m.toNat * 512 + x.toNat * 4 := rfl
  generalize encode (.vgath d n m x) = wd at he
  obtain ⟨hm, b0_2, b7_2, b16_4, fd, fn, fm, fx⟩ := lay_0c2_7c2_16c4_20f5_12f4_9f3_2f5 (M := 29) (c0 := 0) (c1 := 1) (c2 := 15) d n m x rfl (by decide) (by decide) (by decide) (by decide) he
  refine slot_of_raw (by rw [hm]; decide) (by rw [hm]; decide) ?_ hw
  rw [raw_1D hm]
  simp [decodeMajor1D, b0_2, b7_2, b16_4, fd, fn, fm, fx]

theorem mld (d : BitVec 5) (n : BitVec 4) (x : BitVec 5) : Statement (.mld d n x) := by
  intro hw _
  change decodeSlot (encode (.mld d n x)) = .ok (.mld d n x)
  have he : encode (.mld d n x) = 0x3a0f0100 + d.toNat * 1048576 + n.toNat * 4096 + x.toNat * 4 := rfl
  generalize encode (.mld d n x) = wd at he
  obtain ⟨hm, b0_2, b7_5, b16_4, fd, fn, fx⟩ := lay_0c2_7c5_16c4_20f5_12f4_2f5 (M := 29) (c0 := 0) (c1 := 2) (c2 := 15) d n x rfl (by decide) (by decide) (by decide) (by decide) he
  have lt_d := d.isLt; have lt_n := n.isLt; have lt_x := x.isLt
  have b7_2 : bits wd 7 2 = 2 := by simp only [bits]; omega
  refine slot_of_raw (by rw [hm]; decide) (by rw [hm]; decide) ?_ hw
  rw [raw_1D hm]
  simp [decodeMajor1D, b0_2, b7_5, b16_4, b7_2, fd, fn, fx]

theorem vst (d : BitVec 5) (h : BitVec 4) (a : BitVec 4) (m : BitVec 3) (i : BitVec 9) : Statement (.vst d h a m i) := by
  intro hw _
  change decodeSlot (encode (.vst d h a m i)) = .ok (.vst d h a m i)
  have he : encode (.vst d h a m i) = 0x3c000000 + d.toNat * 1048576 + h.toNat * 65536 + a.toNat * 4096 + m.toNat * 512 + i.toNat := rfl
  generalize encode (.vst d h a m i) = wd at he
  obtain ⟨hm, fd, fh, fa, fm, fi⟩ := lay_20f5_16f4_12f4_9f3_0f9 (M := 30) d h a m i rfl (by decide) he
  have hx : h.toNat < 15 := by
    simp [wellFormed, below] at hw; omega
  have lt_d := d.isLt; have lt_h := h.isLt; have lt_a := a.isLt; have lt_m := m.isLt; have lt_i := i.isLt
  have n16_4_15 : bits wd 16 4 ≠ 15 := by simp only [bits]; omega
  refine slot_of_raw (by rw [hm]; decide) (by rw [hm]; decide) ?_ hw
  rw [raw_1E hm]
  simp [decodeMajor1E, n16_4_15, fd, fh, fa, fm, fi]

theorem vsts (d : BitVec 5) (n : BitVec 4) (m : BitVec 3) (x : BitVec 5) (w : BitVec 2) : Statement (.vsts d n m x w) := by
  intro hw _
  change decodeSlot (encode (.vsts d n m x w)) = .ok (.vsts d n m x w)
  have he : encode (.vsts d n m x w) = 0x3c0f0000 + d.toNat * 1048576 + n.toNat * 4096 + m.toNat * 512 + x.toNat * 4 + w.toNat := rfl
  generalize encode (.vsts d n m x w) = wd at he
  obtain ⟨hm, b7_2, b16_4, fd, fn, fm, fx, fw⟩ := lay_7c2_16c4_20f5_12f4_9f3_2f5_0f2 (M := 30) (c0 := 0) (c1 := 15) d n m x w rfl (by decide) (by decide) (by decide) he
  refine slot_of_raw (by rw [hm]; decide) (by rw [hm]; decide) ?_ hw
  rw [raw_1E hm]
  simp [decodeMajor1E, b7_2, b16_4, fd, fn, fm, fx, fw]

theorem vscat (d : BitVec 5) (n : BitVec 4) (m : BitVec 3) (x : BitVec 5) : Statement (.vscat d n m x) := by
  intro hw _
  change decodeSlot (encode (.vscat d n m x)) = .ok (.vscat d n m x)
  have he : encode (.vscat d n m x) = 0x3c0f0080 + d.toNat * 1048576 + n.toNat * 4096 + m.toNat * 512 + x.toNat * 4 := rfl
  generalize encode (.vscat d n m x) = wd at he
  obtain ⟨hm, b0_2, b7_2, b16_4, fd, fn, fm, fx⟩ := lay_0c2_7c2_16c4_20f5_12f4_9f3_2f5 (M := 30) (c0 := 0) (c1 := 1) (c2 := 15) d n m x rfl (by decide) (by decide) (by decide) (by decide) he
  refine slot_of_raw (by rw [hm]; decide) (by rw [hm]; decide) ?_ hw
  rw [raw_1E hm]
  simp [decodeMajor1E, b0_2, b7_2, b16_4, fd, fn, fm, fx]

theorem mst (d : BitVec 5) (n : BitVec 4) (x : BitVec 5) : Statement (.mst d n x) := by
  intro hw _
  change decodeSlot (encode (.mst d n x)) = .ok (.mst d n x)
  have he : encode (.mst d n x) = 0x3c0f0100 + d.toNat * 1048576 + n.toNat * 4096 + x.toNat * 4 := rfl
  generalize encode (.mst d n x) = wd at he
  obtain ⟨hm, b0_2, b7_5, b16_4, fd, fn, fx⟩ := lay_0c2_7c5_16c4_20f5_12f4_2f5 (M := 30) (c0 := 0) (c1 := 2) (c2 := 15) d n x rfl (by decide) (by decide) (by decide) (by decide) he
  have lt_d := d.isLt; have lt_n := n.isLt; have lt_x := x.isLt
  have b7_2 : bits wd 7 2 = 2 := by simp only [bits]; omega
  refine slot_of_raw (by rw [hm]; decide) (by rw [hm]; decide) ?_ hw
  rw [raw_1E hm]
  simp [decodeMajor1E, b0_2, b7_5, b16_4, b7_2, fd, fn, fx]

theorem lamOp (d : BitVec 5) (h : BitVec 4) (a : BitVec 4) (b : BitVec 5) (w : BitVec 1) (o : BitVec 4) :
    Statement (.lamOp d h a b w o) := by
  intro hw _
  change decodeSlot (encode (.lamOp d h a b w o)) = .ok (.lamOp d h a b w o)
  have he : encode (.lamOp d h a b w o) = 0x3e000000 + d.toNat * 1048576 + h.toNat * 65536 + a.toNat * 4096 + b.toNat * 128 + w.toNat * 64 + o.toNat := rfl
  generalize encode (.lamOp d h a b w o) = wd at he
  obtain ⟨hm, b4_2, fd, fh, fa, fb, fw, fo⟩ := lay_4c2_20f5_16f4_12f4_7f5_6f1_0f4 (M := 31) (c0 := 0) d h a b w o rfl (by decide) (by decide) he
  have hx : o.toNat < 9 := by
    simp [wellFormed, below] at hw; omega
  have lt_d := d.isLt; have lt_h := h.isLt; have lt_a := a.isLt; have lt_b := b.isLt; have lt_w := w.isLt; have lt_o := o.isLt
  have n0_6_9 : bits wd 0 6 ≠ 9 := by simp only [bits]; omega
  have n0_7_10 : bits wd 0 7 ≠ 10 := by simp only [bits]; omega
  have n0_12_11 : bits wd 0 12 ≠ 11 := by simp only [bits]; omega
  refine slot_of_raw (by rw [hm]; decide) (by rw [hm]; decide) ?_ hw
  rw [raw_1F hm]
  simp [decodeMajor1F, b4_2, n0_6_9, n0_7_10, n0_12_11, fd, fh, fa, fb, fw, fo]

theorem lamCas (d : BitVec 5) (h : BitVec 4) (a : BitVec 4) (b : BitVec 5) (w : BitVec 1) :
    Statement (.lamCas d h a b w) := by
  intro hw _
  change decodeSlot (encode (.lamCas d h a b w)) = .ok (.lamCas d h a b w)
  have he : encode (.lamCas d h a b w) = 0x3e000009 + d.toNat * 1048576 + h.toNat * 65536 + a.toNat * 4096 + b.toNat * 128 + w.toNat * 64 := rfl
  generalize encode (.lamCas d h a b w) = wd at he
  obtain ⟨hm, b0_6, fd, fh, fa, fb, fw⟩ := lay_0c6_20f5_16f4_12f4_7f5_6f1 (M := 31) (c0 := 9) d h a b w rfl (by decide) (by decide) he
  refine slot_of_raw (by rw [hm]; decide) (by rw [hm]; decide) ?_ hw
  rw [raw_1F hm]
  simp [decodeMajor1F, b0_6, fd, fh, fa, fb, fw]

theorem lamFac (d : BitVec 5) (h : BitVec 4) (a : BitVec 4) (b : BitVec 5) : Statement (.lamFac d h a b) := by
  intro hw _
  change decodeSlot (encode (.lamFac d h a b)) = .ok (.lamFac d h a b)
  have he : encode (.lamFac d h a b) = 0x3e00000a + d.toNat * 1048576 + h.toNat * 65536 + a.toNat * 4096 + b.toNat * 128 := rfl
  generalize encode (.lamFac d h a b) = wd at he
  obtain ⟨hm, b0_7, fd, fh, fa, fb⟩ := lay_0c7_20f5_16f4_12f4_7f5 (M := 31) (c0 := 10) d h a b rfl (by decide) (by decide) he
  have lt_d := d.isLt; have lt_h := h.isLt; have lt_a := a.isLt; have lt_b := b.isLt
  have b0_6 : bits wd 0 6 = 10 := by simp only [bits]; omega
  refine slot_of_raw (by rw [hm]; decide) (by rw [hm]; decide) ?_ hw
  rw [raw_1F hm]
  simp [decodeMajor1F, b0_7, b0_6, fd, fh, fa, fb]

theorem lamFacRd (d : BitVec 5) (h : BitVec 4) (a : BitVec 4) : Statement (.lamFacRd d h a) := by
  intro hw _
  change decodeSlot (encode (.lamFacRd d h a)) = .ok (.lamFacRd d h a)
  have he : encode (.lamFacRd d h a) = 0x3e00000b + d.toNat * 1048576 + h.toNat * 65536 + a.toNat * 4096 := rfl
  generalize encode (.lamFacRd d h a) = wd at he
  obtain ⟨hm, b0_12, fd, fh, fa⟩ := lay_0c12_20f5_16f4_12f4 (M := 31) (c0 := 11) d h a rfl (by decide) (by decide) he
  have lt_d := d.isLt; have lt_h := h.isLt; have lt_a := a.isLt
  have b0_6 : bits wd 0 6 = 11 := by simp only [bits]; omega
  have b0_7 : bits wd 0 7 = 11 := by simp only [bits]; omega
  refine slot_of_raw (by rw [hm]; decide) (by rw [hm]; decide) ?_ hw
  rw [raw_1F hm]
  simp [decodeMajor1F, b0_12, b0_6, b0_7, fd, fh, fa]

theorem drain (sc : BitVec 2) : Statement (.drain sc) := by
  intro hw _
  change decodeSlot (encode (.drain sc)) = .ok (.drain sc)
  have he : encode (.drain sc) = 0x40000000 + sc.toNat * 1048576 := rfl
  generalize encode (.drain sc) = wd at he
  obtain ⟨hm, b0_20, b22_3, fsc⟩ := lay_0c20_22c3_20f2 (M := 32) (c0 := 0) (c1 := 0) sc rfl (by decide) (by decide) (by decide) he
  refine slot_of_raw (by rw [hm]; decide) (by rw [hm]; decide) ?_ hw
  rw [raw_20 hm]
  simp [decodeMajor20, b0_20, b22_3, fsc]

theorem xlat (h : BitVec 4) (a : BitVec 5) : Statement (.xlat h a) := by
  intro hw _
  change decodeSlot (encode (.xlat h a)) = .ok (.xlat h a)
  have he : encode (.xlat h a) = 0x40400000 + h.toNat * 262144 + a.toNat * 8192 := rfl
  generalize encode (.xlat h a) = wd at he
  obtain ⟨hm, b0_13, b22_3, fh, fa⟩ := lay_0c13_22c3_18f4_13f5 (M := 32) (c0 := 0) (c1 := 1) h a rfl (by decide) (by decide) (by decide) he
  refine slot_of_raw (by rw [hm]; decide) (by rw [hm]; decide) ?_ hw
  rw [raw_20 hm]
  simp [decodeMajor20, b0_13, b22_3, fh, fa]

theorem hstat (d : BitVec 5) (h : BitVec 4) : Statement (.hstat d h) := by
  intro hw _
  change decodeSlot (encode (.hstat d h)) = .ok (.hstat d h)
  have he : encode (.hstat d h) = 0x40800000 + d.toNat * 131072 + h.toNat * 8192 := rfl
  generalize encode (.hstat d h) = wd at he
  obtain ⟨hm, b0_13, b22_3, fd, fh⟩ := lay_0c13_22c3_17f5_13f4 (M := 32) (c0 := 0) (c1 := 2) d h rfl (by decide) (by decide) (by decide) he
  refine slot_of_raw (by rw [hm]; decide) (by rw [hm]; decide) ?_ hw
  rw [raw_20 hm]
  simp [decodeMajor20, b0_13, b22_3, fd, fh]

theorem hdrop (h : BitVec 4) : Statement (.hdrop h) := by
  intro hw _
  change decodeSlot (encode (.hdrop h)) = .ok (.hdrop h)
  have he : encode (.hdrop h) = 0x40c00000 + h.toNat * 262144 := rfl
  generalize encode (.hdrop h) = wd at he
  obtain ⟨hm, b0_18, b22_3, fh⟩ := lay_0c18_22c3_18f4 (M := 32) (c0 := 0) (c1 := 3) h rfl (by decide) (by decide) (by decide) he
  refine slot_of_raw (by rw [hm]; decide) (by rw [hm]; decide) ?_ hw
  rw [raw_20 hm]
  simp [decodeMajor20, b0_18, b22_3, fh]

theorem tdef (n : BitVec 8) (a : BitVec 5) : Statement (.tdef n a) := by
  intro hw _
  change decodeSlot (encode (.tdef n a)) = .ok (.tdef n a)
  have he : encode (.tdef n a) = 0x42000000 + n.toNat * 16384 + a.toNat * 512 := rfl
  generalize encode (.tdef n a) = wd at he
  obtain ⟨hm, b0_9, b22_3, fn, fa⟩ := lay_0c9_22c3_14f8_9f5 (M := 33) (c0 := 0) (c1 := 0) n a rfl (by decide) (by decide) (by decide) he
  refine slot_of_raw (by rw [hm]; decide) (by rw [hm]; decide) ?_ hw
  rw [raw_21 hm]
  simp [decodeMajor21, b0_9, b22_3, fn, fa]

theorem tstat (n : BitVec 8) (d : BitVec 5) : Statement (.tstat n d) := by
  intro hw _
  change decodeSlot (encode (.tstat n d)) = .ok (.tstat n d)
  have he : encode (.tstat n d) = 0x42400000 + n.toNat * 16384 + d.toNat * 512 := rfl
  generalize encode (.tstat n d) = wd at he
  obtain ⟨hm, b0_9, b22_3, fn, fd⟩ := lay_0c9_22c3_14f8_9f5 (M := 33) (c0 := 0) (c1 := 1) n d rfl (by decide) (by decide) (by decide) he
  refine slot_of_raw (by rw [hm]; decide) (by rw [hm]; decide) ?_ hw
  rw [raw_21 hm]
  simp [decodeMajor21, b0_9, b22_3, fn, fd]

theorem tset (n : BitVec 8) (t : BitVec 2) : Statement (.tset n t) := by
  intro hw _
  change decodeSlot (encode (.tset n t)) = .ok (.tset n t)
  have he : encode (.tset n t) = 0x42800000 + n.toNat * 16384 + t.toNat * 4096 := rfl
  generalize encode (.tset n t) = wd at he
  obtain ⟨hm, b0_12, b22_3, fn, ft⟩ := lay_0c12_22c3_14f8_12f2 (M := 33) (c0 := 0) (c1 := 2) n t rfl (by decide) (by decide) (by decide) he
  refine slot_of_raw (by rw [hm]; decide) (by rw [hm]; decide) ?_ hw
  rw [raw_21 hm]
  simp [decodeMajor21, b0_12, b22_3, fn, ft]

theorem qdef (n : BitVec 3) (a : BitVec 5) : Statement (.qdef n a) := by
  intro hw _
  change decodeSlot (encode (.qdef n a)) = .ok (.qdef n a)
  have he : encode (.qdef n a) = 0x42c00000 + n.toNat * 524288 + a.toNat * 16384 := rfl
  generalize encode (.qdef n a) = wd at he
  obtain ⟨hm, b0_14, b22_3, fn, fa⟩ := lay_0c14_22c3_19f3_14f5 (M := 33) (c0 := 0) (c1 := 3) n a rfl (by decide) (by decide) (by decide) he
  refine slot_of_raw (by rw [hm]; decide) (by rw [hm]; decide) ?_ hw
  rw [raw_21 hm]
  simp [decodeMajor21, b0_14, b22_3, fn, fa]

theorem qpop (n : BitVec 3) : Statement (.qpop n) := by
  intro hw _
  change decodeSlot (encode (.qpop n)) = .ok (.qpop n)
  have he : encode (.qpop n) = 0x43000000 + n.toNat * 524288 := rfl
  generalize encode (.qpop n) = wd at he
  obtain ⟨hm, b0_19, b22_3, fn⟩ := lay_0c19_22c3_19f3 (M := 33) (c0 := 0) (c1 := 4) n rfl (by decide) (by decide) (by decide) he
  refine slot_of_raw (by rw [hm]; decide) (by rw [hm]; decide) ?_ hw
  rw [raw_21 hm]
  simp [decodeMajor21, b0_19, b22_3, fn]

theorem qstat (n : BitVec 3) (d : BitVec 5) : Statement (.qstat n d) := by
  intro hw _
  change decodeSlot (encode (.qstat n d)) = .ok (.qstat n d)
  have he : encode (.qstat n d) = 0x43400000 + n.toNat * 524288 + d.toNat * 16384 := rfl
  generalize encode (.qstat n d) = wd at he
  obtain ⟨hm, b0_14, b22_3, fn, fd⟩ := lay_0c14_22c3_19f3_14f5 (M := 33) (c0 := 0) (c1 := 5) n d rfl (by decide) (by decide) (by decide) he
  refine slot_of_raw (by rw [hm]; decide) (by rw [hm]; decide) ?_ hw
  rw [raw_21 hm]
  simp [decodeMajor21, b0_14, b22_3, fn, fd]

theorem mma (z : BitVec 6) (a : BitVec 8) (b : BitVec 8) : Statement (.mma z a b) := by
  intro hw _
  change decodeSlot (encode (.mma z a b)) = .ok (.mma z a b)
  have he : encode (.mma z a b) = 0x44000000 + z.toNat * 65536 + a.toNat * 256 + b.toNat := rfl
  generalize encode (.mma z a b) = wd at he
  obtain ⟨hm, b22_3, fz, fa, fb⟩ := lay_22c3_16f6_8f8_0f8 (M := 34) (c0 := 0) z a b rfl (by decide) (by decide) he
  refine slot_of_raw (by rw [hm]; decide) (by rw [hm]; decide) ?_ hw
  rw [raw_22 hm]
  simp [decodeMajor22, b22_3, fz, fa, fb]

theorem mmas (z : BitVec 6) (a : BitVec 8) (b : BitVec 8) : Statement (.mmas z a b) := by
  intro hw _
  change decodeSlot (encode (.mmas z a b)) = .ok (.mmas z a b)
  have he : encode (.mmas z a b) = 0x44400000 + z.toNat * 65536 + a.toNat * 256 + b.toNat := rfl
  generalize encode (.mmas z a b) = wd at he
  obtain ⟨hm, b22_3, fz, fa, fb⟩ := lay_22c3_16f6_8f8_0f8 (M := 34) (c0 := 1) z a b rfl (by decide) (by decide) he
  refine slot_of_raw (by rw [hm]; decide) (by rw [hm]; decide) ?_ hw
  rw [raw_22 hm]
  simp [decodeMajor22, b22_3, fz, fa, fb]

theorem mzero (z : BitVec 6) : Statement (.mzero z) := by
  intro hw _
  change decodeSlot (encode (.mzero z)) = .ok (.mzero z)
  have he : encode (.mzero z) = 0x44800000 + z.toNat * 65536 := rfl
  generalize encode (.mzero z) = wd at he
  obtain ⟨hm, b0_16, b22_3, fz⟩ := lay_0c16_22c3_16f6 (M := 34) (c0 := 0) (c1 := 2) z rfl (by decide) (by decide) (by decide) he
  refine slot_of_raw (by rw [hm]; decide) (by rw [hm]; decide) ?_ hw
  rw [raw_22 hm]
  simp [decodeMajor22, b0_16, b22_3, fz]

theorem mdrain (d : BitVec 6) (t : BitVec 8) (p : BitVec 1) (c : BitVec 5) (z : BitVec 1) :
    Statement (.mdrain d t p c z) := by
  intro hw _
  change decodeSlot (encode (.mdrain d t p c z)) = .ok (.mdrain d t p c z)
  have he : encode (.mdrain d t p c z) = 0x44c00000 + d.toNat * 65536 + t.toNat * 256 + p.toNat * 128 + c.toNat * 4 + z.toNat * 2 := rfl
  generalize encode (.mdrain d t p c z) = wd at he
  obtain ⟨hm, b0_1, b22_3, fd, ft, fp, fc, fz⟩ := lay_0c1_22c3_16f6_8f8_7f1_2f5_1f1 (M := 34) (c0 := 0) (c1 := 3) d t p c z rfl (by decide) (by decide) (by decide) he
  refine slot_of_raw (by rw [hm]; decide) (by rw [hm]; decide) ?_ hw
  rw [raw_22 hm]
  simp [decodeMajor22, b0_1, b22_3, fd, ft, fp, fc, fz]

theorem mload (d : BitVec 6) (t : BitVec 8) : Statement (.mload d t) := by
  intro hw _
  change decodeSlot (encode (.mload d t)) = .ok (.mload d t)
  have he : encode (.mload d t) = 0x45000000 + d.toNat * 65536 + t.toNat * 256 := rfl
  generalize encode (.mload d t) = wd at he
  obtain ⟨hm, b0_8, b22_3, fd, ft⟩ := lay_0c8_22c3_16f6_8f8 (M := 34) (c0 := 0) (c1 := 4) d t rfl (by decide) (by decide) (by decide) he
  refine slot_of_raw (by rw [hm]; decide) (by rw [hm]; decide) ?_ hw
  rw [raw_22 hm]
  simp [decodeMajor22, b0_8, b22_3, fd, ft]

theorem mwait (d : BitVec 6) : Statement (.mwait d) := by
  intro hw _
  change decodeSlot (encode (.mwait d)) = .ok (.mwait d)
  have he : encode (.mwait d) = 0x45400000 + d.toNat * 65536 := rfl
  generalize encode (.mwait d) = wd at he
  obtain ⟨hm, b0_16, b22_3, fd⟩ := lay_0c16_22c3_16f6 (M := 34) (c0 := 0) (c1 := 5) d rfl (by decide) (by decide) (by decide) he
  refine slot_of_raw (by rw [hm]; decide) (by rw [hm]; decide) ?_ hw
  rw [raw_22 hm]
  simp [decodeMajor22, b0_16, b22_3, fd]

theorem xtrIn (a : BitVec 5) (t : BitVec 3) (r : BitVec 7) : Statement (.xtrIn a t r) := by
  intro hw _
  change decodeSlot (encode (.xtrIn a t r)) = .ok (.xtrIn a t r)
  have he : encode (.xtrIn a t r) = 0x46000000 + a.toNat * 524288 + t.toNat * 65536 + r.toNat * 512 := rfl
  generalize encode (.xtrIn a t r) = wd at he
  obtain ⟨hm, b0_9, b24_1, fa, ft, fr⟩ := lay_0c9_24c1_19f5_16f3_9f7 (M := 35) (c0 := 0) (c1 := 0) a t r rfl (by decide) (by decide) (by decide) he
  refine slot_of_raw (by rw [hm]; decide) (by rw [hm]; decide) ?_ hw
  rw [raw_23 hm]
  simp [decodeMajor23, b0_9, b24_1, fa, ft, fr]

theorem xtrOut (n : BitVec 8) : Statement (.xtrOut n) := by
  intro hw _
  change decodeSlot (encode (.xtrOut n)) = .ok (.xtrOut n)
  have he : encode (.xtrOut n) = 0x47000000 + n.toNat * 65536 := rfl
  generalize encode (.xtrOut n) = wd at he
  obtain ⟨hm, b0_16, b24_1, fn⟩ := lay_0c16_24c1_16f8 (M := 35) (c0 := 0) (c1 := 1) n rfl (by decide) (by decide) (by decide) he
  refine slot_of_raw (by rw [hm]; decide) (by rw [hm]; decide) ?_ hw
  rw [raw_23 hm]
  simp [decodeMajor23, b0_16, b24_1, fn]

theorem ceCopyTile (t : BitVec 8) (h : BitVec 4) (a : BitVec 4) (k : BitVec 6) : Statement (.ceCopyTile t h a k) := by
  intro hw _
  change decodeSlot (encode (.ceCopyTile t h a k)) = .ok (.ceCopyTile t h a k)
  have he : encode (.ceCopyTile t h a k) = 0x48000000 + t.toNat * 16384 + h.toNat * 1024 + a.toNat * 64 + k.toNat := rfl
  generalize encode (.ceCopyTile t h a k) = wd at he
  obtain ⟨hm, b22_3, ft, fh, fa, fk⟩ := lay_22c3_14f8_10f4_6f4_0f6 (M := 36) (c0 := 0) t h a k rfl (by decide) (by decide) he
  refine slot_of_raw (by rw [hm]; decide) (by rw [hm]; decide) ?_ hw
  rw [raw_24 hm]
  simp [decodeMajor24, b22_3, ft, fh, fa, fk]

theorem ceCopy (h : BitVec 4) (a : BitVec 4) (k : BitVec 6) : Statement (.ceCopy h a k) := by
  intro hw _
  change decodeSlot (encode (.ceCopy h a k)) = .ok (.ceCopy h a k)
  have he : encode (.ceCopy h a k) = 0x48400000 + h.toNat * 262144 + a.toNat * 16384 + k.toNat * 256 := rfl
  generalize encode (.ceCopy h a k) = wd at he
  obtain ⟨hm, b0_8, b22_3, fh, fa, fk⟩ := lay_0c8_22c3_18f4_14f4_8f6 (M := 36) (c0 := 0) (c1 := 1) h a k rfl (by decide) (by decide) (by decide) he
  refine slot_of_raw (by rw [hm]; decide) (by rw [hm]; decide) ?_ hw
  rw [raw_24 hm]
  simp [decodeMajor24, b0_8, b22_3, fh, fa, fk]

theorem ceGath (h : BitVec 4) (a : BitVec 4) (k : BitVec 6) : Statement (.ceGath h a k) := by
  intro hw _
  change decodeSlot (encode (.ceGath h a k)) = .ok (.ceGath h a k)
  have he : encode (.ceGath h a k) = 0x48800000 + h.toNat * 262144 + a.toNat * 16384 + k.toNat * 256 := rfl
  generalize encode (.ceGath h a k) = wd at he
  obtain ⟨hm, b0_8, b22_3, fh, fa, fk⟩ := lay_0c8_22c3_18f4_14f4_8f6 (M := 36) (c0 := 0) (c1 := 2) h a k rfl (by decide) (by decide) (by decide) he
  refine slot_of_raw (by rw [hm]; decide) (by rw [hm]; decide) ?_ hw
  rw [raw_24 hm]
  simp [decodeMajor24, b0_8, b22_3, fh, fa, fk]

theorem ceScat (h : BitVec 4) (a : BitVec 4) (k : BitVec 6) : Statement (.ceScat h a k) := by
  intro hw _
  change decodeSlot (encode (.ceScat h a k)) = .ok (.ceScat h a k)
  have he : encode (.ceScat h a k) = 0x48c00000 + h.toNat * 262144 + a.toNat * 16384 + k.toNat * 256 := rfl
  generalize encode (.ceScat h a k) = wd at he
  obtain ⟨hm, b0_8, b22_3, fh, fa, fk⟩ := lay_0c8_22c3_18f4_14f4_8f6 (M := 36) (c0 := 0) (c1 := 3) h a k rfl (by decide) (by decide) (by decide) he
  refine slot_of_raw (by rw [hm]; decide) (by rw [hm]; decide) ?_ hw
  rw [raw_24 hm]
  simp [decodeMajor24, b0_8, b22_3, fh, fa, fk]

theorem ceFill (h : BitVec 4) (a : BitVec 4) (k : BitVec 6) : Statement (.ceFill h a k) := by
  intro hw _
  change decodeSlot (encode (.ceFill h a k)) = .ok (.ceFill h a k)
  have he : encode (.ceFill h a k) = 0x49000000 + h.toNat * 262144 + a.toNat * 16384 + k.toNat * 256 := rfl
  generalize encode (.ceFill h a k) = wd at he
  obtain ⟨hm, b0_8, b22_3, fh, fa, fk⟩ := lay_0c8_22c3_18f4_14f4_8f6 (M := 36) (c0 := 0) (c1 := 4) h a k rfl (by decide) (by decide) (by decide) he
  refine slot_of_raw (by rw [hm]; decide) (by rw [hm]; decide) ?_ hw
  rw [raw_24 hm]
  simp [decodeMajor24, b0_8, b22_3, fh, fa, fk]

theorem ceChk (h : BitVec 4) (a : BitVec 4) (k : BitVec 6) : Statement (.ceChk h a k) := by
  intro hw _
  change decodeSlot (encode (.ceChk h a k)) = .ok (.ceChk h a k)
  have he : encode (.ceChk h a k) = 0x49400000 + h.toNat * 262144 + a.toNat * 16384 + k.toNat * 256 := rfl
  generalize encode (.ceChk h a k) = wd at he
  obtain ⟨hm, b0_8, b22_3, fh, fa, fk⟩ := lay_0c8_22c3_18f4_14f4_8f6 (M := 36) (c0 := 0) (c1 := 5) h a k rfl (by decide) (by decide) (by decide) he
  refine slot_of_raw (by rw [hm]; decide) (by rw [hm]; decide) ?_ hw
  rw [raw_24 hm]
  simp [decodeMajor24, b0_8, b22_3, fh, fa, fk]

theorem shSend (t : BitVec 8) (p : BitVec 1) (a : BitVec 4) (k : BitVec 6) : Statement (.shSend t p a k) := by
  intro hw _
  change decodeSlot (encode (.shSend t p a k)) = .ok (.shSend t p a k)
  have he : encode (.shSend t p a k) = 0x4a000000 + t.toNat * 8192 + p.toNat * 4096 + a.toNat * 256 + k.toNat * 4 := rfl
  generalize encode (.shSend t p a k) = wd at he
  obtain ⟨hm, b0_2, b21_4, ft, fp, fa, fk⟩ := lay_0c2_21c4_13f8_12f1_8f4_2f6 (M := 37) (c0 := 0) (c1 := 0) t p a k rfl (by decide) (by decide) (by decide) he
  refine slot_of_raw (by rw [hm]; decide) (by rw [hm]; decide) ?_ hw
  rw [raw_25 hm]
  simp [decodeMajor25, b0_2, b21_4, ft, fp, fa, fk]

theorem shRedAr (g : BitVec 5) (d : BitVec 8) (k : BitVec 6) (c : BitVec 2) : Statement (.shRedAr g d k c) := by
  intro hw _
  change decodeSlot (encode (.shRedAr g d k c)) = .ok (.shRedAr g d k c)
  have he : encode (.shRedAr g d k c) = 0x4a200000 + g.toNat * 65536 + d.toNat * 256 + k.toNat * 4 + c.toNat := rfl
  generalize encode (.shRedAr g d k c) = wd at he
  obtain ⟨hm, b21_4, fg, fd, fk, fc⟩ := lay_21c4_16f5_8f8_2f6_0f2 (M := 37) (c0 := 1) g d k c rfl (by decide) (by decide) he
  refine slot_of_raw (by rw [hm]; decide) (by rw [hm]; decide) ?_ hw
  rw [raw_25 hm]
  simp [decodeMajor25, b21_4, fg, fd, fk, fc]

theorem shRedRs (g : BitVec 5) (d : BitVec 8) (k : BitVec 6) (c : BitVec 2) : Statement (.shRedRs g d k c) := by
  intro hw _
  change decodeSlot (encode (.shRedRs g d k c)) = .ok (.shRedRs g d k c)
  have he : encode (.shRedRs g d k c) = 0x4a400000 + g.toNat * 65536 + d.toNat * 256 + k.toNat * 4 + c.toNat := rfl
  generalize encode (.shRedRs g d k c) = wd at he
  obtain ⟨hm, b21_4, fg, fd, fk, fc⟩ := lay_21c4_16f5_8f8_2f6_0f2 (M := 37) (c0 := 2) g d k c rfl (by decide) (by decide) he
  refine slot_of_raw (by rw [hm]; decide) (by rw [hm]; decide) ?_ hw
  rw [raw_25 hm]
  simp [decodeMajor25, b21_4, fg, fd, fk, fc]

theorem shRedArFac (g : BitVec 5) (d : BitVec 8) (k : BitVec 6) (c : BitVec 2) : Statement (.shRedArFac g d k c) := by
  intro hw _
  change decodeSlot (encode (.shRedArFac g d k c)) = .ok (.shRedArFac g d k c)
  have he : encode (.shRedArFac g d k c) = 0x4a600000 + g.toNat * 65536 + d.toNat * 256 + k.toNat * 4 + c.toNat := rfl
  generalize encode (.shRedArFac g d k c) = wd at he
  obtain ⟨hm, b21_4, fg, fd, fk, fc⟩ := lay_21c4_16f5_8f8_2f6_0f2 (M := 37) (c0 := 3) g d k c rfl (by decide) (by decide) he
  refine slot_of_raw (by rw [hm]; decide) (by rw [hm]; decide) ?_ hw
  rw [raw_25 hm]
  simp [decodeMajor25, b21_4, fg, fd, fk, fc]

theorem shRedRsFac (g : BitVec 5) (d : BitVec 8) (k : BitVec 6) (c : BitVec 2) : Statement (.shRedRsFac g d k c) := by
  intro hw _
  change decodeSlot (encode (.shRedRsFac g d k c)) = .ok (.shRedRsFac g d k c)
  have he : encode (.shRedRsFac g d k c) = 0x4a800000 + g.toNat * 65536 + d.toNat * 256 + k.toNat * 4 + c.toNat := rfl
  generalize encode (.shRedRsFac g d k c) = wd at he
  obtain ⟨hm, b21_4, fg, fd, fk, fc⟩ := lay_21c4_16f5_8f8_2f6_0f2 (M := 37) (c0 := 4) g d k c rfl (by decide) (by decide) he
  refine slot_of_raw (by rw [hm]; decide) (by rw [hm]; decide) ?_ hw
  rw [raw_25 hm]
  simp [decodeMajor25, b21_4, fg, fd, fk, fc]

theorem shGath (g : BitVec 5) (d : BitVec 8) (k : BitVec 6) : Statement (.shGath g d k) := by
  intro hw _
  change decodeSlot (encode (.shGath g d k)) = .ok (.shGath g d k)
  have he : encode (.shGath g d k) = 0x4aa00000 + g.toNat * 65536 + d.toNat * 256 + k.toNat * 4 := rfl
  generalize encode (.shGath g d k) = wd at he
  obtain ⟨hm, b0_2, b21_4, fg, fd, fk⟩ := lay_0c2_21c4_16f5_8f8_2f6 (M := 37) (c0 := 0) (c1 := 5) g d k rfl (by decide) (by decide) (by decide) he
  refine slot_of_raw (by rw [hm]; decide) (by rw [hm]; decide) ?_ hw
  rw [raw_25 hm]
  simp [decodeMajor25, b0_2, b21_4, fg, fd, fk]

theorem shBcast (g : BitVec 5) (d : BitVec 8) (k : BitVec 6) (r : BitVec 2) : Statement (.shBcast g d k r) := by
  intro hw _
  change decodeSlot (encode (.shBcast g d k r)) = .ok (.shBcast g d k r)
  have he : encode (.shBcast g d k r) = 0x4ac00000 + g.toNat * 65536 + d.toNat * 256 + k.toNat * 4 + r.toNat := rfl
  generalize encode (.shBcast g d k r) = wd at he
  obtain ⟨hm, b21_4, fg, fd, fk, fr⟩ := lay_21c4_16f5_8f8_2f6_0f2 (M := 37) (c0 := 6) g d k r rfl (by decide) (by decide) he
  refine slot_of_raw (by rw [hm]; decide) (by rw [hm]; decide) ?_ hw
  rw [raw_25 hm]
  simp [decodeMajor25, b21_4, fg, fd, fk, fr]

theorem shA2a (g : BitVec 5) (d : BitVec 8) (k : BitVec 6) : Statement (.shA2a g d k) := by
  intro hw _
  change decodeSlot (encode (.shA2a g d k)) = .ok (.shA2a g d k)
  have he : encode (.shA2a g d k) = 0x4ae00000 + g.toNat * 65536 + d.toNat * 256 + k.toNat * 4 := rfl
  generalize encode (.shA2a g d k) = wd at he
  obtain ⟨hm, b0_2, b21_4, fg, fd, fk⟩ := lay_0c2_21c4_16f5_8f8_2f6 (M := 37) (c0 := 0) (c1 := 7) g d k rfl (by decide) (by decide) (by decide) he
  refine slot_of_raw (by rw [hm]; decide) (by rw [hm]; decide) ?_ hw
  rw [raw_25 hm]
  simp [decodeMajor25, b0_2, b21_4, fg, fd, fk]

theorem shRot (g : BitVec 5) (t : BitVec 8) (k : BitVec 6) (r : BitVec 1) : Statement (.shRot g t k r) := by
  intro hw _
  change decodeSlot (encode (.shRot g t k r)) = .ok (.shRot g t k r)
  have he : encode (.shRot g t k r) = 0x4b000000 + g.toNat * 65536 + t.toNat * 256 + k.toNat * 4 + r.toNat * 2 := rfl
  generalize encode (.shRot g t k r) = wd at he
  obtain ⟨hm, b0_1, b21_4, fg, ft, fk, fr⟩ := lay_0c1_21c4_16f5_8f8_2f6_1f1 (M := 37) (c0 := 0) (c1 := 8) g t k r rfl (by decide) (by decide) (by decide) he
  refine slot_of_raw (by rw [hm]; decide) (by rw [hm]; decide) ?_ hw
  rw [raw_25 hm]
  simp [decodeMajor25, b0_1, b21_4, fg, ft, fk, fr]

theorem shStat (d : BitVec 5) : Statement (.shStat d) := by
  intro hw _
  change decodeSlot (encode (.shStat d)) = .ok (.shStat d)
  have he : encode (.shStat d) = 0x4b200000 + d.toNat * 65536 := rfl
  generalize encode (.shStat d) = wd at he
  obtain ⟨hm, b0_16, b21_4, fd⟩ := lay_0c16_21c4_16f5 (M := 37) (c0 := 0) (c1 := 9) d rfl (by decide) (by decide) (by decide) he
  refine slot_of_raw (by rw [hm]; decide) (by rw [hm]; decide) ?_ hw
  rw [raw_25 hm]
  simp [decodeMajor25, b0_16, b21_4, fd]

theorem acset (k : BitVec 6) (a : BitVec 5) (p : BitVec 3) : Statement (.acset k a p) := by
  intro hw _
  change decodeSlot (encode (.acset k a p)) = .ok (.acset k a p)
  have he : encode (.acset k a p) = 0x4c000000 + k.toNat * 131072 + a.toNat * 4096 + p.toNat * 512 := rfl
  generalize encode (.acset k a p) = wd at he
  obtain ⟨hm, b0_9, b23_2, fk, fa, fp⟩ := lay_0c9_23c2_17f6_12f5_9f3 (M := 38) (c0 := 0) (c1 := 0) k a p rfl (by decide) (by decide) (by decide) he
  refine slot_of_raw (by rw [hm]; decide) (by rw [hm]; decide) ?_ hw
  rw [raw_26 hm]
  simp [decodeMajor26, b0_9, b23_2, fk, fa, fp]

theorem acadd (k : BitVec 6) (p : BitVec 3) (i : BitVec 9) : Statement (.acadd k p i) := by
  intro hw _
  change decodeSlot (encode (.acadd k p i)) = .ok (.acadd k p i)
  have he : encode (.acadd k p i) = 0x4c800000 + k.toNat * 131072 + p.toNat * 512 + i.toNat := rfl
  generalize encode (.acadd k p i) = wd at he
  obtain ⟨hm, b12_5, b23_2, fk, fp, fi⟩ := lay_12c5_23c2_17f6_9f3_0f9 (M := 38) (c0 := 0) (c1 := 1) k p i rfl (by decide) (by decide) (by decide) he
  refine slot_of_raw (by rw [hm]; decide) (by rw [hm]; decide) ?_ hw
  rw [raw_26 hm]
  simp [decodeMajor26, b12_5, b23_2, fk, fp, fi]

theorem acwait (k : BitVec 6) (t : BitVec 5) (p : BitVec 3) (n : BitVec 9) : Statement (.acwait k t p n) := by
  intro hw _
  change decodeSlot (encode (.acwait k t p n)) = .ok (.acwait k t p n)
  have he : encode (.acwait k t p n) = 0x4d000000 + k.toNat * 131072 + t.toNat * 4096 + p.toNat * 512 + n.toNat := rfl
  generalize encode (.acwait k t p n) = wd at he
  obtain ⟨hm, b23_2, fk, ft, fp, fn⟩ := lay_23c2_17f6_12f5_9f3_0f9 (M := 38) (c0 := 2) k t p n rfl (by decide) (by decide) he
  refine slot_of_raw (by rw [hm]; decide) (by rw [hm]; decide) ?_ hw
  rw [raw_26 hm]
  simp [decodeMajor26, b23_2, fk, ft, fp, fn]

theorem acrd (k : BitVec 6) (d : BitVec 5) (p : BitVec 3) : Statement (.acrd k d p) := by
  intro hw _
  change decodeSlot (encode (.acrd k d p)) = .ok (.acrd k d p)
  have he : encode (.acrd k d p) = 0x4d800000 + k.toNat * 131072 + d.toNat * 4096 + p.toNat * 512 := rfl
  generalize encode (.acrd k d p) = wd at he
  obtain ⟨hm, b0_9, b23_2, fk, fd, fp⟩ := lay_0c9_23c2_17f6_12f5_9f3 (M := 38) (c0 := 0) (c1 := 3) k d p rfl (by decide) (by decide) (by decide) he
  refine slot_of_raw (by rw [hm]; decide) (by rw [hm]; decide) ?_ hw
  rw [raw_26 hm]
  simp [decodeMajor26, b0_9, b23_2, fk, fd, fp]

theorem thLd (h : BitVec 4) (a : BitVec 4) (b : BitVec 4) (k : BitVec 6) : Statement (.thLd h a b k) := by
  intro hw _
  change decodeSlot (encode (.thLd h a b k)) = .ok (.thLd h a b k)
  have he : encode (.thLd h a b k) = 0x4e000000 + h.toNat * 131072 + a.toNat * 8192 + b.toNat * 512 + k.toNat * 8 := rfl
  generalize encode (.thLd h a b k) = wd at he
  obtain ⟨hm, b0_3, b21_4, fh, fa, fb, fk⟩ := lay_0c3_21c4_17f4_13f4_9f4_3f6 (M := 39) (c0 := 0) (c1 := 0) h a b k rfl (by decide) (by decide) (by decide) he
  refine slot_of_raw (by rw [hm]; decide) (by rw [hm]; decide) ?_ hw
  rw [raw_27 hm]
  simp [decodeMajor27, b0_3, b21_4, fh, fa, fb, fk]

theorem thSt (h : BitVec 4) (a : BitVec 4) (b : BitVec 4) (k : BitVec 6) : Statement (.thSt h a b k) := by
  intro hw _
  change decodeSlot (encode (.thSt h a b k)) = .ok (.thSt h a b k)
  have he : encode (.thSt h a b k) = 0x4e200000 + h.toNat * 131072 + a.toNat * 8192 + b.toNat * 512 + k.toNat * 8 := rfl
  generalize encode (.thSt h a b k) = wd at he
  obtain ⟨hm, b0_3, b21_4, fh, fa, fb, fk⟩ := lay_0c3_21c4_17f4_13f4_9f4_3f6 (M := 39) (c0 := 0) (c1 := 1) h a b k rfl (by decide) (by decide) (by decide) he
  refine slot_of_raw (by rw [hm]; decide) (by rw [hm]; decide) ?_ hw
  rw [raw_27 hm]
  simp [decodeMajor27, b0_3, b21_4, fh, fa, fb, fk]

theorem thAmo (h : BitVec 4) (a : BitVec 4) (b : BitVec 4) (k : BitVec 6) : Statement (.thAmo h a b k) := by
  intro hw _
  change decodeSlot (encode (.thAmo h a b k)) = .ok (.thAmo h a b k)
  have he : encode (.thAmo h a b k) = 0x4e400000 + h.toNat * 131072 + a.toNat * 8192 + b.toNat * 512 + k.toNat * 8 := rfl
  generalize encode (.thAmo h a b k) = wd at he
  obtain ⟨hm, b0_3, b21_4, fh, fa, fb, fk⟩ := lay_0c3_21c4_17f4_13f4_9f4_3f6 (M := 39) (c0 := 0) (c1 := 2) h a b k rfl (by decide) (by decide) (by decide) he
  refine slot_of_raw (by rw [hm]; decide) (by rw [hm]; decide) ?_ hw
  rw [raw_27 hm]
  simp [decodeMajor27, b0_3, b21_4, fh, fa, fb, fk]

theorem thCas (h : BitVec 4) (a : BitVec 4) (b : BitVec 4) (k : BitVec 6) : Statement (.thCas h a b k) := by
  intro hw _
  change decodeSlot (encode (.thCas h a b k)) = .ok (.thCas h a b k)
  have he : encode (.thCas h a b k) = 0x4e600000 + h.toNat * 131072 + a.toNat * 8192 + b.toNat * 512 + k.toNat * 8 := rfl
  generalize encode (.thCas h a b k) = wd at he
  obtain ⟨hm, b0_3, b21_4, fh, fa, fb, fk⟩ := lay_0c3_21c4_17f4_13f4_9f4_3f6 (M := 39) (c0 := 0) (c1 := 3) h a b k rfl (by decide) (by decide) (by decide) he
  refine slot_of_raw (by rw [hm]; decide) (by rw [hm]; decide) ?_ hw
  rw [raw_27 hm]
  simp [decodeMajor27, b0_3, b21_4, fh, fa, fb, fk]

theorem thEnq (h : BitVec 4) (a : BitVec 4) (b : BitVec 4) (k : BitVec 6) : Statement (.thEnq h a b k) := by
  intro hw _
  change decodeSlot (encode (.thEnq h a b k)) = .ok (.thEnq h a b k)
  have he : encode (.thEnq h a b k) = 0x4e800000 + h.toNat * 131072 + a.toNat * 8192 + b.toNat * 512 + k.toNat * 8 := rfl
  generalize encode (.thEnq h a b k) = wd at he
  obtain ⟨hm, b0_3, b21_4, fh, fa, fb, fk⟩ := lay_0c3_21c4_17f4_13f4_9f4_3f6 (M := 39) (c0 := 0) (c1 := 4) h a b k rfl (by decide) (by decide) (by decide) he
  refine slot_of_raw (by rw [hm]; decide) (by rw [hm]; decide) ?_ hw
  rw [raw_27 hm]
  simp [decodeMajor27, b0_3, b21_4, fh, fa, fb, fk]

theorem thDeq (h : BitVec 4) (a : BitVec 4) (b : BitVec 4) (k : BitVec 6) : Statement (.thDeq h a b k) := by
  intro hw _
  change decodeSlot (encode (.thDeq h a b k)) = .ok (.thDeq h a b k)
  have he : encode (.thDeq h a b k) = 0x4ea00000 + h.toNat * 131072 + a.toNat * 8192 + b.toNat * 512 + k.toNat * 8 := rfl
  generalize encode (.thDeq h a b k) = wd at he
  obtain ⟨hm, b0_3, b21_4, fh, fa, fb, fk⟩ := lay_0c3_21c4_17f4_13f4_9f4_3f6 (M := 39) (c0 := 0) (c1 := 5) h a b k rfl (by decide) (by decide) (by decide) he
  refine slot_of_raw (by rw [hm]; decide) (by rw [hm]; decide) ?_ hw
  rw [raw_27 hm]
  simp [decodeMajor27, b0_3, b21_4, fh, fa, fb, fk]

theorem thChase (h : BitVec 4) (a : BitVec 4) (b : BitVec 4) (k : BitVec 6) : Statement (.thChase h a b k) := by
  intro hw _
  change decodeSlot (encode (.thChase h a b k)) = .ok (.thChase h a b k)
  have he : encode (.thChase h a b k) = 0x4ec00000 + h.toNat * 131072 + a.toNat * 8192 + b.toNat * 512 + k.toNat * 8 := rfl
  generalize encode (.thChase h a b k) = wd at he
  obtain ⟨hm, b0_3, b21_4, fh, fa, fb, fk⟩ := lay_0c3_21c4_17f4_13f4_9f4_3f6 (M := 39) (c0 := 0) (c1 := 6) h a b k rfl (by decide) (by decide) (by decide) he
  refine slot_of_raw (by rw [hm]; decide) (by rw [hm]; decide) ?_ hw
  rw [raw_27 hm]
  simp [decodeMajor27, b0_3, b21_4, fh, fa, fb, fk]

theorem thClaim (h : BitVec 4) (a : BitVec 4) (b : BitVec 4) (k : BitVec 6) : Statement (.thClaim h a b k) := by
  intro hw _
  change decodeSlot (encode (.thClaim h a b k)) = .ok (.thClaim h a b k)
  have he : encode (.thClaim h a b k) = 0x4ee00000 + h.toNat * 131072 + a.toNat * 8192 + b.toNat * 512 + k.toNat * 8 := rfl
  generalize encode (.thClaim h a b k) = wd at he
  obtain ⟨hm, b0_3, b21_4, fh, fa, fb, fk⟩ := lay_0c3_21c4_17f4_13f4_9f4_3f6 (M := 39) (c0 := 0) (c1 := 7) h a b k rfl (by decide) (by decide) (by decide) he
  refine slot_of_raw (by rw [hm]; decide) (by rw [hm]; decide) ?_ hw
  rw [raw_27 hm]
  simp [decodeMajor27, b0_3, b21_4, fh, fa, fb, fk]

theorem thFac (h : BitVec 4) (a : BitVec 4) (b : BitVec 4) (k : BitVec 6) : Statement (.thFac h a b k) := by
  intro hw _
  change decodeSlot (encode (.thFac h a b k)) = .ok (.thFac h a b k)
  have he : encode (.thFac h a b k) = 0x4f000000 + h.toNat * 131072 + a.toNat * 8192 + b.toNat * 512 + k.toNat * 8 := rfl
  generalize encode (.thFac h a b k) = wd at he
  obtain ⟨hm, b0_3, b21_4, fh, fa, fb, fk⟩ := lay_0c3_21c4_17f4_13f4_9f4_3f6 (M := 39) (c0 := 0) (c1 := 8) h a b k rfl (by decide) (by decide) (by decide) he
  refine slot_of_raw (by rw [hm]; decide) (by rw [hm]; decide) ?_ hw
  rw [raw_27 hm]
  simp [decodeMajor27, b0_3, b21_4, fh, fa, fb, fk]

theorem thCall (h : BitVec 4) (a : BitVec 4) (b : BitVec 4) (k : BitVec 6) : Statement (.thCall h a b k) := by
  intro hw _
  change decodeSlot (encode (.thCall h a b k)) = .ok (.thCall h a b k)
  have he : encode (.thCall h a b k) = 0x4f200000 + h.toNat * 131072 + a.toNat * 8192 + b.toNat * 512 + k.toNat * 8 := rfl
  generalize encode (.thCall h a b k) = wd at he
  obtain ⟨hm, b0_3, b21_4, fh, fa, fb, fk⟩ := lay_0c3_21c4_17f4_13f4_9f4_3f6 (M := 39) (c0 := 0) (c1 := 9) h a b k rfl (by decide) (by decide) (by decide) he
  refine slot_of_raw (by rw [hm]; decide) (by rw [hm]; decide) ?_ hw
  rw [raw_27 hm]
  simp [decodeMajor27, b0_3, b21_4, fh, fa, fb, fk]

theorem mbPost (t : BitVec 5) (b : BitVec 4) (k : BitVec 6) : Statement (.mbPost t b k) := by
  intro hw _
  change decodeSlot (encode (.mbPost t b k)) = .ok (.mbPost t b k)
  have he : encode (.mbPost t b k) = 0x50000000 + t.toNat * 524288 + b.toNat * 32768 + k.toNat * 512 := rfl
  generalize encode (.mbPost t b k) = wd at he
  obtain ⟨hm, b0_9, b24_1, ft, fb, fk⟩ := lay_0c9_24c1_19f5_15f4_9f6 (M := 40) (c0 := 0) (c1 := 0) t b k rfl (by decide) (by decide) (by decide) he
  refine slot_of_raw (by rw [hm]; decide) (by rw [hm]; decide) ?_ hw
  rw [raw_28 hm]
  simp [decodeMajor28, b0_9, b24_1, ft, fb, fk]

theorem mbTake (n : BitVec 2) (b : BitVec 4) (t : BitVec 5) (p : BitVec 3) (k : BitVec 6) :
    Statement (.mbTake n b t p k) := by
  intro hw _
  change decodeSlot (encode (.mbTake n b t p k)) = .ok (.mbTake n b t p k)
  have he : encode (.mbTake n b t p k) = 0x51000000 + n.toNat * 4194304 + b.toNat * 262144 + t.toNat * 8192 + p.toNat * 1024 + k.toNat * 16 := rfl
  generalize encode (.mbTake n b t p k) = wd at he
  obtain ⟨hm, b0_4, b24_1, fn, fb, ft, fp, fk⟩ := lay_0c4_24c1_22f2_18f4_13f5_10f3_4f6 (M := 40) (c0 := 0) (c1 := 1) n b t p k rfl (by decide) (by decide) (by decide) he
  refine slot_of_raw (by rw [hm]; decide) (by rw [hm]; decide) ?_ hw
  rw [raw_28 hm]
  simp [decodeMajor28, b0_4, b24_1, fn, fb, ft, fp, fk]

theorem clBind (a : BitVec 5) (k : BitVec 6) : Statement (.clBind a k) := by
  intro hw _
  change decodeSlot (encode (.clBind a k)) = .ok (.clBind a k)
  have he : encode (.clBind a k) = 0x52000000 + a.toNat * 65536 + k.toNat * 1024 := rfl
  generalize encode (.clBind a k) = wd at he
  obtain ⟨hm, b0_10, b21_4, fa, fk⟩ := lay_0c10_21c4_16f5_10f6 (M := 41) (c0 := 0) (c1 := 0) a k rfl (by decide) (by decide) (by decide) he
  refine slot_of_raw (by rw [hm]; decide) (by rw [hm]; decide) ?_ hw
  rw [raw_29 hm]
  simp [decodeMajor29, b0_10, b21_4, fa, fk]

theorem clLd (h : BitVec 4) (a : BitVec 4) (k : BitVec 6) : Statement (.clLd h a k) := by
  intro hw _
  change decodeSlot (encode (.clLd h a k)) = .ok (.clLd h a k)
  have he : encode (.clLd h a k) = 0x52200000 + h.toNat * 131072 + a.toNat * 8192 + k.toNat * 128 := rfl
  generalize encode (.clLd h a k) = wd at he
  obtain ⟨hm, b0_7, b21_4, fh, fa, fk⟩ := lay_0c7_21c4_17f4_13f4_7f6 (M := 41) (c0 := 0) (c1 := 1) h a k rfl (by decide) (by decide) (by decide) he
  refine slot_of_raw (by rw [hm]; decide) (by rw [hm]; decide) ?_ hw
  rw [raw_29 hm]
  simp [decodeMajor29, b0_7, b21_4, fh, fa, fk]

theorem clClr (a : BitVec 5) (k : BitVec 6) : Statement (.clClr a k) := by
  intro hw _
  change decodeSlot (encode (.clClr a k)) = .ok (.clClr a k)
  have he : encode (.clClr a k) = 0x52400000 + a.toNat * 65536 + k.toNat * 1024 := rfl
  generalize encode (.clClr a k) = wd at he
  obtain ⟨hm, b0_10, b21_4, fa, fk⟩ := lay_0c10_21c4_16f5_10f6 (M := 41) (c0 := 0) (c1 := 2) a k rfl (by decide) (by decide) (by decide) he
  refine slot_of_raw (by rw [hm]; decide) (by rw [hm]; decide) ?_ hw
  rw [raw_29 hm]
  simp [decodeMajor29, b0_10, b21_4, fa, fk]

theorem clDec (a : BitVec 5) (k : BitVec 6) : Statement (.clDec a k) := by
  intro hw _
  change decodeSlot (encode (.clDec a k)) = .ok (.clDec a k)
  have he : encode (.clDec a k) = 0x52600000 + a.toNat * 65536 + k.toNat * 1024 := rfl
  generalize encode (.clDec a k) = wd at he
  obtain ⟨hm, b0_10, b21_4, fa, fk⟩ := lay_0c10_21c4_16f5_10f6 (M := 41) (c0 := 0) (c1 := 3) a k rfl (by decide) (by decide) (by decide) he
  refine slot_of_raw (by rw [hm]; decide) (by rw [hm]; decide) ?_ hw
  rw [raw_29 hm]
  simp [decodeMajor29, b0_10, b21_4, fa, fk]

theorem clProp (a : BitVec 5) (k : BitVec 6) : Statement (.clProp a k) := by
  intro hw _
  change decodeSlot (encode (.clProp a k)) = .ok (.clProp a k)
  have he : encode (.clProp a k) = 0x52800000 + a.toNat * 65536 + k.toNat * 1024 := rfl
  generalize encode (.clProp a k) = wd at he
  obtain ⟨hm, b0_10, b21_4, fa, fk⟩ := lay_0c10_21c4_16f5_10f6 (M := 41) (c0 := 0) (c1 := 4) a k rfl (by decide) (by decide) (by decide) he
  refine slot_of_raw (by rw [hm]; decide) (by rw [hm]; decide) ?_ hw
  rw [raw_29 hm]
  simp [decodeMajor29, b0_10, b21_4, fa, fk]

theorem clBt (a : BitVec 5) (k : BitVec 6) : Statement (.clBt a k) := by
  intro hw _
  change decodeSlot (encode (.clBt a k)) = .ok (.clBt a k)
  have he : encode (.clBt a k) = 0x52a00000 + a.toNat * 65536 + k.toNat * 1024 := rfl
  generalize encode (.clBt a k) = wd at he
  obtain ⟨hm, b0_10, b21_4, fa, fk⟩ := lay_0c10_21c4_16f5_10f6 (M := 41) (c0 := 0) (c1 := 5) a k rfl (by decide) (by decide) (by decide) he
  refine slot_of_raw (by rw [hm]; decide) (by rw [hm]; decide) ?_ hw
  rw [raw_29 hm]
  simp [decodeMajor29, b0_10, b21_4, fa, fk]

theorem clSt (h : BitVec 4) (a : BitVec 4) (k : BitVec 6) : Statement (.clSt h a k) := by
  intro hw _
  change decodeSlot (encode (.clSt h a k)) = .ok (.clSt h a k)
  have he : encode (.clSt h a k) = 0x52c00000 + h.toNat * 131072 + a.toNat * 8192 + k.toNat * 128 := rfl
  generalize encode (.clSt h a k) = wd at he
  obtain ⟨hm, b0_7, b21_4, fh, fa, fk⟩ := lay_0c7_21c4_17f4_13f4_7f6 (M := 41) (c0 := 0) (c1 := 6) h a k rfl (by decide) (by decide) (by decide) he
  refine slot_of_raw (by rw [hm]; decide) (by rw [hm]; decide) ?_ hw
  rw [raw_29 hm]
  simp [decodeMajor29, b0_7, b21_4, fh, fa, fk]

theorem clRd (d : BitVec 5) (a : BitVec 5) : Statement (.clRd d a) := by
  intro hw _
  change decodeSlot (encode (.clRd d a)) = .ok (.clRd d a)
  have he : encode (.clRd d a) = 0x52e00000 + d.toNat * 65536 + a.toNat * 2048 := rfl
  generalize encode (.clRd d a) = wd at he
  obtain ⟨hm, b0_11, b21_4, fd, fa⟩ := lay_0c11_21c4_16f5_11f5 (M := 41) (c0 := 0) (c1 := 7) d a rfl (by decide) (by decide) (by decide) he
  refine slot_of_raw (by rw [hm]; decide) (by rw [hm]; decide) ?_ hw
  rw [raw_29 hm]
  simp [decodeMajor29, b0_11, b21_4, fd, fa]

theorem clCol (a : BitVec 5) (k : BitVec 6) : Statement (.clCol a k) := by
  intro hw _
  change decodeSlot (encode (.clCol a k)) = .ok (.clCol a k)
  have he : encode (.clCol a k) = 0x53000000 + a.toNat * 65536 + k.toNat * 1024 := rfl
  generalize encode (.clCol a k) = wd at he
  obtain ⟨hm, b0_10, b21_4, fa, fk⟩ := lay_0c10_21c4_16f5_10f6 (M := 41) (c0 := 0) (c1 := 8) a k rfl (by decide) (by decide) (by decide) he
  refine slot_of_raw (by rw [hm]; decide) (by rw [hm]; decide) ?_ hw
  rw [raw_29 hm]
  simp [decodeMajor29, b0_10, b21_4, fa, fk]

theorem clMask (m : BitVec 3) (sel : BitVec 2) : Statement (.clMask m sel) := by
  intro hw _
  change decodeSlot (encode (.clMask m sel)) = .ok (.clMask m sel)
  have he : encode (.clMask m sel) = 0x53200000 + m.toNat * 262144 + sel.toNat * 65536 := rfl
  generalize encode (.clMask m sel) = wd at he
  obtain ⟨hm, b0_16, b21_4, fm, fsel⟩ := lay_0c16_21c4_18f3_16f2 (M := 41) (c0 := 0) (c1 := 9) m sel rfl (by decide) (by decide) (by decide) he
  refine slot_of_raw (by rw [hm]; decide) (by rw [hm]; decide) ?_ hw
  rw [raw_29 hm]
  simp [decodeMajor29, b0_16, b21_4, fm, fsel]

theorem clLvl (m : BitVec 3) (a : BitVec 5) : Statement (.clLvl m a) := by
  intro hw _
  change decodeSlot (encode (.clLvl m a)) = .ok (.clLvl m a)
  have he : encode (.clLvl m a) = 0x53400000 + m.toNat * 262144 + a.toNat * 8192 := rfl
  generalize encode (.clLvl m a) = wd at he
  obtain ⟨hm, b0_13, b21_4, fm, fa⟩ := lay_0c13_21c4_18f3_13f5 (M := 41) (c0 := 0) (c1 := 10) m a rfl (by decide) (by decide) (by decide) he
  refine slot_of_raw (by rw [hm]; decide) (by rw [hm]; decide) ?_ hw
  rw [raw_29 hm]
  simp [decodeMajor29, b0_13, b21_4, fm, fa]

theorem routineEnd (d : BitVec 3) (a : BitVec 3) (b : BitVec 3) (i : BitVec 17) : Statement (.routineEnd d a b i) := by
  intro _ _
  have lt_d := d.isLt; have lt_a := a.isLt; have lt_b := b.isLt; have lt_i := i.isLt
  change decodeRoutine (encode (.routineEnd d a b i)) = some (.routineEnd d a b i)
  have he : encode (.routineEnd d a b i) = 0 + d.toNat * 8388608 + a.toNat * 1048576 + b.toNat * 131072 + i.toNat := rfl
  generalize encode (.routineEnd d a b i) = wd at he
  have hm : bits wd 26 6 = 0 := by simp only [bits]; omega
  have fd : fld wd 23 3 = d := fld_eq (by omega)
  have fa : fld wd 20 3 = a := fld_eq (by omega)
  have fb : fld wd 17 3 = b := fld_eq (by omega)
  have fi : fld wd 0 17 = i := fld_eq (by omega)
  simp only [decodeRoutine, hm, fd, fa, fb, fi]

theorem routineLd (d : BitVec 3) (a : BitVec 3) (b : BitVec 3) (i : BitVec 17) : Statement (.routineLd d a b i) := by
  intro _ _
  have lt_d := d.isLt; have lt_a := a.isLt; have lt_b := b.isLt; have lt_i := i.isLt
  change decodeRoutine (encode (.routineLd d a b i)) = some (.routineLd d a b i)
  have he : encode (.routineLd d a b i) = 0x4000000 + d.toNat * 8388608 + a.toNat * 1048576 + b.toNat * 131072 + i.toNat := rfl
  generalize encode (.routineLd d a b i) = wd at he
  have hm : bits wd 26 6 = 1 := by simp only [bits]; omega
  have fd : fld wd 23 3 = d := fld_eq (by omega)
  have fa : fld wd 20 3 = a := fld_eq (by omega)
  have fb : fld wd 17 3 = b := fld_eq (by omega)
  have fi : fld wd 0 17 = i := fld_eq (by omega)
  simp only [decodeRoutine, hm, fd, fa, fb, fi]

theorem routineSt (d : BitVec 3) (a : BitVec 3) (b : BitVec 3) (i : BitVec 17) : Statement (.routineSt d a b i) := by
  intro _ _
  have lt_d := d.isLt; have lt_a := a.isLt; have lt_b := b.isLt; have lt_i := i.isLt
  change decodeRoutine (encode (.routineSt d a b i)) = some (.routineSt d a b i)
  have he : encode (.routineSt d a b i) = 0x8000000 + d.toNat * 8388608 + a.toNat * 1048576 + b.toNat * 131072 + i.toNat := rfl
  generalize encode (.routineSt d a b i) = wd at he
  have hm : bits wd 26 6 = 2 := by simp only [bits]; omega
  have fd : fld wd 23 3 = d := fld_eq (by omega)
  have fa : fld wd 20 3 = a := fld_eq (by omega)
  have fb : fld wd 17 3 = b := fld_eq (by omega)
  have fi : fld wd 0 17 = i := fld_eq (by omega)
  simp only [decodeRoutine, hm, fd, fa, fb, fi]

theorem routineLdc (d : BitVec 3) (a : BitVec 3) (b : BitVec 3) (i : BitVec 17) : Statement (.routineLdc d a b i) := by
  intro _ _
  have lt_d := d.isLt; have lt_a := a.isLt; have lt_b := b.isLt; have lt_i := i.isLt
  change decodeRoutine (encode (.routineLdc d a b i)) = some (.routineLdc d a b i)
  have he : encode (.routineLdc d a b i) = 0xc000000 + d.toNat * 8388608 + a.toNat * 1048576 + b.toNat * 131072 + i.toNat := rfl
  generalize encode (.routineLdc d a b i) = wd at he
  have hm : bits wd 26 6 = 3 := by simp only [bits]; omega
  have fd : fld wd 23 3 = d := fld_eq (by omega)
  have fa : fld wd 20 3 = a := fld_eq (by omega)
  have fb : fld wd 17 3 = b := fld_eq (by omega)
  have fi : fld wd 0 17 = i := fld_eq (by omega)
  simp only [decodeRoutine, hm, fd, fa, fb, fi]

theorem routineStc (d : BitVec 3) (a : BitVec 3) (b : BitVec 3) (i : BitVec 17) : Statement (.routineStc d a b i) := by
  intro _ _
  have lt_d := d.isLt; have lt_a := a.isLt; have lt_b := b.isLt; have lt_i := i.isLt
  change decodeRoutine (encode (.routineStc d a b i)) = some (.routineStc d a b i)
  have he : encode (.routineStc d a b i) = 0x10000000 + d.toNat * 8388608 + a.toNat * 1048576 + b.toNat * 131072 + i.toNat := rfl
  generalize encode (.routineStc d a b i) = wd at he
  have hm : bits wd 26 6 = 4 := by simp only [bits]; omega
  have fd : fld wd 23 3 = d := fld_eq (by omega)
  have fa : fld wd 20 3 = a := fld_eq (by omega)
  have fb : fld wd 17 3 = b := fld_eq (by omega)
  have fi : fld wd 0 17 = i := fld_eq (by omega)
  simp only [decodeRoutine, hm, fd, fa, fb, fi]

theorem routineAdd (d : BitVec 3) (a : BitVec 3) (b : BitVec 3) (i : BitVec 17) : Statement (.routineAdd d a b i) := by
  intro _ _
  have lt_d := d.isLt; have lt_a := a.isLt; have lt_b := b.isLt; have lt_i := i.isLt
  change decodeRoutine (encode (.routineAdd d a b i)) = some (.routineAdd d a b i)
  have he : encode (.routineAdd d a b i) = 0x14000000 + d.toNat * 8388608 + a.toNat * 1048576 + b.toNat * 131072 + i.toNat := rfl
  generalize encode (.routineAdd d a b i) = wd at he
  have hm : bits wd 26 6 = 5 := by simp only [bits]; omega
  have fd : fld wd 23 3 = d := fld_eq (by omega)
  have fa : fld wd 20 3 = a := fld_eq (by omega)
  have fb : fld wd 17 3 = b := fld_eq (by omega)
  have fi : fld wd 0 17 = i := fld_eq (by omega)
  simp only [decodeRoutine, hm, fd, fa, fb, fi]

theorem routineSub (d : BitVec 3) (a : BitVec 3) (b : BitVec 3) (i : BitVec 17) : Statement (.routineSub d a b i) := by
  intro _ _
  have lt_d := d.isLt; have lt_a := a.isLt; have lt_b := b.isLt; have lt_i := i.isLt
  change decodeRoutine (encode (.routineSub d a b i)) = some (.routineSub d a b i)
  have he : encode (.routineSub d a b i) = 0x18000000 + d.toNat * 8388608 + a.toNat * 1048576 + b.toNat * 131072 + i.toNat := rfl
  generalize encode (.routineSub d a b i) = wd at he
  have hm : bits wd 26 6 = 6 := by simp only [bits]; omega
  have fd : fld wd 23 3 = d := fld_eq (by omega)
  have fa : fld wd 20 3 = a := fld_eq (by omega)
  have fb : fld wd 17 3 = b := fld_eq (by omega)
  have fi : fld wd 0 17 = i := fld_eq (by omega)
  simp only [decodeRoutine, hm, fd, fa, fb, fi]

theorem routineAnd (d : BitVec 3) (a : BitVec 3) (b : BitVec 3) (i : BitVec 17) : Statement (.routineAnd d a b i) := by
  intro _ _
  have lt_d := d.isLt; have lt_a := a.isLt; have lt_b := b.isLt; have lt_i := i.isLt
  change decodeRoutine (encode (.routineAnd d a b i)) = some (.routineAnd d a b i)
  have he : encode (.routineAnd d a b i) = 0x1c000000 + d.toNat * 8388608 + a.toNat * 1048576 + b.toNat * 131072 + i.toNat := rfl
  generalize encode (.routineAnd d a b i) = wd at he
  have hm : bits wd 26 6 = 7 := by simp only [bits]; omega
  have fd : fld wd 23 3 = d := fld_eq (by omega)
  have fa : fld wd 20 3 = a := fld_eq (by omega)
  have fb : fld wd 17 3 = b := fld_eq (by omega)
  have fi : fld wd 0 17 = i := fld_eq (by omega)
  simp only [decodeRoutine, hm, fd, fa, fb, fi]

theorem routineOr (d : BitVec 3) (a : BitVec 3) (b : BitVec 3) (i : BitVec 17) : Statement (.routineOr d a b i) := by
  intro _ _
  have lt_d := d.isLt; have lt_a := a.isLt; have lt_b := b.isLt; have lt_i := i.isLt
  change decodeRoutine (encode (.routineOr d a b i)) = some (.routineOr d a b i)
  have he : encode (.routineOr d a b i) = 0x20000000 + d.toNat * 8388608 + a.toNat * 1048576 + b.toNat * 131072 + i.toNat := rfl
  generalize encode (.routineOr d a b i) = wd at he
  have hm : bits wd 26 6 = 8 := by simp only [bits]; omega
  have fd : fld wd 23 3 = d := fld_eq (by omega)
  have fa : fld wd 20 3 = a := fld_eq (by omega)
  have fb : fld wd 17 3 = b := fld_eq (by omega)
  have fi : fld wd 0 17 = i := fld_eq (by omega)
  simp only [decodeRoutine, hm, fd, fa, fb, fi]

theorem routineXor (d : BitVec 3) (a : BitVec 3) (b : BitVec 3) (i : BitVec 17) : Statement (.routineXor d a b i) := by
  intro _ _
  have lt_d := d.isLt; have lt_a := a.isLt; have lt_b := b.isLt; have lt_i := i.isLt
  change decodeRoutine (encode (.routineXor d a b i)) = some (.routineXor d a b i)
  have he : encode (.routineXor d a b i) = 0x24000000 + d.toNat * 8388608 + a.toNat * 1048576 + b.toNat * 131072 + i.toNat := rfl
  generalize encode (.routineXor d a b i) = wd at he
  have hm : bits wd 26 6 = 9 := by simp only [bits]; omega
  have fd : fld wd 23 3 = d := fld_eq (by omega)
  have fa : fld wd 20 3 = a := fld_eq (by omega)
  have fb : fld wd 17 3 = b := fld_eq (by omega)
  have fi : fld wd 0 17 = i := fld_eq (by omega)
  simp only [decodeRoutine, hm, fd, fa, fb, fi]

theorem routineMin (d : BitVec 3) (a : BitVec 3) (b : BitVec 3) (i : BitVec 17) : Statement (.routineMin d a b i) := by
  intro _ _
  have lt_d := d.isLt; have lt_a := a.isLt; have lt_b := b.isLt; have lt_i := i.isLt
  change decodeRoutine (encode (.routineMin d a b i)) = some (.routineMin d a b i)
  have he : encode (.routineMin d a b i) = 0x28000000 + d.toNat * 8388608 + a.toNat * 1048576 + b.toNat * 131072 + i.toNat := rfl
  generalize encode (.routineMin d a b i) = wd at he
  have hm : bits wd 26 6 = 10 := by simp only [bits]; omega
  have fd : fld wd 23 3 = d := fld_eq (by omega)
  have fa : fld wd 20 3 = a := fld_eq (by omega)
  have fb : fld wd 17 3 = b := fld_eq (by omega)
  have fi : fld wd 0 17 = i := fld_eq (by omega)
  simp only [decodeRoutine, hm, fd, fa, fb, fi]

theorem routineMax (d : BitVec 3) (a : BitVec 3) (b : BitVec 3) (i : BitVec 17) : Statement (.routineMax d a b i) := by
  intro _ _
  have lt_d := d.isLt; have lt_a := a.isLt; have lt_b := b.isLt; have lt_i := i.isLt
  change decodeRoutine (encode (.routineMax d a b i)) = some (.routineMax d a b i)
  have he : encode (.routineMax d a b i) = 0x2c000000 + d.toNat * 8388608 + a.toNat * 1048576 + b.toNat * 131072 + i.toNat := rfl
  generalize encode (.routineMax d a b i) = wd at he
  have hm : bits wd 26 6 = 11 := by simp only [bits]; omega
  have fd : fld wd 23 3 = d := fld_eq (by omega)
  have fa : fld wd 20 3 = a := fld_eq (by omega)
  have fb : fld wd 17 3 = b := fld_eq (by omega)
  have fi : fld wd 0 17 = i := fld_eq (by omega)
  simp only [decodeRoutine, hm, fd, fa, fb, fi]

theorem routineMinn (d : BitVec 3) (a : BitVec 3) (b : BitVec 3) (i : BitVec 17) : Statement (.routineMinn d a b i) := by
  intro _ _
  have lt_d := d.isLt; have lt_a := a.isLt; have lt_b := b.isLt; have lt_i := i.isLt
  change decodeRoutine (encode (.routineMinn d a b i)) = some (.routineMinn d a b i)
  have he : encode (.routineMinn d a b i) = 0x30000000 + d.toNat * 8388608 + a.toNat * 1048576 + b.toNat * 131072 + i.toNat := rfl
  generalize encode (.routineMinn d a b i) = wd at he
  have hm : bits wd 26 6 = 12 := by simp only [bits]; omega
  have fd : fld wd 23 3 = d := fld_eq (by omega)
  have fa : fld wd 20 3 = a := fld_eq (by omega)
  have fb : fld wd 17 3 = b := fld_eq (by omega)
  have fi : fld wd 0 17 = i := fld_eq (by omega)
  simp only [decodeRoutine, hm, fd, fa, fb, fi]

theorem routineMaxn (d : BitVec 3) (a : BitVec 3) (b : BitVec 3) (i : BitVec 17) : Statement (.routineMaxn d a b i) := by
  intro _ _
  have lt_d := d.isLt; have lt_a := a.isLt; have lt_b := b.isLt; have lt_i := i.isLt
  change decodeRoutine (encode (.routineMaxn d a b i)) = some (.routineMaxn d a b i)
  have he : encode (.routineMaxn d a b i) = 0x34000000 + d.toNat * 8388608 + a.toNat * 1048576 + b.toNat * 131072 + i.toNat := rfl
  generalize encode (.routineMaxn d a b i) = wd at he
  have hm : bits wd 26 6 = 13 := by simp only [bits]; omega
  have fd : fld wd 23 3 = d := fld_eq (by omega)
  have fa : fld wd 20 3 = a := fld_eq (by omega)
  have fb : fld wd 17 3 = b := fld_eq (by omega)
  have fi : fld wd 0 17 = i := fld_eq (by omega)
  simp only [decodeRoutine, hm, fd, fa, fb, fi]

theorem routineShl (d : BitVec 3) (a : BitVec 3) (b : BitVec 3) (i : BitVec 17) : Statement (.routineShl d a b i) := by
  intro _ _
  have lt_d := d.isLt; have lt_a := a.isLt; have lt_b := b.isLt; have lt_i := i.isLt
  change decodeRoutine (encode (.routineShl d a b i)) = some (.routineShl d a b i)
  have he : encode (.routineShl d a b i) = 0x38000000 + d.toNat * 8388608 + a.toNat * 1048576 + b.toNat * 131072 + i.toNat := rfl
  generalize encode (.routineShl d a b i) = wd at he
  have hm : bits wd 26 6 = 14 := by simp only [bits]; omega
  have fd : fld wd 23 3 = d := fld_eq (by omega)
  have fa : fld wd 20 3 = a := fld_eq (by omega)
  have fb : fld wd 17 3 = b := fld_eq (by omega)
  have fi : fld wd 0 17 = i := fld_eq (by omega)
  simp only [decodeRoutine, hm, fd, fa, fb, fi]

theorem routineShr (d : BitVec 3) (a : BitVec 3) (b : BitVec 3) (i : BitVec 17) : Statement (.routineShr d a b i) := by
  intro _ _
  have lt_d := d.isLt; have lt_a := a.isLt; have lt_b := b.isLt; have lt_i := i.isLt
  change decodeRoutine (encode (.routineShr d a b i)) = some (.routineShr d a b i)
  have he : encode (.routineShr d a b i) = 0x3c000000 + d.toNat * 8388608 + a.toNat * 1048576 + b.toNat * 131072 + i.toNat := rfl
  generalize encode (.routineShr d a b i) = wd at he
  have hm : bits wd 26 6 = 15 := by simp only [bits]; omega
  have fd : fld wd 23 3 = d := fld_eq (by omega)
  have fa : fld wd 20 3 = a := fld_eq (by omega)
  have fb : fld wd 17 3 = b := fld_eq (by omega)
  have fi : fld wd 0 17 = i := fld_eq (by omega)
  simp only [decodeRoutine, hm, fd, fa, fb, fi]

theorem routineAddi (d : BitVec 3) (a : BitVec 3) (b : BitVec 3) (i : BitVec 17) : Statement (.routineAddi d a b i) := by
  intro _ _
  have lt_d := d.isLt; have lt_a := a.isLt; have lt_b := b.isLt; have lt_i := i.isLt
  change decodeRoutine (encode (.routineAddi d a b i)) = some (.routineAddi d a b i)
  have he : encode (.routineAddi d a b i) = 0x40000000 + d.toNat * 8388608 + a.toNat * 1048576 + b.toNat * 131072 + i.toNat := rfl
  generalize encode (.routineAddi d a b i) = wd at he
  have hm : bits wd 26 6 = 16 := by simp only [bits]; omega
  have fd : fld wd 23 3 = d := fld_eq (by omega)
  have fa : fld wd 20 3 = a := fld_eq (by omega)
  have fb : fld wd 17 3 = b := fld_eq (by omega)
  have fi : fld wd 0 17 = i := fld_eq (by omega)
  simp only [decodeRoutine, hm, fd, fa, fb, fi]

theorem routineMovi (d : BitVec 3) (a : BitVec 3) (b : BitVec 3) (i : BitVec 17) : Statement (.routineMovi d a b i) := by
  intro _ _
  have lt_d := d.isLt; have lt_a := a.isLt; have lt_b := b.isLt; have lt_i := i.isLt
  change decodeRoutine (encode (.routineMovi d a b i)) = some (.routineMovi d a b i)
  have he : encode (.routineMovi d a b i) = 0x44000000 + d.toNat * 8388608 + a.toNat * 1048576 + b.toNat * 131072 + i.toNat := rfl
  generalize encode (.routineMovi d a b i) = wd at he
  have hm : bits wd 26 6 = 17 := by simp only [bits]; omega
  have fd : fld wd 23 3 = d := fld_eq (by omega)
  have fa : fld wd 20 3 = a := fld_eq (by omega)
  have fb : fld wd 17 3 = b := fld_eq (by omega)
  have fi : fld wd 0 17 = i := fld_eq (by omega)
  simp only [decodeRoutine, hm, fd, fa, fb, fi]

theorem routineBeq (d : BitVec 3) (a : BitVec 3) (b : BitVec 3) (i : BitVec 17) : Statement (.routineBeq d a b i) := by
  intro _ _
  have lt_d := d.isLt; have lt_a := a.isLt; have lt_b := b.isLt; have lt_i := i.isLt
  change decodeRoutine (encode (.routineBeq d a b i)) = some (.routineBeq d a b i)
  have he : encode (.routineBeq d a b i) = 0x48000000 + d.toNat * 8388608 + a.toNat * 1048576 + b.toNat * 131072 + i.toNat := rfl
  generalize encode (.routineBeq d a b i) = wd at he
  have hm : bits wd 26 6 = 18 := by simp only [bits]; omega
  have fd : fld wd 23 3 = d := fld_eq (by omega)
  have fa : fld wd 20 3 = a := fld_eq (by omega)
  have fb : fld wd 17 3 = b := fld_eq (by omega)
  have fi : fld wd 0 17 = i := fld_eq (by omega)
  simp only [decodeRoutine, hm, fd, fa, fb, fi]

theorem routineBne (d : BitVec 3) (a : BitVec 3) (b : BitVec 3) (i : BitVec 17) : Statement (.routineBne d a b i) := by
  intro _ _
  have lt_d := d.isLt; have lt_a := a.isLt; have lt_b := b.isLt; have lt_i := i.isLt
  change decodeRoutine (encode (.routineBne d a b i)) = some (.routineBne d a b i)
  have he : encode (.routineBne d a b i) = 0x4c000000 + d.toNat * 8388608 + a.toNat * 1048576 + b.toNat * 131072 + i.toNat := rfl
  generalize encode (.routineBne d a b i) = wd at he
  have hm : bits wd 26 6 = 19 := by simp only [bits]; omega
  have fd : fld wd 23 3 = d := fld_eq (by omega)
  have fa : fld wd 20 3 = a := fld_eq (by omega)
  have fb : fld wd 17 3 = b := fld_eq (by omega)
  have fi : fld wd 0 17 = i := fld_eq (by omega)
  simp only [decodeRoutine, hm, fd, fa, fb, fi]

theorem routineBlt (d : BitVec 3) (a : BitVec 3) (b : BitVec 3) (i : BitVec 17) : Statement (.routineBlt d a b i) := by
  intro _ _
  have lt_d := d.isLt; have lt_a := a.isLt; have lt_b := b.isLt; have lt_i := i.isLt
  change decodeRoutine (encode (.routineBlt d a b i)) = some (.routineBlt d a b i)
  have he : encode (.routineBlt d a b i) = 0x50000000 + d.toNat * 8388608 + a.toNat * 1048576 + b.toNat * 131072 + i.toNat := rfl
  generalize encode (.routineBlt d a b i) = wd at he
  have hm : bits wd 26 6 = 20 := by simp only [bits]; omega
  have fd : fld wd 23 3 = d := fld_eq (by omega)
  have fa : fld wd 20 3 = a := fld_eq (by omega)
  have fb : fld wd 17 3 = b := fld_eq (by omega)
  have fi : fld wd 0 17 = i := fld_eq (by omega)
  simp only [decodeRoutine, hm, fd, fa, fb, fi]

theorem routineBltn (d : BitVec 3) (a : BitVec 3) (b : BitVec 3) (i : BitVec 17) : Statement (.routineBltn d a b i) := by
  intro _ _
  have lt_d := d.isLt; have lt_a := a.isLt; have lt_b := b.isLt; have lt_i := i.isLt
  change decodeRoutine (encode (.routineBltn d a b i)) = some (.routineBltn d a b i)
  have he : encode (.routineBltn d a b i) = 0x54000000 + d.toNat * 8388608 + a.toNat * 1048576 + b.toNat * 131072 + i.toNat := rfl
  generalize encode (.routineBltn d a b i) = wd at he
  have hm : bits wd 26 6 = 21 := by simp only [bits]; omega
  have fd : fld wd 23 3 = d := fld_eq (by omega)
  have fa : fld wd 20 3 = a := fld_eq (by omega)
  have fb : fld wd 17 3 = b := fld_eq (by omega)
  have fi : fld wd 0 17 = i := fld_eq (by omega)
  simp only [decodeRoutine, hm, fd, fa, fb, fi]

theorem resultLand (c : Ctx) : Statement (.resultLand c) := by
  intro _ h; cases h

theorem replyArrival (n : Nat) : Statement (.replyArrival n) := by
  intro _ h; cases h

theorem replyWatchdogExpiry : Statement (.replyWatchdogExpiry) := by
  intro _ h; cases h

theorem freezeAlert : Statement (.freezeAlert) := by
  intro _ h; cases h

theorem shareWindow : Statement (.shareWindow) := by
  intro _ h; cases h

theorem liningEventEntry : Statement (.liningEventEntry) := by
  intro _ h; cases h

theorem rewindEnd : Statement (.rewindEnd) := by
  intro _ h; cases h

theorem notchHoldTimeout : Statement (.notchHoldTimeout) := by
  intro _ h; cases h

theorem tackBufferDrain : Statement (.tackBufferDrain) := by
  intro _ h; cases h

theorem istWritePerform : Statement (.istWritePerform) := by
  intro _ h; cases h

theorem multicastLanding : Statement (.multicastLanding) := by
  intro _ h; cases h

theorem xtrOutLanding : Statement (.xtrOutLanding) := by
  intro _ h; cases h

theorem drainAck (n : Nat) : Statement (.drainAck n) := by
  intro _ h; cases h

theorem walkComplete : Statement (.walkComplete) := by
  intro _ h; cases h

theorem engineCommandStart (e : Engine) : Statement (.engineCommandStart e) := by
  intro _ h; cases h

theorem copyCommandComplete (n : Nat) : Statement (.copyCommandComplete n) := by
  intro _ h; cases h

theorem matrixCommandComplete (n : Nat) (bad : MatrixFault) : Statement (.matrixCommandComplete n bad) := by
  intro _ h; cases h

theorem shuttleSourceRead (n : Nat) : Statement (.shuttleSourceRead n) := by
  intro _ h; cases h

theorem shuttleDelivery (d : Delivery) : Statement (.shuttleDelivery d) := by
  intro _ h; cases h

theorem clauseCommandComplete (n : Nat) (bad : ArrayFault) : Statement (.clauseCommandComplete n bad) := by
  intro _ h; cases h

theorem packetSend : Statement (.packetSend) := by
  intro _ h; cases h

theorem thimblePacket : Statement (.thimblePacket) := by
  intro _ h; cases h

theorem thimbleReply (r : Reply) : Statement (.thimbleReply r) := by
  intro _ h; cases h

theorem mailboxNotice (n : BitVec 2) : Statement (.mailboxNotice n) := by
  intro _ h; cases h

theorem mbTakeTimeout : Statement (.mbTakeTimeout) := by
  intro _ h; cases h

theorem acwaitTimeout : Statement (.acwaitTimeout) := by
  intro _ h; cases h

theorem agreementContribution (c : Contribution) : Statement (.agreementContribution c) := by
  intro _ h; cases h

theorem lateLimitExpiry (gid : Nat) : Statement (.lateLimitExpiry gid) := by
  intro _ h; cases h

theorem agreementOutcome (o : OutcomeMsg) : Statement (.agreementOutcome o) := by
  intro _ h; cases h

theorem joinRequest (j : JoinMsg) : Statement (.joinRequest j) := by
  intro _ h; cases h

theorem joinReply (j : JoinAnswer) : Statement (.joinReply j) := by
  intro _ h; cases h

theorem ringSlotArrival (p : RingSlot) : Statement (.ringSlotArrival p) := by
  intro _ h; cases h

theorem bounceResend (n : Nat) : Statement (.bounceResend n) := by
  intro _ h; cases h

theorem flitReceive (l : LinkId) (f : Flit) : Statement (.flitReceive l f) := by
  intro _ h; cases h

theorem linkFail (l : LinkId) : Statement (.linkFail l) := by
  intro _ h; cases h

theorem frameStart : Statement (.frameStart) := by
  intro _ h; cases h

theorem healthBeacon (die : BitVec 10) : Statement (.healthBeacon die) := by
  intro _ h; cases h

theorem beaconTimeout (die : BitVec 10) : Statement (.beaconTimeout die) := by
  intro _ h; cases h

theorem deathReport (die : BitVec 10) : Statement (.deathReport die) := by
  intro _ h; cases h

theorem ptpMessage (offset : Int) : Statement (.ptpMessage offset) := by
  intro _ h; cases h

theorem ppsInput (offset : Int) : Statement (.ppsInput offset) := by
  intro _ h; cases h

theorem ptpSourceLoss : Statement (.ptpSourceLoss) := by
  intro _ h; cases h

theorem preemptionDeadline (kill : Bool) : Statement (.preemptionDeadline kill) := by
  intro _ h; cases h

theorem kill : Statement (.kill) := by
  intro _ h; cases h

theorem contextSave : Statement (.contextSave) := by
  intro _ h; cases h

theorem contextRestore : Statement (.contextRestore) := by
  intro _ h; cases h

theorem contextPortDone : Statement (.contextPortDone) := by
  intro _ h; cases h

theorem multicastControlWrite (w : Writer) (k : BitVec 4) (v : BitVec 8) : Statement (.multicastControlWrite w k v) := by
  intro _ h; cases h

theorem scrubLine (c : BitVec 7) (errs : Nat) : Statement (.scrubLine c errs) := by
  intro _ h; cases h

theorem scrubberControlWrite (w : Writer) (c : BitVec 7) (v : BitVec 64) : Statement (.scrubberControlWrite w c v) := by
  intro _ h; cases h

theorem wipeComplete : Statement (.wipeComplete) := by
  intro _ h; cases h

theorem invalidate (w : Writer) (v : BitVec 64) : Statement (.invalidate w v) := by
  intro _ h; cases h

theorem invalidationComplete : Statement (.invalidationComplete) := by
  intro _ h; cases h

theorem splitWordWrite (w : Writer) (v : BitVec 64) : Statement (.splitWordWrite w v) := by
  intro _ h; cases h

theorem clauseWindowSave (i : BitVec 2) : Statement (.clauseWindowSave i) := by
  intro _ h; cases h

theorem clauseWindowRestore (i : BitVec 2) : Statement (.clauseWindowRestore i) := by
  intro _ h; cases h

theorem clauseWindowRebind (i : BitVec 2) : Statement (.clauseWindowRebind i) := by
  intro _ h; cases h

theorem clauseWindowRelease (i : BitVec 2) : Statement (.clauseWindowRelease i) := by
  intro _ h; cases h

theorem clauseWindowDone (i : BitVec 2) : Statement (.clauseWindowDone i) := by
  intro _ h; cases h

theorem registerWrite (w : Writer) (o : BitVec 24) (n : Nat) (v : BitVec 64) : Statement (.registerWrite w o n v) := by
  intro _ h; cases h

theorem nwptrWrite (timed : Bool) (v : BitVec 32) : Statement (.nwptrWrite timed v) := by
  intro _ h; cases h

theorem fectlClr : Statement (.fectlClr) := by
  intro _ h; cases h

theorem fectlEnable (nen : Bool) (ten : Bool) : Statement (.fectlEnable nen ten) := by
  intro _ h; cases h

theorem festatWrite : Statement (.festatWrite) := by
  intro _ h; cases h

theorem feNop (h : FeHead) (ws : List (BitVec 32)) : Statement (.feNop h ws) := by
  intro _ h; cases h

theorem loadImem (h : FeHead) (ws : List (BitVec 32)) : Statement (.loadImem h ws) := by
  intro _ h; cases h

theorem presetAc (h : FeHead) (ws : List (BitVec 32)) : Statement (.presetAc h ws) := by
  intro _ h; cases h

theorem presetHandle (h : FeHead) (ws : List (BitVec 32)) : Statement (.presetHandle h ws) := by
  intro _ h; cases h

theorem feRelease (h : FeHead) (ws : List (BitVec 32)) : Statement (.feRelease h ws) := by
  intro _ h; cases h

theorem callIb (h : FeHead) (ws : List (BitVec 32)) : Statement (.callIb h ws) := by
  intro _ h; cases h

theorem feReturn (h : FeHead) (ws : List (BitVec 32)) : Statement (.feReturn h ws) := by
  intro _ h; cases h

theorem feWait (h : FeHead) (ws : List (BitVec 32)) : Statement (.feWait h ws) := by
  intro _ h; cases h

theorem waitPoll (timed : Bool) : Statement (.waitPoll timed) := by
  intro _ h; cases h

theorem feWrite (h : FeHead) (ws : List (BitVec 32)) : Statement (.feWrite h ws) := by
  intro _ h; cases h

theorem fePost (h : FeHead) (ws : List (BitVec 32)) : Statement (.fePost h ws) := by
  intro _ h; cases h

theorem postRetry (timed : Bool) : Statement (.postRetry timed) := by
  intro _ h; cases h

theorem timedRelease (h : FeHead) (ws : List (BitVec 32)) : Statement (.timedRelease h ws) := by
  intro _ h; cases h

theorem timedReleaseFire : Statement (.timedReleaseFire) := by
  intro _ h; cases h

theorem feBarrier (h : FeHead) (ws : List (BitVec 32)) : Statement (.feBarrier h ws) := by
  intro _ h; cases h

theorem barrierArrival (id : BitVec 8) (n : Nat) : Statement (.barrierArrival id n) := by
  intro _ h; cases h

theorem feTimeout (timed : Bool) : Statement (.feTimeout timed) := by
  intro _ h; cases h

theorem hostPostedWrite (a : BitVec 52) (bs : List (BitVec 8)) : Statement (.hostPostedWrite a bs) := by
  intro _ h; cases h

theorem hostRead (a : BitVec 52) (n : Nat) : Statement (.hostRead a n) := by
  intro _ h; cases h

theorem recoveryJob (f : Frame) : Statement (.recoveryJob f) := by
  intro _ h; cases h

theorem recoveryPartition (f : Frame) : Statement (.recoveryPartition f) := by
  intro _ h; cases h

theorem recoveryDie (f : Frame) : Statement (.recoveryDie f) := by
  intro _ h; cases h

theorem recoveryPackage (f : Frame) : Statement (.recoveryPackage f) := by
  intro _ h; cases h

theorem lifecycleProvision (f : Frame) : Statement (.lifecycleProvision f) := by
  intro _ h; cases h

theorem lifecycleDeploy (f : Frame) : Statement (.lifecycleDeploy f) := by
  intro _ h; cases h

theorem lifecycleReturn (f : Frame) : Statement (.lifecycleReturn f) := by
  intro _ h; cases h

theorem attestationQuote (nonce : BitVec 256) (part : BitVec 6) : Statement (.attestationQuote nonce part) := by
  intro _ h; cases h

theorem powerGood : Statement (.powerGood) := by
  intro _ h; cases h

theorem s1Entry (im : Image) : Statement (.s1Entry im) := by
  intro _ h; cases h

theorem s2Entry (lin : Image) (walk : Image) (gpm : Image) : Statement (.s2Entry lin walk gpm) := by
  intro _ h; cases h

theorem partitionCreate (part : BitVec 6) (im : NewPartition) : Statement (.partitionCreate part im) := by
  intro _ h; cases h

theorem partitionTeardown (part : BitVec 6) : Statement (.partitionTeardown part) := by
  intro _ h; cases h

theorem functionLevelReset (part : BitVec 6) : Statement (.functionLevelReset part) := by
  intro _ h; cases h

theorem inputUndervoltage (mv : Nat) (us : Nat) : Statement (.inputUndervoltage mv us) := by
  intro _ h; cases h

theorem inputOvervoltage (mv : Nat) (us : Nat) : Statement (.inputOvervoltage mv us) := by
  intro _ h; cases h

theorem junctionOvertemp (mdeg : Nat) : Statement (.junctionOvertemp mdeg) := by
  intro _ h; cases h

theorem coolantOvertemp (mdeg : Nat) (us : Nat) : Statement (.coolantOvertemp mdeg us) := by
  intro _ h; cases h

theorem notchHoldArrival (h : HoldMsg) : Statement (.notchHoldArrival h) := by
  intro _ h; cases h

theorem linkRetrained (l : LinkId) : Statement (.linkRetrained l) := by
  intro _ h; cases h

theorem dieReadmission (die : BitVec 10) : Statement (.dieReadmission die) := by
  intro _ h; cases h

theorem fatalMachineError (die : BitVec 10) : Statement (.fatalMachineError die) := by
  intro _ h; cases h

theorem postedWriteCredit : Statement (.postedWriteCredit) := by
  intro _ h; cases h

theorem stageFailure (stage : BitVec 2) (code : BitVec 32) : Statement (.stageFailure stage code) := by
  intro _ h; cases h

end RoundTrip

end Sys2Proof.Laws
end

