-- ==== Sys2Proof/Laws/Ring.lean ====
section
/-! SUPPORT. What a slot that leaves the station changes: links, waiting slots, numbers, outputs and wires, and nothing of the
core or of memory. -/

namespace Sys2Proof.Laws
open Sys2Proof.Machine

variable (s : State)

/-- The fabric, what has left and what is on the wires are all that two states may differ in. -/
def OnlyFabric (s t : State) : Prop := t = { s with fabric := t.fabric, outs := t.outs, wires := t.wires }

theorem onlyFabric_refl : OnlyFabric s s := rfl

theorem onlyFabric_trans {s t u : State} (h : OnlyFabric s t) (k : OnlyFabric t u) : OnlyFabric s u := by
  unfold OnlyFabric at *
  rw [k, h]

theorem onlyFabric_core {s t : State} (h : OnlyFabric s t) : t.core = s.core := by rw [h]
theorem onlyFabric_mem {s t : State} (h : OnlyFabric s t) : t.mem = s.mem := by rw [h]
theorem onlyFabric_drains {s t : State} (h : OnlyFabric s t) : t.drains = s.drains := by rw [h]

theorem onlyFabric_foldl {α : Type} (f : State → α → State) (h : ∀ s x, OnlyFabric s (f s x)) (l : List α) (s : State) :
    OnlyFabric s (l.foldl f s) := by
  induction l generalizing s with
  | nil => rfl
  | cons x r ih => exact onlyFabric_trans (h s x) (ih (f s x))

/-- Flits that go out on a link change that link and what has left. -/
theorem sendFlits_fabric (n : Nat) (fs : List (BitVec 512)) : OnlyFabric s (s.sendFlits n fs) := by
  unfold State.sendFlits
  refine onlyFabric_trans (t := s.putLink n ((s.link n).send fs)) rfl (onlyFabric_foldl _ ?_ _ _)
  intro t x
  rfl

theorem sendOn_fabric (n : Nat) (p : RingSlot) : OnlyFabric s (s.sendOn n p) := by
  have h := onlyFabric_trans (t := s.emitOut (.slot p)) rfl (sendFlits_fabric (s.emitOut (.slot p)) n (slotFlits p))
  exact onlyFabric_trans h rfl

theorem unreachable_fabric (b : SlotBody) : OnlyFabric s (s.unreachable b) := by
  unfold State.unreachable
  split
  · split <;> rfl
  · rfl

/-- A slot that leaves goes onto a link, or ends at its source. -/
theorem enter_fabric {p : RingSlot} {t : State} (h : s.enter p = some t) : OnlyFabric s t := by
  unfold State.enter at h
  split at h
  · cases h
    exact unreachable_fabric s _
  · split at h
    · obtain ⟨n, -, rfl⟩ := Option.map_eq_some_iff.mp h
      exact sendOn_fabric s _ _
    · cases h

theorem depart_fabric (p : RingSlot) : OnlyFabric s (s.depart p) := by
  unfold State.depart
  split
  · exact enter_fabric s ‹_›
  · rfl

theorem launchSlot_fabric (p : RingSlot) : OnlyFabric s (s.launchSlot p) := by
  unfold State.launchSlot
  refine onlyFabric_trans (t := s.stepSeq p.score p.ddie p.dunit p.cnt) rfl (onlyFabric_foldl _ ?_ _ _)
  intro t q
  split
  · rfl
  · exact depart_fabric t q

/-- A slot of a unit of this die changes nothing of the core or of memory. -/
theorem post_fabric (score : BitVec 4) (part ddie dunit : Nat) (b : SlotBody) : OnlyFabric s (s.post score part ddie dunit b) :=
  launchSlot_fabric s _

end Sys2Proof.Laws
end

