-- ==== Sys2Proof/Laws/Vector.lean ====
section
/-! SUPPORT. Vectors as lists of elements: what packing, unpacking and enabling mean element by element (R121, R123). -/

namespace Sys2Proof.Laws
open Sys2Proof.Machine

theorem packElems_lt (w : Nat) (l : List Nat) : packElems w l < 2 ^ (w * l.length) := by
  induction l with
  | nil => simp [packElems]
  | cons x r ih =>
    have h := Nat.mod_lt x (Nat.two_pow_pos w)
    rw [packElems, List.length_cons, Nat.mul_succ, Nat.pow_add, Nat.mul_comm (2 ^ (w * r.length))]
    calc x % 2 ^ w + 2 ^ w * packElems w r < 2 ^ w + 2 ^ w * packElems w r := by omega
      _ = 2 ^ w * (packElems w r + 1) := by ring
      _ ≤ 2 ^ w * 2 ^ (w * r.length) := Nat.mul_le_mul_left _ ih

/-- An element of a packed list. -/
theorem packElems_div (w : Nat) (l : List Nat) (j : Nat) (h : j < l.length) :
    packElems w l / 2 ^ (w * j) % 2 ^ w = l[j] % 2 ^ w := by
  induction l generalizing j with
  | nil => simp at h
  | cons x r ih =>
    cases j with
    | zero => simp [packElems]
    | succ j =>
      rw [Nat.mul_succ, Nat.add_comm, Nat.pow_add, ← Nat.div_div_eq_div_mul, packElems,
        Nat.add_mul_div_left _ _ (Nat.two_pow_pos w), Nat.div_eq_of_lt (Nat.mod_lt _ (Nat.two_pow_pos w)), Nat.zero_add]
      exact ih j (by simpa using h)

theorem element_ofNat {w : Nat} (l : List Nat) (hl : w * l.length ≤ 16384) (j : Nat) (h : j < l.length) :
    element w j (BitVec.ofNat 16384 (packElems w l)) = l[j] % 2 ^ w := by
  have := lt_of_lt_of_le (packElems_lt w l) (Nat.pow_le_pow_right (by omega) hl)
  rw [element, BitVec.toNat_ofNat, Nat.mod_eq_of_lt this, packElems_div w l j h]

/-- Bit k of element j. -/
theorem element_bit (w j k : Nat) (v : Vec) (hk : k < w) : v.getLsbD (w * j + k) = (element w j v).testBit k := by
  rw [element, Nat.testBit_mod_two_pow, Nat.testBit_div_two_pow, BitVec.getLsbD]
  simp [hk, Nat.add_comm]

@[simp] theorem enabledBits_length (n : Nat) (m : Mask) : (enabledBits n m).length = n := by simp [enabledBits]

/-- The enabled bits of a result follow the mask, element by element. -/
theorem enableMask_bit {w n : Nat} (m : Mask) (hw : w * n ≤ 16384) (j k : Nat) (hj : j < n) (hk : k < w) :
    (enableMask w (enabledBits n m)).getLsbD (w * j + k) = m.getLsbD j := by
  have e := element_ofNat ((enabledBits n m).map fun b => if b then 2 ^ w - 1 else 0) (w := w) (by simpa using hw) j (by simpa using hj)
  rw [element_bit w j k _ hk, enableMask, e]
  have : 2 ^ w - 1 < 2 ^ w := by have := Nat.two_pow_pos w; omega
  simp only [enabledBits, List.getElem_map, List.getElem_range]
  by_cases hm : m.getLsbD j
  · rw [if_pos hm, Nat.mod_eq_of_lt this, Nat.testBit_two_pow_sub_one]; simp [hk, hm]
  · rw [if_neg hm]; simp [hm]

theorem width_cases (t : BitVec 3) : typeWidth t = 32 ∨ typeWidth t = 16 ∨ typeWidth t = 8 := by
  revert t; decide

theorem width_count (t : BitVec 3) : typeWidth t * typeCount t = 16384 := by
  revert t; decide

@[simp] theorem elems_length (s : State) (t : BitVec 3) (v : BitVec 5) : (s.elems t v).length = typeCount t := by
  simp [State.elems, unpackElems]

theorem elems_get (s : State) (t : BitVec 3) (v : BitVec 5) (j : Nat) (h : j < (s.elems t v).length) :
    (s.elems t v)[j] = element (typeWidth t) j (s.rv v) := by
  simp [State.elems, unpackElems, element]

@[simp] theorem markLive_elems (s : State) (t : BitVec 3) (v : BitVec 5) : s.markLive.elems t v = s.elems t v := by
  simp [State.elems]

/-- A masked result sends its elements. -/
theorem sends_emitVec {i : Instr} {s : State} {lat w : Nat} {d : BitVec 5} {m : BitVec 3} {l : List Nat} {c : Checked}
    (hl : l.length = 16384 / w) (h : exec i s = .next (s.markLive.emitVec lat w d m l c).retire) {f : Nat → Nat}
    (hf : ∀ j (hj : j < l.length), l[j] % 2 ^ w = f j % 2 ^ w) : SendsElements i s lat w d m f c := by
  refine ⟨_, _, by rw [Sends, h, State.emitVec], fun j hj => ⟨fun k hk => ?_, ?_⟩⟩
  · rw [markLive_rm]; exact enableMask_bit _ (Nat.mul_div_le 16384 w) j k hj hk
  · rw [element_ofNat l (by rw [hl]; exact Nat.mul_div_le 16384 w) j (by omega)]; exact hf j _

/-- A masked binary operation sends its elements. -/
theorem sends_vecBin {i : Instr} {s : State} {lat : Nat} {chk : Nat → Checked} {g : BitVec 3 → Nat → Nat → Nat}
    {d a b : BitVec 5} {m t : BitVec 3} (h : exec i s = vecBin lat chk g d a b m t s) {f : Nat → Nat}
    (hf : ∀ j, g t (element (typeWidth t) j (s.rv a)) (element (typeWidth t) j (s.rv b)) % 2 ^ typeWidth t =
      f j % 2 ^ typeWidth t) : SendsElements i s lat (typeWidth t) d m f (chk (typeWidth t)) := by
  refine sends_emitVec (l := List.zipWith (g t) (s.elems t a) (s.elems t b)) (by simp [typeCount]) ?_ ?_
  · rw [h, vecBin, plainOp_eq]; simp only [markLive_elems]
  · intro j hj
    simp only [List.getElem_zipWith, elems_get]; exact hf j

end Sys2Proof.Laws
end

