-- ==== Sys2Proof/Tests/Slice0.lean ====
section
/-! SUPPORT. Tests: words written out bit by bit from the spec's encodings, ill-formed operations, single steps with results
worked out from the spec, and states that meet the hypotheses of the statements. -/

set_option Elab.async false

namespace Sys2Proof.Tests

open Sys2Proof Sys2Proof.Machine

/-! ## Encodings: each word is written out field by field, with and without the stop bit -/

/-- Every word of the list decodes to the operation beside it. -/
abbrev reads (l : List (Nat × Instr)) : Prop := ∀ x ∈ l, decodeSlot x.1 = .ok x.2

theorem test_decode_major01 : reads [
    (0b0_000001_0000000000000000000000000, .nop),
    (0b1_000001_0000000000000000000000001, .shd),
    (0b0_000001_000000000000000_011_0000010, .halt 3),
    (0b1_000001_000000000000000_010_0000011, .idle 2)] := by decide +kernel

theorem test_decode_major02 : reads [
    (0b0_000010_01101_10101_00010_001_1_000000, .add 13 21 2 1 1),
    (0b1_000010_01100_10011_00010_101_1_000001, .sub 12 19 2 5 1),
    (0b0_000010_00010_00011_01110_100_1_000010, .mul 2 3 14 4 1),
    (0b1_000010_01000_00011_10010_100_1_000011, .mulh 8 3 18 4 1),
    (0b0_000010_11011_10011_00100_010_1_000100, .mulhn 27 19 4 2 1),
    (0b1_000010_10011_10011_01101_001_1_000101, .div 19 19 13 1 1),
    (0b0_000010_00010_10010_11100_010_1_000110, .divn 2 18 28 2 1),
    (0b1_000010_01110_00101_10010_001_1_000111, .rem 14 5 18 1 1),
    (0b0_000010_10010_11011_10110_010_1_001000, .remn 18 27 22 2 1),
    (0b1_000010_10011_10011_10101_010_1_001001, .andOp 19 19 21 2 1),
    (0b0_000010_00100_10010_10111_001_1_001010, .orOp 4 18 23 1 1),
    (0b1_000010_10100_00111_10000_110_1_001011, .xorOp 20 7 16 6 1),
    (0b0_000010_11001_01011_01111_101_1_001100, .shl 25 11 15 5 1),
    (0b1_000010_01100_01010_01000_111_1_001101, .shr 12 10 8 7 1),
    (0b0_000010_10111_11001_01000_001_1_001110, .sar 23 25 8 1 1),
    (0b1_000010_10001_10000_11101_011_1_001111, .minOp 17 16 29 3 1),
    (0b0_000010_01010_10100_00011_001_1_010000, .maxOp 10 20 3 1 1),
    (0b1_000010_00110_11001_01011_010_1_010001, .minn 6 25 11 2 1),
    (0b0_000010_01110_00010_11111_110_1_010010, .maxn 14 2 31 6 1),
    (0b1_000010_11001_10010_10011_111_1_010011, .sel 25 18 19 7 1),
    (0b0_000010_01011_10111_01100_101_1_010100, .crc 11 23 12 5 1)] := by decide +kernel

theorem test_decode_major03 : reads [
    (0b1_000011_10011_11010_100_100100011001, .addi 19 26 4 2329)] := by decide +kernel

theorem test_decode_major04 : reads [
    (0b0_000100_11011_00011_011_00_1111100101, .andi 27 3 3 997),
    (0b1_000100_10111_10110_001_01_1000111110, .ori 23 22 1 574),
    (0b0_000100_11000_10111_011_10_1111001000, .xori 24 23 3 968)] := by decide +kernel

theorem test_decode_major05 : reads [
    (0b1_000101_01010_10111_100_000000_111001, .shli 10 23 4 57),
    (0b0_000101_10110_01100_001_010000_111101, .shri 22 12 1 61),
    (0b1_000101_01111_01100_010_100000_101000, .sari 15 12 2 40)] := by decide +kernel

theorem test_decode_major06 : reads [
    (0b0_000110_00100_00000_100_100011110001, .movi 4 4 2289),
    (0b1_000110_00111_00001_111_110010011001, .movh 7 7 3225)] := by decide +kernel

theorem test_decode_major07 : reads [
    (0b0_000111_00101_11000_000000000000000, .clz 5 24),
    (0b1_000111_01000_01101_001000000000000, .ctz 8 13),
    (0b0_000111_01101_11110_010000000000000, .popc 13 30),
    (0b1_000111_11100_10000_011000000_000110, .sext 28 16 6),
    (0b0_000111_00110_01111_100000000_011010, .zext 6 15 26),
    (0b1_000111_10010_01001_101_001001_010100, .bfx 18 9 9 20),
    (0b0_000111_11101_00101_110_101000_010111, .bfi 29 5 40 23)] := by decide +kernel

theorem test_decode_major08 : reads [
    (0b1_001000_111_101_0_1_111_10010_01001_0000, .cmp 7 5 1 7 18 9),
    (0b0_001000_110_101_1_1_011_10110_111000010, .cmpi 6 5 1 3 22 450)] := by decide +kernel

theorem test_decode_major09 : reads [
    (0b1_001001_00111_00101_00011_010_0000000, .pand 7 5 3 2),
    (0b0_001001_00111_00101_00011_010_0000001, .por 7 5 3 2),
    (0b1_001001_00111_00101_00011_001_0000010, .pxor 7 5 3 1),
    (0b0_001001_00111_00101_00000_010_0000011, .pnot 7 5 2),
    (0b1_001001_00111_00101_00000_010_0000100, .pmov 7 5 2),
    (0b0_001001_00111_00101_00011_010_0000101, .mand 7 5 3 2),
    (0b1_001001_00111_00101_00011_110_0000110, .mor 7 5 3 6),
    (0b0_001001_00111_00101_00011_010_0000111, .mxor 7 5 3 2),
    (0b1_001001_00111_00101_00000_001_0001000, .mnot 7 5 1),
    (0b0_001001_10000_00101_00000_111_0001001, .mpop 16 5 7),
    (0b1_001001_10011_00101_00000_010_0001010, .mfirst 19 5 2),
    (0b0_001001_00111_01001_00000_011_0001011, .mset 7 9 3)] := by decide +kernel

theorem test_decode_major0A : reads [
    (0b1_001010_00001_00101_10_101_0000000000, .xcp 1 5 2 5),
    (0b0_001010_01111_01001_10_101_0000000001, .xcpv 15 9 2 5),
    (0b1_001010_00111_00101_11_011_0000000010, .xcpm 7 5 3 3),
    (0b0_001010_01111_01001_01_110_0000000011, .xcpw 15 9 1 6)] := by decide +kernel

theorem test_decode_major0B : reads [
    (0b1_001011_01110_01011_111_000_10001_0000, .aadd 14 11 7 17),
    (0b0_001011_01110_01011_101_001_100011011, .aaddImm 14 11 5 283),
    (0b1_001011_01101_01111_111_010000000000, .amov 13 15 7),
    (0b0_001011_11001_01100_111_011000000000, .aread 25 12 7),
    (0b1_001011_01101_10110_111_100_101_000000, .luset 13 22 7 5),
    (0b0_001011_10010_01101_100_101_100_000000, .lurd 18 13 4 4)] := by decide +kernel

theorem test_decode_major0C : reads [
    (0b1_001100_0_100_111001100010001101111, .br 4 1885295),
    (0b0_001100_1_100_100110101000000101101, .call 4 1265709)] := by decide +kernel

theorem test_decode_major0D : reads [
    (0b1_001101_00_100_10101_000000000000000, .jr 4 21),
    (0b0_001101_01_100_00000000000000000000, .ret 4),
    (0b1_001101_10_001_00111_000000000000000, .bswap 1 7)] := by decide +kernel

theorem test_decode_major0E : reads [
    (0b0_001110_00000_00011_101101010111000, .loop 3 23224),
    (0b1_001110_01000_1111000011_1010100110, .loopi 963 678),
    (0b0_001110_10_001_00000000000000000000, .lbrk 1),
    (0b1_001110_11000_01011_101_000000000000, .lidx 11 5)] := by decide +kernel

theorem test_decode_major0F : reads [
    (0b0_001111_0000000000000000000000000, .tack),
    (0b1_001111_010000000_1000110101110101, .seam 36213),
    (0b0_001111_100000000_1001101000110101, .notch 39477),
    (0b1_001111_1100000000000000000000000, .ifence)] := by decide +kernel

theorem test_decode_major10 : reads [
    (0b0_010000_000_00001_10011_010_000000000, .chkEq 1 19 2),
    (0b1_010000_001_10010_00100_011_000000000, .chkNe 18 4 3),
    (0b0_010000_010_1000011010_001_000000000, .trapOp 538 1)] := by decide +kernel

theorem test_decode_major11 : reads [
    (0b1_010001_00000_0001001011_111_0000000, .fmt 75 7),
    (0b0_010001_00111_0000000000_101_0000001, .fmtr 7 5),
    (0b1_010001_01101_0100110011_010_1_00_0010, .mfsr 13 307 2 1 0),
    (0b0_010001_10101_0000010011_011_0_00_0011, .mtsr 21 19 3 0 0),
    (0b1_010001_00000_0000000010_011_0000100, .eret 2 3),
    (0b0_010001_000000000000000_101_0000101, .lyield 5),
    (0b1_010001_01100_0000000000_100_0000110, .inject 12 4)] := by decide +kernel

theorem test_decode_major12 : reads [
    (0b0_010010_0_00100_00100_11100_101_100_10_1, .agr 4 4 28 5 4 2 1),
    (0b1_010010_100_01111_10000_10000_101_1_000, .agv 15 16 16 5 1),
    (0b0_010010_101_00011_00000000000000000, .agj 3),
    (0b1_010010_110_00101_00100_11000_0000000, .agst 5 4 24)] := by decide +kernel

theorem test_decode_major13 : reads [
    (0b0_010011_01011_11000_01001_100_010_0000, .vaddF 11 24 9 4 2),
    (0b1_010011_11011_10111_00110_101_010_0001, .vsubF 27 23 6 5 2),
    (0b0_010011_00001_00111_11111_101_010_0010, .vmulF 1 7 31 5 2),
    (0b1_010011_01100_00101_10111_101_010_0011, .vmin 12 5 23 5 2),
    (0b0_010011_11110_00001_11001_101_010_0100, .vmax 30 1 25 5 2),
    (0b1_010011_01010_10101_00000_111_011_0101, .vabs 10 21 7 3),
    (0b0_010011_00011_10111_00000_111_011_0110, .vneg 3 23 7 3),
    (0b1_010011_01001_10001_01100_010_011_0111, .vcopysign 9 17 12 2 3)] := by decide +kernel

theorem test_decode_major14 : reads [
    (0b0_010100_01100_11001_01000_101_010_0000, .vfma 12 25 8 5 2),
    (0b1_010100_10010_11001_10001_011_010_0001, .vfms 18 25 17 3 2),
    (0b0_010100_10101_01000_10100_111_010_0010, .vfnma 21 8 20 7 2),
    (0b1_010100_11010_11001_11100_010_010_0011, .vfnms 26 25 28 2 2)] := by decide +kernel

theorem test_decode_major15 : reads [
    (0b0_010101_11010_01000_11011_100_111_0000, .vaddI 26 8 27 4 7),
    (0b1_010101_11000_11010_01000_010_111_0001, .vsubI 24 26 8 2 7),
    (0b0_010101_10001_10000_01100_110_111_0010, .vmulI 17 16 12 6 7),
    (0b1_010101_00001_00001_11010_011_111_0011, .vmulh 1 1 26 3 7),
    (0b0_010101_10000_01001_00111_110_111_0100, .vadds 16 9 7 6 7),
    (0b1_010101_10100_11111_01100_100_111_0101, .vsubs 20 31 12 4 7),
    (0b0_010101_11010_11110_11000_011_111_0110, .vand 26 30 24 3 7),
    (0b1_010101_11111_01100_00011_010_111_0111, .vor 31 12 3 2 7),
    (0b0_010101_00100_01000_10000_010_111_1000, .vxor 4 8 16 2 7),
    (0b1_010101_01011_00111_00000_100_111_1001, .vnot 11 7 4 7),
    (0b0_010101_10100_11101_00001_101_111_1001, .vpopc 20 29 5 7),
    (0b1_010101_11011_00001_00010_100_111_1001, .vclz 27 1 4 7),
    (0b0_010101_11110_10101_01100_111_111_1010, .vshl 30 21 12 7 7),
    (0b1_010101_10101_00011_11011_110_111_1011, .vshr 21 3 27 6 7),
    (0b0_010101_00100_11110_01101_111_111_1100, .vsar 4 30 13 7 7),
    (0b1_010101_10111_11001_00111_100_110_1101, .vmulhN 23 25 7 4 6),
    (0b0_010101_11101_00110_01110_111_110_1110, .vaddsN 29 6 14 7 6),
    (0b1_010101_10101_01011_00011_111_110_1111, .vsubsN 21 11 3 7 6)] := by decide +kernel

theorem test_decode_major16 : reads [
    (0b0_010110_00110_11111_11000_100_100_0_101, .vcmp 6 31 24 4 4 5),
    (0b1_010110_00110_01101_11000_001_101_11_11, .vcmpN 6 13 24 1 5 3),
    (0b0_010110_00101_00110_00110_010_001_0111, .vrankGt 5 6 6 2 1),
    (0b1_010110_00101_00101_10011_100_111_1000, .vrankGe 5 5 19 4 7),
    (0b0_010110_10101_00101_10100_111_101_1001, .vsel 21 5 20 7 5),
    (0b1_010110_10000_10110_00_011_010_101_1010, .vcx 16 22 3 2 5),
    (0b0_010110_10010_00101_00000_001_010_1011, .vclass 18 5 1 2)] := by decide +kernel

theorem test_decode_major17 : reads [
    (0b1_010111_00001_11010_11000_110_001_0000, .vperm 1 26 24 6 1),
    (0b0_010111_10001_11000_11110_010_100_0001, .vrot 17 24 30 2 4),
    (0b1_010111_11100_00111_11011_111_010_0010, .vslide 28 7 27 7 2),
    (0b0_010111_00001_01001_00000_010_011_0011, .vbcast 1 9 2 3),
    (0b1_010111_10001_01000_11001_000_101_0100, .vext 17 8 25 5),
    (0b0_010111_01011_01001_10010_000_100_0101, .vins 11 9 18 4),
    (0b1_010111_11011_0000000000_010_111_0110, .vidx 27 2 7),
    (0b0_010111_00010_11110_11000_011_100_0111, .vzipLo 2 30 24 3 4),
    (0b1_010111_10110_10011_11011_101_100_1000, .vzipHi 22 19 27 5 4),
    (0b0_010111_11011_11110_11101_000_110_1001, .vextN 27 30 29 6)] := by decide +kernel

theorem test_decode_major18 : reads [
    (0b1_011000_10001_00101_00000_101_101_0000, .vredsum 17 5 5 5),
    (0b0_011000_00101_10001_00000_101_101_0001, .vredmax 5 17 5 5),
    (0b1_011000_00001_11100_00000_100_101_0010, .vredmin 1 28 4 5),
    (0b0_011000_11001_00110_00000_101_111_0011, .vredand 25 6 5 7),
    (0b1_011000_00001_11001_00000_111_111_0100, .vredor 1 25 7 7),
    (0b0_011000_00101_00110_00000_010_110_0101, .vredmaxN 5 6 2 6),
    (0b1_011000_10000_10100_00000_110_110_0110, .vredminN 16 20 6 6),
    (0b0_011000_00100_10010_00000_001_110_0111, .vredsumN 4 18 1 6)] := by decide +kernel

theorem test_decode_major19 : reads [
    (0b1_011001_01011_10110_101_101_011_100_011, .vcvt 11 22 5 5 3 4 3),
    (0b0_011001_10001_10010_10000_111_010_0111, .vldexp 17 18 16 7 2)] := by decide +kernel

theorem test_decode_major1A : reads [
    (0b1_011010_11001_00100_00000_101_010_0000, .vexp2 25 4 5 2),
    (0b0_011010_00010_01000_00000_010_010_0001, .vlog2 2 8 2 2),
    (0b1_011010_01001_00010_00000_111_010_0010, .vrcp 9 2 7 2),
    (0b0_011010_00100_10001_00000_100_010_0011, .vrsqrt 4 17 4 2),
    (0b1_011010_10010_00001_11001_001_010_0100, .vdiv 18 1 25 1 2),
    (0b0_011010_01111_01011_00000_101_010_0101, .vsqrt 15 11 5 2)] := by decide +kernel

theorem test_decode_major1B : reads [
    (0b1_011011_10001_1110_1010_010_101100110, .ld 17 14 10 2 358),
    (0b0_011011_10111_1111_0101_100_111110100, .ist 23 5 4 500)] := by decide +kernel

theorem test_decode_major1C : reads [
    (0b1_011100_10001_1110_0100_010_110000100, .st 17 14 4 2 388)] := by decide +kernel

theorem test_decode_major1D : reads [
    (0b0_011101_11110_1101_1001_010_111100101, .vld 30 13 9 2 485),
    (0b1_011101_00101_1111_1100_100_00_00100_10, .vlds 5 12 4 4 2),
    (0b0_011101_01101_1111_1011_100_01_01011_00, .vgath 13 11 4 11),
    (0b1_011101_00110_1111_1010_00010_00011_00, .mld 6 10 3)] := by decide +kernel

theorem test_decode_major1E : reads [
    (0b0_011110_10110_1101_0100_100_100100101, .vst 22 13 4 4 293),
    (0b1_011110_00111_1111_1100_110_00_01010_10, .vsts 7 12 6 10 2),
    (0b0_011110_11010_1111_1011_001_01_11101_00, .vscat 26 11 1 29),
    (0b1_011110_00110_1111_1010_00010_11001_00, .mst 6 10 25)] := by decide +kernel

theorem test_decode_major1F : reads [
    (0b0_011111_00101_1101_1100_10101_1_00_1000, .lamOp 5 13 12 21 1 8),
    (0b1_011111_00101_1101_0101_11101_1_001001, .lamCas 5 13 5 29 1),
    (0b0_011111_11111_1101_1000_01000_0001010, .lamFac 31 13 8 8),
    (0b1_011111_11000_1101_0010_000000001011, .lamFacRd 24 13 2)] := by decide +kernel

theorem test_decode_major20 : reads [
    (0b0_100000_000_10_00000000000000000000, .drain 2),
    (0b1_100000_001_1111_10000_0000000000000, .xlat 15 16),
    (0b0_100000_010_00110_1011_0000000000000, .hstat 6 11),
    (0b1_100000_011_1110_000000000000000000, .hdrop 14)] := by decide +kernel

theorem test_decode_major21 : reads [
    (0b0_100001_000_00111010_00110_000000000, .tdef 58 6),
    (0b1_100001_001_10110101_01110_000000000, .tstat 181 14),
    (0b0_100001_010_11111111_11_000000000000, .tset 255 3),
    (0b1_100001_011_100_01011_00000000000000, .qdef 4 11),
    (0b0_100001_100_100_0000000000000000000, .qpop 4),
    (0b1_100001_101_010_01100_00000000000000, .qstat 2 12)] := by decide +kernel

theorem test_decode_major22 : reads [
    (0b0_100010_000_010101_00011000_10111001, .mma 21 24 185),
    (0b1_100010_001_011000_00000101_01010111, .mmas 24 5 87),
    (0b0_100010_010_100100_0000000000000000, .mzero 36),
    (0b1_100010_011_011110_01011010_0_01111_1_0, .mdrain 30 90 0 15 1),
    (0b0_100010_100_011001_01010101_00000000, .mload 25 85),
    (0b1_100010_101_100010_0000000000000000, .mwait 34)] := by decide +kernel

theorem test_decode_major23 : reads [
    (0b0_100011_0_10100_011_1000010_000000000, .xtrIn 20 3 66),
    (0b1_100011_1_11110110_0000000000000000, .xtrOut 246)] := by decide +kernel

theorem test_decode_major24 : reads [
    (0b0_100100_000_00010001_0010_1111_110011, .ceCopyTile 17 2 15 51),
    (0b1_100100_001_0100_1111_000111_00000000, .ceCopy 4 15 7),
    (0b0_100100_010_0010_0101_010010_00000000, .ceGath 2 5 18),
    (0b1_100100_011_0001_1111_110010_00000000, .ceScat 1 15 50),
    (0b0_100100_100_0011_0101_110001_00000000, .ceFill 3 5 49),
    (0b1_100100_101_0011_1110_011100_00000000, .ceChk 3 14 28)] := by decide +kernel

theorem test_decode_major25 : reads [
    (0b0_100101_0000_01011011_0_1110_111011_00, .shSend 91 0 14 59),
    (0b1_100101_0001_10110_11010010_111101_10, .shRedAr 22 210 61 2),
    (0b0_100101_0010_01101_00100111_100011_11, .shRedRs 13 39 35 3),
    (0b1_100101_0011_10011_01111111_101101_10, .shRedArFac 19 127 45 2),
    (0b0_100101_0100_00011_01001000_000100_11, .shRedRsFac 3 72 4 3),
    (0b1_100101_0101_00110_11110111_011100_00, .shGath 6 247 28),
    (0b0_100101_0110_11101_11110111_000101_10, .shBcast 29 247 5 2),
    (0b1_100101_0111_11111_11110111_000010_00, .shA2a 31 247 2),
    (0b0_100101_1000_10101_11110110_000110_1_0, .shRot 21 246 6 1),
    (0b1_100101_1001_00011_0000000000000000, .shStat 3)] := by decide +kernel

theorem test_decode_major26 : reads [
    (0b0_100110_00_100111_11100_010_000000000, .acset 39 28 2),
    (0b1_100110_01_000101_00000_011_100111110, .acadd 5 3 318),
    (0b0_100110_10_011110_00001_011_111010101, .acwait 30 1 3 469),
    (0b1_100110_11_111100_11110_011_000000000, .acrd 60 30 3)] := by decide +kernel

theorem test_decode_major27 : reads [
    (0b0_100111_0000_1010_0011_0001_100010_000, .thLd 10 3 1 34),
    (0b1_100111_0001_1100_0100_0010_111111_000, .thSt 12 4 2 63),
    (0b0_100111_0010_0011_0101_0001_001100_000, .thAmo 3 5 1 12),
    (0b1_100111_0011_0100_1111_0101_101001_000, .thCas 4 15 5 41),
    (0b0_100111_0100_0101_1001_1101_001110_000, .thEnq 5 9 13 14),
    (0b1_100111_0101_0101_1000_1001_101100_000, .thDeq 5 8 9 44),
    (0b0_100111_0110_0011_0101_0110_110100_000, .thChase 3 5 6 52),
    (0b1_100111_0111_0001_0101_0001_000001_000, .thClaim 1 5 1 1),
    (0b0_100111_1000_0001_1100_1001_100100_000, .thFac 1 12 9 36),
    (0b1_100111_1001_0100_1001_1000_010000_000, .thCall 4 9 8 16)] := by decide +kernel

theorem test_decode_major28 : reads [
    (0b0_101000_0_11110_1000_000111_000000000, .mbPost 30 8 7),
    (0b1_101000_1_11_1110_10101_100_101011_0000, .mbTake 3 14 21 4 43)] := by decide +kernel

theorem test_decode_major29 : reads [
    (0b0_101001_0000_10000_100011_0000000000, .clBind 16 35),
    (0b1_101001_0001_1110_1111_011010_0000000, .clLd 14 15 26),
    (0b0_101001_0010_10001_010100_0000000000, .clClr 17 20),
    (0b1_101001_0011_10111_001110_0000000000, .clDec 23 14),
    (0b0_101001_0100_01000_010110_0000000000, .clProp 8 22),
    (0b1_101001_0101_00111_110110_0000000000, .clBt 7 54),
    (0b0_101001_0110_1111_1100_101111_0000000, .clSt 15 12 47),
    (0b1_101001_0111_10101_00101_00000000000, .clRd 21 5),
    (0b0_101001_1000_01101_010111_0000000000, .clCol 13 23),
    (0b1_101001_1001_001_01_0000000000000000, .clMask 1 1),
    (0b0_101001_1010_001_00011_0000000000000, .clLvl 1 3)] := by decide +kernel

/-- The words of a user routine (R300): op in bits 31:26, d, a and b of three bits each, a 17-bit immediate. -/
theorem test_decode_routine : ∀ x ∈ ([
    (0b000000_000_000_000_00000000000001001, .routineEnd 0 0 0 9), (0b000001_010_011_000_11111111111111000, .routineLd 2 3 0 0x1FFF8),
    (0b000010_000_011_100_00000000000010000, .routineSt 0 3 4 16), (0b000011_101_110_000_00000000000000010, .routineLdc 5 6 0 2),
    (0b000100_000_110_111_00000000000000011, .routineStc 0 6 7 3), (0b000101_001_010_011_00000000000000000, .routineAdd 1 2 3 0),
    (0b000110_001_010_011_00000000000000000, .routineSub 1 2 3 0), (0b000111_001_010_011_00000000000000000, .routineAnd 1 2 3 0),
    (0b001000_001_010_011_00000000000000000, .routineOr 1 2 3 0), (0b001001_001_010_011_00000000000000000, .routineXor 1 2 3 0),
    (0b001010_001_010_011_00000000000000000, .routineMin 1 2 3 0)] : List (Nat × Instr)), decodeRoutine x.1 = some x.2 := by
  decide +kernel

theorem test_decode_routine_rest : ∀ x ∈ ([
    (0b001011_001_010_011_00000000000000000, .routineMax 1 2 3 0), (0b001100_001_010_011_00000000000000000, .routineMinn 1 2 3 0),
    (0b001101_001_010_011_00000000000000000, .routineMaxn 1 2 3 0), (0b001110_001_010_011_00000000000000000, .routineShl 1 2 3 0),
    (0b001111_001_010_011_00000000000000000, .routineShr 1 2 3 0), (0b010000_100_101_000_00000000001111111, .routineAddi 4 5 0 127),
    (0b010001_111_000_000_11111111111110000, .routineMovi 7 0 0 0x1FFF0), (0b010010_000_101_110_00000000000000100, .routineBeq 0 5 6 4),
    (0b010011_000_101_110_00000000000000100, .routineBne 0 5 6 4), (0b010100_000_101_110_00000000000000100, .routineBlt 0 5 6 4),
    (0b010101_000_101_110_00000000000000100, .routineBltn 0 5 6 4)] : List (Nat × Instr)), decodeRoutine x.1 = some x.2 := by
  decide +kernel

/-- R300: an op beyond 21 is no word of a routine. -/
theorem test_decode_routine_unknown : decodeRoutine 0b010110_000_000_000_00000000000000000 = none := by decide +kernel

/-- R19, R23: a header, a reserved major, and words with a fixed bit wrong or a field that is not legal. -/
theorem test_decode_refuses :
    decodeSlot 0b0_000000_0000000000000000000000000 = .error .header ∧
    decodeSlot 0b0_101010_0000000000000000000000000 = .error .reservedMajor ∧
    decodeSlot 0b0_111111_0000000000000000000000000 = .error .reservedMajor ∧
    decodeSlot 0b0_000001_0000000000000000000000100 = .error .illegalWord ∧
    decodeSlot 0b0_000010_01101_10101_00010_001_1_010101 = .error .illegalWord ∧
    decodeSlot 0b0_001000_110_110_1_1_011_10110_111000010 = .error .illegalWord := by decide +kernel

/-- R13: the bytes of a word come least significant first, and fewer than four bytes are no operation. -/
theorem test_decode_bytes :
    decodeBytes [0xC0, 0x88, 0xDA, 0x04] = .ok (.add 13 21 2 1 1) ∧ decodeBytes [0xC0, 0x88, 0xDA] = .error .illegalWord := by
  decide +kernel

/-! ## Operations that are not well-formed (R23, reason 6): one for each check -/

theorem test_illformed_scalar : ∀ i ∈ [Instr.bfx 1 2 0x39 7, .bfi 1 2 63 1, .cmp 1 6 0 0 2 3, .cmpi 1 7 0 0 2 3, .pand 8 1 2 0,
    .por 1 8 2 0, .pxor 1 2 8 0, .pnot 8 1 0, .pmov 1 8 0, .mand 8 0 0 0, .mor 0 8 0 0, .mxor 0 0 8 0, .mnot 8 0 0, .mpop 0 8 0,
    .mfirst 0 8 0, .mset 8 0 0, .xcpv 16 0 0 0, .xcpw 0 16 0 0, .xcpm 8 0 0 0, .aadd 16 0 0 0, .aaddImm 0 16 0 0, .amov 16 0 0,
    .aread 0 16 0, .luset 16 0 0 0, .luset 0 0 0 6, .lurd 0 16 0 0, .lurd 0 0 0 7], ¬ WellFormed i := by decide +kernel

theorem test_illformed_control : ∀ i ∈ [Instr.loop 1 0, .loopi 1 0, .lidx 1 6, .fmt 0x331 0, .fmt 0x11 0, .fmt 2 0, .mfsr 1 7 0 0 0,
    .mfsr 1 21 0 0 0, .mfsr 1 5 0 0 1, .mtsr 1 0x29 0 1 0, .mfsr 1 0x52 0 1 0, .mtsr 1 0x86 0 1 0, .mtsr 1 0x140 0 1 0, .mtsr 1 0x40 0 1 1,
    .eret 3 0, .agr 0 0 0 6 0 0 0, .agr 0 0 0 0 6 0 0, .agr 0 0 0 0 0 3 0, .agv 0 0 0 6 0], ¬ WellFormed i := by decide +kernel

theorem test_illformed_vector : ∀ i ∈ [Instr.vaddF 0 0 0 0 3, .vabs 0 0 0 4, .vcopysign 0 0 0 0 4, .vfma 0 0 0 0 3, .vaddI 0 0 0 0 3,
    .vnot 0 0 0 3, .vmulhN 0 0 0 0 4, .vaddsN 0 0 0 0 7, .vcmp 8 0 0 0 0 0, .vcmp 0 0 0 0 0 7, .vcmp 0 0 0 0 4 6, .vcmpN 0 0 0 0 4 0,
    .vcmpN 8 0 0 0 5 0, .vrankGt 8 0 0 0 0, .vclass 0 0 0 3, .vidx 0 0 3, .vextN 0 0 0 4, .vredsum 0 0 0 3, .vredand 0 0 0 2,
    .vredmaxN 0 0 0 7, .vcvt 0 0 0 5 6 0 7, .vcvt 0 0 0 0 1 5 0, .vcvt 0 0 0 0 1 0 1, .vcvt 0 0 0 0 1 0 2, .vcvt 0 0 0 0 1 0 4,
    .vcvt 0 0 0 1 1 0 0, .vldexp 0 0 0 0 3, .vexp2 0 0 0 3, .vdiv 0 0 0 0 3], ¬ WellFormed i := by decide +kernel

theorem test_illformed_memory : ∀ i ∈ [Instr.ld 0 15 0 0 0, .ld 0 0 0 7 0, .st 0 15 0 0 0, .st 0 0 0 4 0, .vld 0 15 0 0 0,
    .vst 0 15 0 0 0, .vlds 0 15 0 0 0, .vlds 0 0 0 0 3, .vgath 0 15 0 0, .vscat 0 15 0 0, .mld 8 0 0, .mst 0 15 0, .lamOp 0 15 0 0 0 0,
    .lamOp 0 0 0 0 0 9, .lamCas 0 15 0 0 0, .lamFac 0 15 0 0, .lamFacRd 0 15 0, .mdrain 0 1 1 0 0, .shSend 1 1 0 0, .shGath 0 248 0,
    .shBcast 0 248 0 0, .shA2a 0 255 0, .shRot 0 248 0 0], ¬ WellFormed i := by
  decide +kernel

/-! ## Small states -/

/-- The machine as stage S1 and the GPM leave it: links trained, and every quad of the die with partition 5. -/
def base : State :=
  let s := State.reset.bringUp
  { s with
    id := { s.id with part := 5 }, boot := { s.boot with parts := [{ num := 5, image := [], mr := [], fn := some 1, quads := [] }] },
    reg6 := { s.reg6 with cells := cellsPutAll s.reg6.cells [(0x800000, 5), (0x800001, 5), (0x800002, 5), (0x800003, 5)] } }

/-- The main context of a released core, with slot n of a bundle at 0 up. -/
def main (n : Cl) : State :=
  { base with status := .running, core := { Core.reset with slot := n } }

/-- The lining of a core whose main context has trapped, and serves an event. -/
def lin : State :=
  { base with status := .trapped, ctx := .lining, lin := { Lining.reset with serving := true } }

/-- The state with other registers. -/
def State_with (s : State) (f : Regs → Regs) : State := { s with core := { s.core with regs := f s.core.regs } }

/-- Scalar n of the cluster of the slot, and of the lining, holds v. -/
def holds (s : State) (n : BitVec 5) (v : Dword) : State :=
  { s with core := { s.core with regs := s.core.regs.setS s.core.slot n v }, lin := { s.lin with s := s.lin.s.set n.toNat v } }

def withIss (s : State) (f : Issue → Issue) : State := { s with core := { s.core with iss := f s.core.iss } }
def withSys (s : State) (f : SysRegs → SysRegs) : State := { s with sys := f s.sys }
def withLoop (s : State) (n : Nat) (l : LoopLevel) : State := State_with s fun r => r.setLoop n l

/-- A handle on bytes of a region of die 0 with every permission, and h1 holding it. -/
def handle (region offset : Nat) : Handle :=
  { valid := true, inst := 0, pbase := BitVec.ofNat 52 (physical region 0 offset), ps := 0, rwam := 15, cls := 0, gen := 0, vbase := 0,
    mask := 1 }
def withHandle (s : State) (h : Handle) : State := State_with s fun r => r.wh 1 h

/-- An address register a1 that holds v. -/
def withA (s : State) (v : Dword) : State := State_with s fun r => r.wa 1 v

/-- A tile's entry of 128 by 128 elements. -/
def square (state : BitVec 2) (type : BitVec 3) : TileEntry := { state := state, type := type, rowsM1 := 127, colsM1 := 127, base := 0 }
def withTile (s : State) (n : BitVec 8) (e : TileEntry) : State := State_with s fun r => r.wt n e

/-- The state inside an open panel. -/
def withPanel (s : State) (irrev : Bool) (retry : Nat) : State :=
  { s with core := { s.core with panel := some { entryPc := 0x20, entry := Regs.reset, irrev := irrev, retry := retry, eaten := [], replay := false, gates := [] } } }

/-- A result on its way, due in running cycle `due`. -/
def flight (l : Landing) (due : Nat) (late : Bool) : Flight :=
  { due := due, iss := 0, baddr := 0, slot := 1, word := 0, land := l, chk := .no, upset := .none, raw := none, late := late }

/-- A command of an engine, and one in execution. -/
def cmd (op : CmdOp) (held : Bool) (writes : List Nat) : Cmd :=
  { id := 7, held := held, ac := 3, lining := false, fmt := 1, reads := [], pops := [], writes := writes, z := none, revoked := false,
    word := 0, baddr := 0, slot := 0, op := op }
def running (c : Cmd) (e : Effect) : Running :=
  { cmd := c, flowed := [], kept := [], image := [], start := 0, due := none, eff := e, srcRead := false, seen := ⟨[], [], []⟩, left := 0, packet := none, rounds := 0, ended := false, route := [] }
def noEffect : Effect := ⟨[], [], [], none, none, 0, 0⟩

/-- The machine answers a next state. -/
def answers (r : Result) : Bool := match r with | .next _ => true | _ => false

/-- A state that has a value for each clause. -/
theorem next_of_answers {r : Result} (h : answers r = true) : ∃ t, r = .next t := by
  cases r with
  | next t => exact ⟨t, rfl⟩
  | fault f => simp [answers] at h
  | refused f => simp [answers] at h

theorem stopped_of {s : State} (h : s.status = .trapped) : s.status ≠ .running ∧ ∀ d, s.status ≠ .halting d := by
  rw [h]; exact ⟨by decide, fun _ h => by cases h⟩

/-- A bundle of four words nop; the lining's store with one. -/
def nops (n : Cl) : State :=
  { main n with core := { (main n).core with bundle := { addr := 0, words := Vector.replicate 4 0x02000000, header := none } } }
def liningNop : State := { lin with imem := ⟨[(0x30003, 0x82), (0x30007, 0x02), (0x3000B, 0x02), (0x3000F, 0x02)], false⟩ }

/-- Whether nothing forbids accesses, in a form that can be computed. -/
theorem reaches_iff (s : State) (hn : BitVec 4) (h : Handle) (os : List Nat) (n align : Nat) (ps : List Perm) (k : AccessKind) :
    Reaches s hn h os n align ps k ↔ h.valid = true ∧ s.kindAllowed hn h k (k == .store) = true ∧ (∀ o ∈ os, o + n ≤ spanSize h.ps) ∧
      (∀ p ∈ ps, h.allows p = true) ∧ ∀ o ∈ os, o % align = 0 :=
  ⟨fun h => ⟨h.valid, h.kind, h.inside, h.allowed, h.aligned⟩, fun ⟨a, b, c, d, e⟩ => ⟨a, b, c, d, e⟩⟩

/-- Slot n with h1 on the core's own scratchpad, or on the multicast window, and a1 that holds v. -/
def own (n : Cl) (v : Dword) : State := withA (withHandle (main n) (handle 2 0)) v
def mcast (v : Dword) : State := withA (withHandle (main 3) (handle 3 0)) v
/-- h1 on the vault, with large pages. -/
def vault (v : Dword) : State := withA (withHandle (main 0) { handle 1 0 with ps := 3 }) v
def wait (kind : Nat) (expired : Bool) : TimedWait :=
  { slot := 0, kind := kind, since := 0, limit := 5, expired := expired, what := 0, need := 1 }
def waiting (kind : Nat) (expired : Bool) : State := { main 0 with hold := ⟨0, 0, false, 0, [wait kind expired], false⟩ }
/-- A group of this core alone, in slot g1, and one of two members. -/
def alone : Group :=
  { gid := 4, ops := 63, present := false, late := 100, handler := 0, facb := 0, members := [⟨0, 0, true⟩], pending := [], resolved := [],
    deadNext := false, next := 0, broken := false, launched := [] }
def pair : Group := { alone with members := [⟨0, 0, true⟩, ⟨0, 1, true⟩] }
def inGroup (n : Cl) (g : Group) : State :=
  { State_with (main n) (fun r => r.wg 1 ⟨true, 63, 4, 0, 0, 0⟩) with groups := [g] }
/-- The bundle has an agreement header with tag 0 and offset 0. -/
def headed (s : State) (h : Word) : State :=
  { s with core := { s.core with bundle := { s.core.bundle with header := some h } } }
def spooled (s : State) : State :=
  { s with core := { s.core with spool := [{ id := 2, type := 0, claimed := none, data := none, held := false }] } }
def leaf : Leaf := { part := 5, vbase := 0, ps := 0, rwam := 15, cls := 0, pbase := 0 }
/-- The core holds instance 0 of the clause array. -/
def bound : State :=
  { main 0 with clause := { ClauseArray.reset with inst := ClauseArray.reset.inst.set 0 (ClauseInst.empty (.bound 0)) } }
/-- A routine at word pc whose handle names the vault. -/
def routine (pc : Nat) : Routine :=
  { packet := { id := 0, sdie := 0, score := 0, part := 5, op := 9, addr := BitVec.ofNat 52 (2 ^ 48), base := BitVec.ofNat 52 (2 ^ 48), size := 65536, cls := 0, ctl := 16, data := [] },
    die := 0, unit := 64, x := (Vector.replicate 8 0).set 1 (BitVec.ofNat 64 (2 ^ 48 + 65528)), pc := pc }

def flying (l : Landing) (due : Nat) (late : Bool) (run clock : Nat) : State :=
  { main 0 with run := run, clock := clock, core := { (main 0).core with flights := [flight l due late] } }
/-- A page table with one page of 1 GiB, on the vault. -/
def paged : State :=
  { main 0 with
    reg6 := { base.reg6 with cells := cellsPutAll base.reg6.cells [(0x200056, 0x01), (0x200057, 0x80)] },
    mem := ⟨[(2 ^ 48 + 1, 0x10), (2 ^ 48 + 6, 0x01), (2 ^ 48 + 7, 0xE0), (2 ^ 48 + 0x1001, 0x20), (2 ^ 48 + 0x1006, 0x01), (2 ^ 48 + 0x1007, 0xE0),
      (2 ^ 48 + 0x2006, 0x81), (2 ^ 48 + 0x2007, 0xC7)], [], []⟩,
    xlate := ⟨[], [], [⟨0, false, none⟩], 0⟩ }
def withQueue (c : Cmd) : State := { main 0 with core := { (main 0).core with copyQ := [c], matrixQ := [c], shuttleQ := [c], outboxQ := [c], clauseQ := [c] } }
def inUse (c : Cmd) (e : Effect) : State := { main 0 with running := [running c e] }
def zeroCmd : Cmd := cmd (.mzero 63) false []
def copyCmd : Cmd := cmd (.copyTile Handle.reset 0 5) false [5, 255]
def sendCmd : Cmd := cmd (.send (some 5) 0 0) false []
def delivery (t : BitVec 8) : Delivery := { tile := t, ac := 3, own := none, body := .nothing, failed := [], err := 0 }
def packet (op : BitVec 4) (ctl : BitVec 64) : Packet :=
  { id := 7, sdie := 0, score := 0, part := 5, op := op, addr := BitVec.ofNat 52 (2 ^ 48), base := BitVec.ofNat 52 (2 ^ 48), size := 65536, cls := 0, ctl := ctl, data := [] }
def thimbleCmd : Cmd := cmd (.thimble 0 Handle.reset 0 0x1FFF80) false []
def sending : State := { main 0 with running := [{ running thimbleCmd noEffect with packet := some (packet 0 0), left := 1 }] }
def outcome (n : BitVec 3) : OutcomeMsg := { gid := 4, tag := 0, seq := 0, outcome := n, late := false, dead := false, value := 0, report := ⟨[], 0⟩, handler := 0, poisoned := false }
def awaiting (k : AgreeKind) : AgreeWait :=
  { slot := 1, kind := k, gid := 4, seq := 0, tag := 0, baddr := 0, target := 0x20, ahead := none, part := none, nr := false, limit := 0, iss := 0, after := Regs.reset }
def agreeing (k : AgreeKind) : State := { inGroup 0 alone with core := { (inGroup 0 alone).core with agree := some (awaiting k) } }
def contribution : Contribution :=
  { gid := 4, rank := 0, die := 0, core := 0, seq := 0, tag := 0, agv := false, op := 0, cc := 5, value := 0, ref := 0 }
def ringSlot (typ : BitVec 4) (die : BitVec 10) (bnc : Bool) (body : SlotBody) : RingSlot :=
  { typ := typ, sdie := 0, score := 0, ddie := die, dunit := 67, part := 5, seq := 0, lap := false, bnc := bnc, len := 0, gcrc := [], idx := 0, cnt := 0, rack := false, cw := true, via := die, pos := 0, dir := none, hops := [], body := body }
def withFabric (f : Fabric → Fabric) : State := { main 0 with fabric := f base.fabric }
/-- A core that was never released, in a partition whose page at 0 lies on the vault; no wipe is under way. -/
def ready : State := { base with wipes := [], xlate := ⟨[], [{ leaf with pbase := BitVec.ofNat 52 (2 ^ 48) }], [], 0⟩ }
/-- Mailbox 3 of core 0 with one of two entries taken up, and full. -/
def mailed : State :=
  { ready with reg6 := { base.reg6 with cells := cellsPutAll base.reg6.cells (cellsAt (mailboxReg 0 3) (leBytes 8 (2 ^ 47 + 2 ^ 28 + 0x1000) ++ leBytes 8 1)) } }
def fullMail : State :=
  { ready with reg6 := { base.reg6 with cells := cellsPutAll base.reg6.cells (cellsAt (mailboxReg 0 3) (leBytes 8 (2 ^ 47 + 2 ^ 28 + 0x1000) ++ leBytes 8 2)) } }
def ringOn (s : State) (timed : Bool) (r : CommandRing) : State := { s with fe := s.fe.setRing timed r }
def head (timed : Bool) (typ flags : BitVec 8) (bad : BitVec 4) : FeHead := { timed := timed, typ := typ, flags := flags, bad := bad }
def feWaiting (w : FeWait) : CommandRing :=
  { CommandRing.reset with wait := some { what := w, head := head false 7 1 0, words := 5, since := 0, limit := 9, polled := 0 } }
def staged (n : Nat) : State := { base with boot := { base.boot with stage := n, owner := some [1], identity := some 0 } }
def frame (scope part : Byte) (lct : Byte) : Frame := ⟨[0, 1, scope, part, 0, 0, 0, lct]⟩

/-! ## States and operands that meet the hypotheses of the statements, at the ends of their ranges -/

/-- Operands at the bounds of what is well-formed. -/
theorem witness_EveryInstructionDecodesBack :
    (WellFormed (.bfx 1 2 63 0) ∧ isEvent (.bfx 1 2 63 0) = false ∧ isRoutine (.bfx 1 2 63 0) = false) ∧
    (WellFormed (.routineEnd 7 7 7 0x1FFFF) ∧ isEvent (.routineEnd 7 7 7 0x1FFFF) = false ∧
      isRoutine (.routineEnd 7 7 7 0x1FFFF) = true) := by
  refine ⟨?_, ?_⟩ <;> decide +kernel

theorem witness_EachWordHasOneMeaning :
    (0x02000000 < 2 ^ 31 ∧ decodeSlot 0x02000000 = .ok .nop) := by
  decide +kernel

theorem witness_StepRunsTheDecodedInstruction :
    (∃ r, ({ State.reset with routine := some ⟨{ id := 0, sdie := 0, score := 0, part := 5, op := 9, addr := 0, base := 0, size := 8, cls := 0, ctl := 16, data := [] }, 0, 0, Vector.replicate 8 0, 0⟩ } : State).routine = some r ∧
      decodeRoutine (State.reset.routineWord r) = some (.routineEnd 0 0 0 0)) ∧
    (lin.routine = none ∧ lin.ctx = .lining ∧ (liningNop.liningDecode).2 = true ∧
      decodeSlot (liningNop.liningDecode).1.opword.toNat = .ok .nop) ∧
    ((main 1).boot.power = true ∧ (main 1).routine = none ∧ (main 1).ctx = .main ∧ (main 1).core.slot ≠ 0 ∧
      decodeSlot (main 1).opword.toNat = .error .header) ∧
    (decodeSlot (nops 3).opword.toNat = .ok .nop ∧ (nops 3).core.slot ≠ 0 ∧ (nops 3).ctx = .main) ∧
    (({ State.reset with agenda := [.powerGood] } : State).agenda = [.powerGood] ∧ State.reset.core.slot = 0 ∧
      State.reset.core.landed = false) := by
  refine ⟨?_, ?_, ?_, ?_, ?_⟩ <;> decide +kernel

theorem witness_StepRunsTheDecodedInstruction_2 :
    (let s := State.reset.withFetchWord 32 0x02000000; s.boot.power = true ∧ s.routine = none ∧ s.ctx = .main ∧
      s.core.slot = 0 ∧ s.agenda = [] ∧ s.status = .running ∧ s.rewind = none ∧ s.landsNow = false ∧
      s.waitsForOutcome = false ∧ s.core.offEnd = false ∧ fetchable s.core.regs.pc.toNat = true ∧ s.runsAhead = false ∧
      (∀ x ∈ s.core.lbuf, x.1 ≠ s.core.regs.pc) ∧ s.imem.key s.core.regs.pc.toNat = some 0 ∧
      illegalBundle (s.imem.bundle 0) (s.headerAt s.core.regs.pc.toNat) = none ∧ (groupScan (s.imem.bundle 0) s.core.group).2 = [] ∧
      decodeBytes (cellsRead s.imem.cells 0 4) = .ok .nop) ∧
    (let s := State.reset.withFetchWord 32 0x7E000000; s.boot.power = true ∧ s.routine = none ∧ s.ctx = .main ∧
      s.core.slot = 0 ∧ s.agenda = [] ∧ s.status = .running ∧ s.rewind = none ∧ s.landsNow = false ∧
      s.waitsForOutcome = false ∧ s.core.offEnd = false ∧ fetchable s.core.regs.pc.toNat = true ∧ s.runsAhead = false ∧
      (∀ x ∈ s.core.lbuf, x.1 ≠ s.core.regs.pc) ∧ s.imem.key s.core.regs.pc.toNat = some 0 ∧
      (illegalBundle (s.imem.bundle 0) (s.headerAt s.core.regs.pc.toNat)).isSome = true) ∧
    (let s := ({ State.reset.withFetchWord 32 0x04100000 with core := { (State.reset.withFetchWord 32 0x04100000).core with group := [.s 0 1] } } : State);
      s.boot.power = true ∧ s.routine = none ∧ s.ctx = .main ∧ s.core.slot = 0 ∧ s.agenda = [] ∧ s.status = .running ∧
      s.rewind = none ∧ s.landsNow = false ∧ s.waitsForOutcome = false ∧ s.core.offEnd = false ∧
      fetchable s.core.regs.pc.toNat = true ∧ s.runsAhead = false ∧ (∀ x ∈ s.core.lbuf, x.1 ≠ s.core.regs.pc) ∧
      s.imem.key s.core.regs.pc.toNat = some 0 ∧ illegalBundle (s.imem.bundle 0) (s.headerAt s.core.regs.pc.toNat) = none ∧
      (groupScan (s.imem.bundle 0) s.core.group).2 ≠ []) := by
  refine ⟨?_, ?_, ?_⟩ <;> decide +kernel

/-- In the dark: a step that is still served behind one that is not, and none. -/
def dark (l : List Ev) : State := { State.reset with boot := { Boot.reset with power := false }, agenda := l }

theorem witness_StepsGoOnWithPower :
    (dark [.resultLand .main, .powerGood]).boot.power = false ∧
    ((dark [.resultLand .main, .powerGood]).agenda.filter servedAlways).length = 1 ∧
    (dark [.resultLand .main]).agenda.filter servedAlways = [] := by
  refine ⟨?_, ?_, ?_⟩ <;> decide +kernel

/-- Also of CyclesAreCounted. -/
theorem witness_StepKeepsMemoryAndEventOrder :
    (Canonical State.reset ∧ EventsInOrder State.reset ∧ answers (step State.reset) = true) ∧
    (Canonical (main 1) ∧ EventsInOrder (main 1) ∧ answers (step (main 1)) = true) ∧
    (let s := State.reset.liningEvent 8 1; EventsInOrder (s.liningEvent 5 2) ∧ (s.liningEvent 5 2).lin.pend.length = 2) := by
  unfold Canonical EventsInOrder
  refine ⟨?_, ?_, ?_⟩ <;> decide +kernel

theorem witness_BootRegistersMoveForward :
    (answers (exec .powerGood State.reset) = true ∧ answers (exec .nop (main 3)) = true) := by
  decide +kernel

theorem witness_SlotOperationsActThroughTheirResults :
    (∀ n ∈ [(0 : Cl), 1, 2], isEvent .nop = false ∧ isRoutine .nop = false ∧ BeforeLastSlot (main n) ∧
      answers (exec .nop (main n)) = true) := by
  unfold BeforeLastSlot
  decide +kernel

/-- The predicate of every scalar, immediate, bit, comparison, copy and address instruction: p0 always holds. -/
theorem witness_TruePredicate :
    ((main 0).rp 0 = true ∧ (main 3).rp 0 = true ∧ lin.rp 0 = true ∧
      (State_with (main 2) fun r => r.setP 2 7 true).rp 7 = true) ∧
    ((63 : BitVec 6).toNat + (0 : BitVec 6).toNat < 64 ∧ (5 : BitVec 3).toNat < 6 ∧ (15 : BitVec 5).toNat < 16 ∧
      (main 0).ctx = .main) := by
  refine ⟨?_, ?_⟩ <;> decide +kernel

theorem witness_WidenedFields :
    (let s := ({ main 0 with core := { (main 0).core with bundle := { addr := 0, words := Vector.replicate 4 0x02000000, header := none } } } : State);
      s.ctx = .main ∧ isAgreed s.core.bundle.words[0] = false ∧ s.core.slot = 0 ∧
      (s.core.bundle.header.map fun h => h.getLsbD 24) = none) ∧
    (let s := ({ main 0 with core := { (main 0).core with bundle := { addr := 0, words := Vector.replicate 4 0x02000000, header := some 0 } } } : State);
      s.ctx = .main ∧ isAgreed s.core.bundle.words[0] = false ∧ s.core.slot = 0 ∧
      (s.core.bundle.header.map fun h => h.getLsbD 24) = some false) ∧
    (let s := ({ main 0 with core := { (main 0).core with bundle := { addr := 0, words := Vector.replicate 4 0x02000000, header := some 0x01000000 } } } : State);
      s.ctx = .main ∧ isAgreed s.core.bundle.words[0] = false ∧ s.core.slot = 0 ∧
      (s.core.bundle.header.map fun h => h.getLsbD 24) = some true) ∧
    (let s := ({ main 1 with core := { (main 1).core with bundle := { addr := 0, words := Vector.replicate 4 0x02000000, header := none } } } : State);
      s.ctx = .main ∧ isAgreed s.core.bundle.words[0] = false ∧ s.core.slot = 1 ∧
      (s.core.bundle.header.map fun h => h.getLsbD 24) = none) ∧
    (let s := ({ main 1 with core := { (main 1).core with bundle := { addr := 0, words := Vector.replicate 4 0x02000000, header := some 0 } } } : State);
      s.ctx = .main ∧ isAgreed s.core.bundle.words[0] = false ∧ s.core.slot = 1 ∧
      (s.core.bundle.header.map fun h => h.getLsbD 24) = some false) := by
  refine ⟨?_, ?_, ?_, ?_, ?_⟩ <;> decide +kernel

theorem witness_WidenedFields_2 :
    (let s := ({ main 1 with core := { (main 1).core with bundle := { addr := 0, words := Vector.replicate 4 0x02000000, header := some 0x01000000 } } } : State);
      s.ctx = .main ∧ isAgreed s.core.bundle.words[0] = false ∧ s.core.slot = 1 ∧
      (s.core.bundle.header.map fun h => h.getLsbD 24) = some true) ∧
    (let s := ({ main 2 with core := { (main 2).core with bundle := { addr := 0, words := Vector.replicate 4 0x02000000, header := none } } } : State);
      s.ctx = .main ∧ isAgreed s.core.bundle.words[0] = false ∧ s.core.slot = 2 ∧
      (s.core.bundle.header.map fun h => h.getLsbD 24) = none) ∧
    (let s := ({ main 2 with core := { (main 2).core with bundle := { addr := 0, words := Vector.replicate 4 0x02000000, header := some 0 } } } : State);
      s.ctx = .main ∧ isAgreed s.core.bundle.words[0] = false ∧ s.core.slot = 2 ∧
      (s.core.bundle.header.map fun h => h.getLsbD 24) = some false) ∧
    (let s := ({ main 2 with core := { (main 2).core with bundle := { addr := 0, words := Vector.replicate 4 0x02000000, header := some 0x01000000 } } } : State);
      s.ctx = .main ∧ isAgreed s.core.bundle.words[0] = false ∧ s.core.slot = 2 ∧
      (s.core.bundle.header.map fun h => h.getLsbD 24) = some true) ∧
    (let s := ({ main 3 with core := { (main 3).core with bundle := { addr := 0, words := Vector.replicate 4 0x02000000, header := none } } } : State);
      s.ctx = .main ∧ isAgreed s.core.bundle.words[0] = false ∧ s.core.slot = 3 ∧
      (s.core.bundle.header.map fun h => h.getLsbD 24) = none) := by
  refine ⟨?_, ?_, ?_, ?_, ?_⟩ <;> decide +kernel

theorem witness_WidenedFields_3 :
    (let s := ({ main 3 with core := { (main 3).core with bundle := { addr := 0, words := Vector.replicate 4 0x02000000, header := some 0 } } } : State);
      s.ctx = .main ∧ isAgreed s.core.bundle.words[0] = false ∧ s.core.slot = 3 ∧
      (s.core.bundle.header.map fun h => h.getLsbD 24) = some false) ∧
    (let s := ({ main 3 with core := { (main 3).core with bundle := { addr := 0, words := Vector.replicate 4 0x02000000, header := some 0x01000000 } } } : State);
      s.ctx = .main ∧ isAgreed s.core.bundle.words[0] = false ∧ s.core.slot = 3 ∧
      (s.core.bundle.header.map fun h => h.getLsbD 24) = some true) := by
  refine ⟨?_, ?_⟩ <;> decide +kernel

/-- Of the vector statements, the highest and lowest types of each clause. -/
theorem witness_VectorTypes :
    ((2 : BitVec 3).toNat < 3 ∧ (3 : BitVec 3).toNat < 4 ∧ 4 ≤ (4 : BitVec 3).toNat ∧ 4 ≤ (7 : BitVec 3).toNat ∧
      (6 : BitVec 3).toNat < 7 ∧ ((6 : BitVec 3).toNat = 5 ∨ (6 : BitVec 3).toNat = 6) ∧ (7 : BitVec 3).toNat = 7 ∧
      (0 : BitVec 3).toNat < 3) := by
  decide +kernel

theorem witness_FalsePredicateMeansNoEffect :
    ((main 0).rp 7 = false ∧ (main 3).rp 1 = false) := by
  decide +kernel

theorem witness_BranchesAndHalfSwap :
    ((main 0).rp 0 = true ∧ (main 0).ctx = .main ∧ (main 0).core.bundle.addr.toNat = 0) ∧
    (let t : Int := 0 + 16 * (0x11FF : BitVec 21).toInt; 0 ≤ t ∧ t < 0x12000 ∧ t % 16 = 0) ∧
    (let t : Int := 0 + 16 * (0x1200 : BitVec 21).toInt; ¬ (0 ≤ t ∧ t < 0x12000 ∧ t % 16 = 0)) ∧
    (let t : Int := 0 + 16 * (0x1FFFFF : BitVec 21).toInt; ¬ (0 ≤ t ∧ t < 0x12000 ∧ t % 16 = 0)) ∧
    (let t : Int := ((holds (main 0) 1 8).rs 1).toNat; ¬ (0 ≤ t ∧ t < 0x12000 ∧ t % 16 = 0)) := by
  refine ⟨?_, ?_, ?_, ?_, ?_⟩ <;> decide +kernel

theorem witness_BranchesAndHalfSwap_2 :
    (let s := holds (main 0) 1 0x11FF0; (s.rs 1).toNat < 0x12000 ∧ (s.rs 1).toNat % 16 = 0 ∧
      ¬ (s.core.loose ≠ [] ∨ ∃ l ∈ s.core.regs.loops.toList, l.valid = true ∧ l.start.toNat < 0x1000)) ∧
    (let s := withLoop (holds (main 0) 1 0x11FF0) 0 ⟨true, 0xFFF, 0xFFF, 0, 0⟩; (s.rs 1).toNat < 0x12000 ∧
      (s.rs 1).toNat % 16 = 0 ∧ (s.core.loose ≠ [] ∨ ∃ l ∈ s.core.regs.loops.toList, l.valid = true ∧ l.start.toNat < 0x1000)) ∧
    (let s := holds (main 0) 1 0x12000; ¬ ((s.rs 1).toNat < 0x12000 ∧ (s.rs 1).toNat % 16 = 0) ∧
      ¬ (s.core.loose ≠ [] ∨ ∃ l ∈ s.core.regs.loops.toList, l.valid = true ∧ l.start.toNat < 0x1000)) := by
  refine ⟨?_, ?_, ?_⟩ <;> decide +kernel

theorem witness_LoopsOpenAndBreak :
    ((main 0).ctx = .main ∧ (main 0).core.iss.trap = none ∧ (main 0).core.regs.depth = 0 ∧
      16 * (1 : BitVec 15).toNat < 0x10000 ∧ ((main 0).rs 0).toNat % 2 ^ 32 = 0) ∧
    (let s := (withLoop (withLoop (withLoop (withLoop (withLoop (withLoop (main 0) 0 ⟨true, 1, 9, 0, 0⟩) 1 ⟨true, 1, 9, 0, 0⟩) 2 ⟨true, 1, 9, 0, 0⟩) 3 ⟨true, 1, 9, 0, 0⟩) 4 ⟨true, 1, 9, 0, 0⟩) 5 ⟨true, 1, 9, 0, 0⟩);
      s.core.regs.depth = 6 ∧ 16 * (9 : BitVec 10).toNat / 16 ≤ (s.core.regs.loop 5).stop.toNat ∧ (1 : BitVec 10).toNat ≠ 0 ∧
      s.core.iss.trap = none) ∧
    (let s := withLoop (main 0) 0 ⟨true, 1, 9, 0, 0⟩; s.core.regs.depth = 1 ∧ s.core.regs.depth < 6 ∧
      (s.core.regs.loop 0).stop.toNat < 16 * (10 : BitVec 10).toNat / 16) ∧
    (¬ (0 + 16 * (0x1000 : BitVec 15).toNat < 0x10000)) := by
  refine ⟨?_, ?_, ?_, ?_⟩ <;> decide +kernel

/-- The outermost and the innermost level. -/
theorem witness_LoopIndexIsRead :
    ((0 : BitVec 3).toNat < 6 ∧ (5 : BitVec 3).toNat < 6) := by
  decide +kernel

theorem witness_FillersAndMarks :
    ((main 0).pendingResult = none ∧
      ({ main 0 with core := { (main 0).core with flights := [flight (.s 1 5) 9 false] } } : State).pendingResult = some (flight (.s 1 5) 9 false)) := by
  decide +kernel

theorem witness_ChecksTrapsAndStops :
    ((main 0).rp 0 = true ∧ (main 0).ctx = .main ∧ (main 0).core.iss.soft = none ∧ lin.ctx = .lining ∧ lin.rp 0 = true) := by
  decide +kernel

theorem witness_BundlesCommitAndFlow :
    (LastSlotClean (main 3) ∧ (main 3).core.iss.flow = .none ∧ (main 3).core.iss.tack = none ∧ (main 3).core.iss.stop = none ∧
      (main 3).core.iss.soft = none ∧ (main 3).core.iss.agree = none ∧ (main 3).core.iss.notch = none ∧
      (main 3).core.iss.seam = none ∧ (main 3).core.regs.depth = 0) ∧
    (let s := withIss (main 3) fun i => { i with flow := .jump 0x11FF0 }; LastSlotClean s ∧ s.core.iss.flow = .jump 0x11FF0 ∧
      s.core.iss.tack = none ∧ s.core.iss.stop = none ∧ s.core.iss.soft = none ∧ s.core.iss.agree = none ∧
      s.core.iss.notch = none ∧ s.core.iss.seam = none) ∧
    (let s := withIss (main 3) fun i => { i with flow := .bswap 0 }; LastSlotClean s ∧ s.core.iss.flow = .bswap 0 ∧
      s.core.iss.tack = none ∧ s.core.iss.stop = none ∧ s.core.iss.soft = none ∧ s.core.iss.agree = none ∧
      s.core.iss.notch = none ∧ s.core.iss.seam = none) ∧
    (let s := withIss (main 3) fun i => { i with flow := .openLoop 1 0 }; LastSlotClean s ∧ s.core.iss.flow = .openLoop 1 0 ∧
      s.core.iss.tack = none ∧ s.core.iss.stop = none ∧ s.core.iss.soft = none ∧ s.core.iss.agree = none ∧
      s.core.iss.notch = none ∧ s.core.iss.seam = none) ∧
    (let s := withLoop (main 3) 0 ⟨true, 0, 0, 5, 1⟩; LastSlotClean s ∧ s.core.iss.flow = .none ∧ s.core.iss.tack = none ∧
      s.core.iss.stop = none ∧ s.core.iss.soft = none ∧ s.core.iss.agree = none ∧ s.core.iss.notch = none ∧
      s.core.iss.seam = none ∧ s.core.regs.depth = 0 + 1 ∧ (s.core.regs.loop 0).valid = true ∧
      (s.core.regs.loop 0).stop.toNat = 0 ∧ (s.core.regs.loop 0).count ≠ 0) := by
  unfold LastSlotClean
  refine ⟨?_, ?_, ?_, ?_, ?_⟩ <;> decide +kernel

theorem witness_BundlesCommitAndFlow_2 :
    (let s := withLoop (main 3) 0 ⟨true, 0, 0, 0, 1⟩; LastSlotClean s ∧ s.core.iss.flow = .none ∧ s.core.iss.tack = none ∧
      s.core.iss.stop = none ∧ s.core.iss.soft = none ∧ s.core.iss.agree = none ∧ s.core.iss.notch = none ∧
      s.core.iss.seam = none ∧ s.core.regs.depth = 0 + 1 ∧ (s.core.regs.loop 0).valid = true ∧
      (s.core.regs.loop 0).stop.toNat = 0 ∧ (s.core.regs.loop 0).count = 0) ∧
    (let s := withLoop (main 3) 0 ⟨true, 0, 7, 0, 1⟩; LastSlotClean s ∧ s.core.iss.flow = .none ∧ s.core.iss.tack = none ∧
      s.core.iss.stop = none ∧ s.core.iss.soft = none ∧ s.core.iss.agree = none ∧ s.core.iss.notch = none ∧
      s.core.iss.seam = none ∧ s.core.regs.depth = 0 + 1 ∧ (s.core.regs.loop 0).stop.toNat ≠ 0) ∧
    (let s := withIss (withLoop (main 3) 0 ⟨true, 0, 7, 0, 1⟩) fun i => { i with flow := .lbrk }; LastSlotClean s ∧
      s.core.iss.tack = none ∧ s.core.iss.stop = none ∧ s.core.iss.soft = none ∧ s.core.iss.agree = none ∧
      s.core.iss.notch = none ∧ s.core.iss.seam = none ∧ s.core.regs.depth = 0 + 1 ∧ s.core.iss.flow = .lbrk) := by
  unfold LastSlotClean
  refine ⟨?_, ?_, ?_⟩ <;> decide +kernel

theorem witness_TackCommitsAndOpensPanel :
    (let s := { withIss (withPanel (main 3) false 1) (fun i => { i with tack := some Regs.reset }) with save := { Core.reset with nextId := 8 } };
      let t : State := { s with core := { s.core with copyQ := [cmd (.mzero 0) true []] } }; LastSlotClean t ∧
      t.core.iss.tack = some Regs.reset ∧ t.core.iss.stop = none ∧ t.core.iss.soft = none ∧ t.core.iss.agree = none ∧
      t.core.iss.notch = none ∧ t.core.iss.seam = none ∧ (t.core.panel.map fun p => p.replay) = some false ∧
      t.running = [] ∧ t.arriving = [] ∧ t.lin.stores = [] ∧ t.core.flights = [] ∧ t.core.iss.performs = [] ∧ ∀ c ∈ t.core.queued, c.id < t.save.nextId) := by
  unfold LastSlotClean
  decide +kernel

theorem witness_HeldBundleChangesNothing :
    (let s := withIss (main 3) fun i => { i with hold := some 1 }; s.ctx = .main ∧ s.core.slot = 3 ∧ s.core.iss.hold = some 1 ∧
      s.liningReady = false) ∧
    (let s := withIss (main 3) fun i => { i with hold := some 4 }; s.ctx = .main ∧ s.core.slot = 3 ∧ s.core.iss.hold = some 4 ∧
      s.liningReady = false) ∧
    (let s := withIss (main 3) fun i => { i with hold := some 7 }; s.ctx = .main ∧ s.core.slot = 3 ∧ s.core.iss.hold = some 7 ∧
      s.liningReady = false) := by
  refine ⟨?_, ?_, ?_⟩ <;> decide +kernel

theorem witness_TrapsAreTaken :
    (let s := withIss (main 3) fun i => { i with trap := some { cause := 255, smask := 1, reason := 7, code := 0, detail := 0 } };
      s.ctx = .main ∧ s.core.slot = 3 ∧ s.core.iss.hold = none ∧ s.sys.engine = none ∧ overflowTrap s = none ∧
      s.liningReady = false ∧ s.runsAhead = false ∧ s.sys.inject.getLsbD 63 = false ∧
      s.core.iss.trap = some { cause := 255, smask := 1, reason := 7, code := 0, detail := 0 } ∧ s.core.iss.trigger = none ∧
      255 < 256 ∧ 7 < 8) := by
  decide +kernel

theorem witness_TriggersRollBackOrTrap :
    (let s := withIss (main 3) fun i => { i with trigger := some { cause := 1, smask := 1, slot := 0, lane := 0, exp := 0, obs := 0, word := 0, baddr := 0, addr := 0, detail := 0, info := 0, iss := 0, lost := [], lines := [] } };
      let u : State := { s with found := (withPanel (main 3) false 1).core }; u.ctx = .main ∧ u.core.slot = 3 ∧
      u.core.iss.hold = none ∧ u.sys.engine = none ∧ overflowTrap u = none ∧ u.liningReady = false ∧ u.runsAhead = false ∧
      u.sys.inject.getLsbD 63 = false ∧ u.core.iss.trap = none ∧
      u.core.iss.trigger = some { cause := 1, smask := 1, slot := 0, lane := 0, exp := 0, obs := 0, word := 0, baddr := 0, addr := 0, detail := 0, info := 0, iss := 0, lost := [], lines := [] } ∧
      (u.found.panel.map fun p => (p.irrev, p.retry)) = some (false, 1)) ∧
    (let s := withIss (main 3) fun i => { i with trigger := some { cause := 2, smask := 1, slot := 0, lane := 0, exp := 0, obs := 0, word := 0, baddr := 0, addr := 0, detail := 0, info := 0, iss := 0, lost := [], lines := [] } };
      let u : State := { s with found := (withPanel (main 3) false 2).core }; u.ctx = .main ∧ u.core.slot = 3 ∧
      u.core.iss.hold = none ∧ u.sys.engine = none ∧ overflowTrap u = none ∧ u.liningReady = false ∧ u.runsAhead = false ∧
      u.sys.inject.getLsbD 63 = false ∧ u.core.iss.trap = none ∧
      u.core.iss.trigger = some { cause := 2, smask := 1, slot := 0, lane := 0, exp := 0, obs := 0, word := 0, baddr := 0, addr := 0, detail := 0, info := 0, iss := 0, lost := [], lines := [] } ∧
      (u.found.panel.map fun p => (p.irrev, p.retry)) = some (false, 2)) ∧
    (let s := withIss (main 3) fun i => { i with trigger := some { cause := 4, smask := 1, slot := 0, lane := 0, exp := 0, obs := 0, word := 0, baddr := 0, addr := 0, detail := 0, info := 0, iss := 0, lost := [], lines := [] } };
      let u : State := { s with found := (withPanel (main 3) false 2).core }; u.ctx = .main ∧ u.core.slot = 3 ∧
      u.core.iss.hold = none ∧ u.sys.engine = none ∧ overflowTrap u = none ∧ u.liningReady = false ∧ u.runsAhead = false ∧
      u.sys.inject.getLsbD 63 = false ∧ u.core.iss.trap = none ∧
      u.core.iss.trigger = some { cause := 4, smask := 1, slot := 0, lane := 0, exp := 0, obs := 0, word := 0, baddr := 0, addr := 0, detail := 0, info := 0, iss := 0, lost := [], lines := [] } ∧
      (u.found.panel.map fun p => (p.irrev, p.retry)) = some (false, 2)) ∧
    (let s := withIss (main 3) fun i => { i with trigger := some { cause := 1, smask := 1, slot := 0, lane := 0, exp := 0, obs := 0, word := 0, baddr := 0, addr := 0, detail := 0, info := 0, iss := 0, lost := [], lines := [] } };
      let u : State := { s with found := (withPanel (main 3) true 0).core }; u.ctx = .main ∧ u.core.slot = 3 ∧
      u.core.iss.hold = none ∧ u.sys.engine = none ∧ overflowTrap u = none ∧ u.liningReady = false ∧ u.runsAhead = false ∧
      u.sys.inject.getLsbD 63 = false ∧ u.core.iss.trap = none ∧
      u.core.iss.trigger = some { cause := 1, smask := 1, slot := 0, lane := 0, exp := 0, obs := 0, word := 0, baddr := 0, addr := 0, detail := 0, info := 0, iss := 0, lost := [], lines := [] } ∧
      (u.found.panel.map fun p => (p.irrev, p.retry)) = some (true, 0)) := by
  refine ⟨?_, ?_, ?_, ?_⟩ <;> decide +kernel

theorem witness_StopsAtTheEndOfABundle :
    (let s := withIss (main 3) fun i => { i with stop := some .halt }; LastSlotClean s ∧ s.core.iss.stop = some .halt ∧
      s.core.regs.depth = 0 ∧ s.core.iss.flow = .none ∧ s.core.iss.tack = none ∧ s.core.iss.soft = none ∧
      s.core.iss.agree = none ∧ s.core.iss.notch = none ∧ s.core.iss.seam = none) ∧
    (let s := withIss (main 3) fun i => { i with stop := some .idle }; LastSlotClean s ∧ s.core.iss.stop = some .idle ∧
      s.core.regs.depth = 0 ∧ s.core.iss.flow = .none ∧ s.core.iss.tack = none ∧ s.core.iss.soft = none ∧
      s.core.iss.agree = none ∧ s.core.iss.notch = none ∧ s.core.iss.seam = none) ∧
    (let s := withIss (main 3) fun i => { i with soft := some (1, 1023) }; LastSlotClean s ∧ s.core.iss.soft = some (1, 1023) ∧
      s.core.regs.depth = 0 ∧ s.core.iss.flow = .none ∧ s.core.iss.tack = none ∧ s.core.iss.stop = none ∧
      s.core.iss.agree = none ∧ s.core.iss.notch = none ∧ s.core.iss.seam = none) := by
  unfold LastSlotClean
  refine ⟨?_, ?_, ?_⟩ <;> decide +kernel

theorem witness_SystemAndLiningRegisters :
    ((main 0).rp 0 = true ∧ lin.rp 0 = true ∧ (main 0).ctx = .main ∧ ¬ lin.ctx = .main ∧ lin.status = .trapped) ∧
    ((31 : Dword).toNat / 2 ^ 5 % 2 ^ 27 = 0 ∧ (27 : Dword).extractLsb' 7 25 = 0 ∧ (27 : Dword).extractLsb' 3 3 = 3 ∧
      (27 : Dword).extractLsb' 0 3 = 3) ∧
    ((1 : Dword).extractLsb' 7 25 = 0 ∧ (1 : Dword).toNat / 2 ^ 3 % 2 ^ 3 = 0 ∧ (1 : Dword).extractLsb' 0 3 = 1 ∧
      (9 : Dword).extractLsb' 3 3 = 1) ∧
    ((0x1FFFFF : Dword).toNat / 2 ^ 21 % 2 ^ 7 = 0 ∧ (0x1FFFF : Dword).toNat / 2 ^ 17 % 2 ^ 22 = 0 ∧
      (0xFFFFFFFF : Dword).toNat / 2 ^ 32 % 2 ^ 1 = 0) ∧
    ((0x1FFFF : Dword).toNat / 2 ^ 49 % 2 ^ 15 = 0 ∧ (0x1FFFF : Dword).toNat / 2 ^ 17 % 2 ^ 15 = 0 ∧
      (0xFFFFFFFFFFFF : Dword).toNat / 2 ^ 48 % 2 ^ 3 = 0 ∧ (0xFFFFFFFFFFFF : Dword).toNat / 2 ^ 48 % 2 ^ 6 = 0) := by
  refine ⟨?_, ?_, ?_, ?_, ?_⟩ <;> decide +kernel

theorem witness_SystemAndLiningRegisters_2 :
    (injectLegal 0x0100000000000000 = true ∧ sysLegal 0 27 = true ∧ injectLegal 0 = false) ∧
    (let s := { withSys lin (fun y => { y with trapinfo0 := 0x0300000000011FF0, trapinfo1 := 0 }) with status := .trapped };
      s.ctx = .lining ∧ s.status = .trapped ∧ s.sys.trapinfo0.toNat % 2 ^ 17 < 0x12000 ∧
      s.sys.trapinfo0.toNat % 2 ^ 17 % 16 = 0) ∧
    (let s := { withSys lin (fun y => { y with trapinfo0 := 0x0300000000011FE0, trapinfo1 := 0 }) with status := .trapped };
      s.ctx = .lining ∧ s.status = .trapped ∧ s.sys.trapinfo0.toNat / 2 ^ 56 ≠ 6 ∧
      s.sys.trapinfo0.toNat % 2 ^ 17 + 16 < 0x12000 ∧ s.sys.trapinfo0.toNat % 2 ^ 17 % 16 = 0) ∧
    (let s := { withSys lin (fun y => { y with trapinfo0 := 0x0600000000000000, trapinfo1 := 0x11FF0 }) with status := .trapped };
      s.ctx = .lining ∧ s.status = .trapped ∧ s.sys.trapinfo0.toNat / 2 ^ 56 = 6 ∧ s.sys.trapinfo1.toNat < 0x12000 ∧
      s.sys.trapinfo1.toNat % 16 = 0) ∧
    (let s := { withSys lin (fun y => { y with trapinfo0 := 0, trapinfo1 := 0 }) with status := .idle }; s.ctx = .lining ∧
      s.status = .idle ∧ (1 : BitVec 10).toNat < 2 ∧ s.core.regs.pc.toNat < 0x12000 ∧ s.core.regs.pc.toNat % 16 = 0) := by
  refine ⟨?_, ?_, ?_, ?_, ?_⟩ <;> decide +kernel

theorem witness_SystemAndLiningRegisters_3 :
    (let s := { withSys lin (fun y => { y with trapinfo0 := 0, trapinfo1 := 0 }) with status := .held }; s.ctx = .lining ∧
      s.status = .held ∧ s.status ≠ .trapped ∧ s.status ≠ .idle) ∧
    ((withPanel lin false 0).core.panel.isSome = true ∧ (withPanel lin false 0).ctx = .lining ∧
      (withPanel lin false 0).status = .trapped) := by
  refine ⟨?_, ?_⟩ <;> decide +kernel

theorem witness_AgreementNotchAndSeam :
    (let s := headed (inGroup 0 alone) 0; s.ctx = .main ∧ s.core.bundle.header = some 0 ∧
      (0 : Word).extractLsb' 14 10 ≠ (1023 : BitVec 10) ∧ (s.core.regs.rg 1).v = true ∧
      (s.core.regs.rg 1).ops.getLsbD (5 : BitVec 3).toNat = true ∧ s.pendingResult = none ∧
      (0 : Int) + 16 * ((0 : Word).extractLsb' 0 14 : BitVec 14).toInt < 0x12000) ∧
    (((main 0).core.regs.rg 1).v = false ∧ (main 0).ctx = .main) ∧
    ((0x3FFFFFF : Dword).toNat < 2 ^ 26 ∧ ((0x2FFFFFF : Dword).getLsbD 24 = false ∧ (0x2FFFFFF : Dword).getLsbD 25 = true) ∧
      ((0x1FFFFFF : Dword).getLsbD 25 = false ∧ (0x1FFFFFF : Dword).getLsbD 24 = true) ∧
      ((0xFFFFFF : Dword).getLsbD 25 = false ∧ (0xFFFFFF : Dword).getLsbD 24 = false) ∧ 2 ^ 26 ≤ (0x4000000 : Dword).toNat) ∧
    (¬ ∃ h ∈ (main 0).sys.holds, h.carried.toNat < (1 : BitVec 16).toNat ∧ h.passed.toNat < (1 : BitVec 16).toNat) ∧
    (let s := withSys (main 0) fun y => { y with holds := [⟨1, 0, 0⟩] };
      (∃ h ∈ s.sys.holds, h.carried.toNat < (1 : BitVec 16).toNat ∧ h.passed.toNat < (1 : BitVec 16).toNat) ∧
      s.waitHere 2 = none) := by
  refine ⟨?_, ?_, ?_, ?_, ?_⟩ <;> decide +kernel

theorem witness_AgreementNotchAndSeam_2 :
    (let s := withSys (waiting 2 true) fun y => { y with holds := [⟨1, 0, 0⟩] };
      (∃ h ∈ s.sys.holds, h.carried.toNat < (1 : BitVec 16).toNat ∧ h.passed.toNat < (1 : BitVec 16).toNat) ∧
      s.waitHere 2 = some (wait 2 true) ∧ (wait 2 true).expired = true) ∧
    (let s := withSys (waiting 2 false) fun y => { y with holds := [⟨1, 0, 0⟩] };
      (∃ h ∈ s.sys.holds, h.carried.toNat < (1 : BitVec 16).toNat ∧ h.passed.toNat < (1 : BitVec 16).toNat) ∧
      s.waitHere 2 = some (wait 2 false) ∧ (wait 2 false).expired = false) ∧
    ((main 0).sys.seamreq.getLsbD 63 = false) ∧
    (let s := withSys (main 0) fun y => { y with seams := [BitVec.ofNat 128 (5 * 2 ^ 32)], seamreq := 0xC000000000000006 };
      s.sys.seamreq.getLsbD 63 = true ∧ s.sys.seamreq.getLsbD 62 = true ∧
      (s.seamNumber 0).toNat < s.sys.seamreq.toNat % 2 ^ 32) ∧
    (let s := withSys (main 0) fun y => { y with seams := [BitVec.ofNat 128 (5 * 2 ^ 32)], seamreq := 0xC000000000000005 };
      s.sys.seamreq.getLsbD 63 = true ∧ s.sys.seamreq.getLsbD 62 = true ∧
      s.sys.seamreq.toNat % 2 ^ 32 ≤ (s.seamNumber 0).toNat) := by
  refine ⟨?_, ?_, ?_, ?_, ?_⟩ <;> decide +kernel

theorem witness_ScalarAccesses :
    (Reaches (own 3 0xFFF8) 1 ((own 3 0xFFF8).rh 1) [0xFFF8] 8 8 [.r] .read ∧
      ((own 3 0xFFF8).ra 1 + (own 3 0xFFF8).signedField (0 : BitVec 9) * BitVec.ofNat 64 8).toNat = 0xFFF8) ∧
    (Reaches (own 3 0xFFFF) 1 ((own 3 0xFFFF).rh 1) [0xFFFF] 1 1 [.w] .store ∧ (handle 2 0).region ≠ 3) ∧
    (Reaches (mcast 0xFFF8) 1 ((mcast 0xFFF8).rh 1) [0xFFF8] 8 8 [.m] .store ∧ (handle 3 0).region = 3 ∧
      (mcast 0).runsAhead = false) ∧
    (((main 0).rh 1).valid = false) ∧
    (let s := withHandle (main 0) (handle 0 0); (s.rh 1).valid = true ∧ s.kindAllowed 1 (s.rh 1) .read false = false) := by
  simp only [reaches_iff]
  refine ⟨?_, ?_, ?_, ?_, ?_⟩ <;> decide +kernel

theorem witness_ScalarAccesses_2 :
    (let s := own 3 0xFFF9; (s.rh 1).valid = true ∧ s.kindAllowed 1 (s.rh 1) .read false = true ∧ spanSize (s.rh 1).ps < 0xFFF9 + 8) ∧
    (let s := withHandle (main 0) { handle 2 0 with rwam := 7 }; (s.rh 1).valid = true ∧ s.kindAllowed 1 (s.rh 1) .read false = true ∧
      0 + 8 ≤ spanSize (s.rh 1).ps ∧ (s.rh 1).allows .r = false) ∧
    (let s := own 3 0xFFF4; (s.rh 1).valid = true ∧ s.kindAllowed 1 (s.rh 1) .read false = true ∧ 0xFFF4 + 8 ≤ spanSize (s.rh 1).ps ∧
      (s.rh 1).allows .r = true ∧ 0xFFF4 % 8 ≠ 0) := by
  refine ⟨?_, ?_, ?_⟩ <;> decide +kernel

/-- Every access form, with every lane on; the mask forms at the end of the page. -/
theorem witness_VectorLoadsAndStores :
    ((2 : BitVec 2).toNat < 3 ∧
      ∀ i ∈ [(Perm.r, AccessKind.read), (.w, .store)], Reaches (own 3 0xF800) 1 ((own 3 0xF800).rh 1) [0xF800] 2048 64 [i.1] i.2) ∧
    (Reaches (mcast 0xF800) 1 ((mcast 0xF800).rh 1) [0xF800] 2048 64 [.m] .store) ∧
    (let s := own 3 0;
      let stride := fun (j : Nat) => (BitVec.ofNat 64 ((s.rs 0).toNat % 2 ^ 32) + BitVec.ofNat 64 j * ((s.rs 0).extractLsb' 32 32).signExtend 64).toNat;
      (∀ o ∈ (lanesOf 2048 (s.rm 0)).map stride, o = 0) ∧ (lanesOf 2048 (s.rm 0)).length = 2048) ∧
    (let s := own 3 0; (∀ o ∈ (lanesOf 512 (s.rm 0)).map fun j => element 32 j (s.rv 0), o = 0) ∧
      (lanesOf 512 (s.rm 0)).length = 512) ∧
    (∀ i ∈ [(Perm.r, AccessKind.read), (.w, .store)], Reaches (own 3 0) 1 ((own 3 0).rh 1) [0] 4 4 [i.1] i.2 ∧
      Reaches (own 3 0) 1 ((own 3 0).rh 1) [0xFF00] 256 64 [i.1] i.2) := by
  simp only [reaches_iff]
  refine ⟨?_, ?_, ?_, ?_, ?_⟩ <;> decide +kernel

theorem witness_LocalAtomics :
    (Reaches (own 3 0xFFF8) 1 ((own 3 0xFFF8).rh 1) [0xFFF8] 8 8 [.a] .atomic ∧
      Reaches (own 3 0) 1 ((own 3 0).rh 1) [0xFFFC] 4 4 [.a] .atomic ∧ (8 : BitVec 4).toNat < 9 ∧ (own 3 0).gatesLine [0] = false ∧
      (own 3 0).ctx = .main) ∧
    (let s : State := { withA (withHandle (main 3) { handle 2 0 with cls := 2 }) 128 with mem := ⟨[(2 ^ 49 + 4, 128)], [], []⟩ };
      facCellExists s.markLive.performed.mem (s.rh 1).pbase.toNat (spanSize (s.rh 1).ps) (s.rh 1).cls 128 = true ∧
      Reaches s 1 (s.rh 1) [128] 16 16 [.a] .atomic ∧ Reaches s 1 (s.rh 1) [128] 16 16 [.r] .atomic) ∧
    ((9 : BitVec 4).toNat < 10) ∧
    (let p : AtomicOp := { minor := 0, wide := true, addr := 0x40, off := 0, opnd := 1, cmp := 0 };
      let f := flight (.atomic 3 p) 0 false; let t : State := { main 0 with mem := ⟨[], [1], []⟩ };
      f.land = .atomic 3 p ∧ f.raw = none ∧ ¬ (f.upset = .poison ∨ ∃ x ∈ atomicLines (main 0).performed.mem p, x ∈ (main 0).performed.mem.poison) ∧
      ({ f with upset := .poison } : Flight).upset = .poison ∧ ∃ x ∈ atomicLines t.performed.mem p, x ∈ t.performed.mem.poison) := by
  simp only [reaches_iff]
  refine ⟨?_, ?_, ?_, ?_⟩ <;> decide +kernel

theorem witness_HandleDrainAndInstructionWrites :
    (let s : State := { main 0 with xlate := ⟨[leaf], [], [], 0⟩ }; (s.rs 0).toNat < 2 ^ 57 ∧
      smallest ((s.xlate.core ++ s.xlate.die).filter fun l => l.covers s.id.part (s.rs 0).toNat) = some leaf ∧
      regionOf leaf.pbase.toNat ≠ 3) ∧
    (let s := main 0; (s.rs 0).toNat < 2 ^ 57 ∧
      ((s.xlate.core ++ s.xlate.die).filter fun l => l.covers s.id.part (s.rs 0).toNat) = [] ∧ s.walkFaulted (s.rs 0) = false) ∧
    (2 ^ 57 ≤ ((holds (main 0) 1 0x200000000000000).rs 1).toNat) ∧
    ((main 0).rp 0 = true ∧
      ((withA (main 0) 0x11FFC).ra 1 + (withA (main 0) 0x11FFC).signedField (0 : BitVec 9) * 4).toNat = 0x11FFC ∧
      0x11FFC % 4 = 0 ∧ 0x11FFC < 0x12000) ∧
    (((withA (main 0) 0x12000).ra 1 + (withA (main 0) 0x12000).signedField (0 : BitVec 9) * 4).toNat = 0x12000 ∧
      0x12000 ≤ 0x12000 ∧
      ((withA (main 0) 0xFFFE).ra 1 + (withA (main 0) 0xFFFE).signedField (0 : BitVec 9) * 4).toNat = 0xFFFE ∧ 0xFFFE % 4 ≠ 0) := by
  refine ⟨?_, ?_, ?_, ?_, ?_⟩ <;> decide +kernel

/-- The last place of a tile, and one beyond it. -/
theorem witness_TileAndRingResults :
    ((main 0).rb 255 = false ∧ (main 0).wb 255 = false ∧ ((main 0).core.regs.rt 255).state = 0 ∧
      (withTile (main 0) 255 (square 2 0)).rb 255 = false ∧ ((withTile (main 0) 255 (square 2 0)).core.regs.rt 255).state = 2) ∧
    (let v : Dword := BitVec.ofNat 64 (127 * 2 ^ 52 + 127 * 2 ^ 45 + 0x1F0000); let t := v.extractLsb' 59 3;
      let foot := (if t = 0 ∨ t = 4 ∨ t = 7 then 4 else if t = 3 ∨ t = 6 then 1 else 2) * ((v.extractLsb' 52 7).toNat + 1) * ((v.extractLsb' 45 7).toNat + 1);
      v.toNat / 2 ^ 62 = 0 ∧ v.extractLsb' 21 24 = 0 ∧ (v.extractLsb' 0 21).toNat % 64 = 0 ∧ foot % 64 = 0 ∧
      (v.extractLsb' 0 21).toNat + foot ≤ 0x200000) ∧
    (let v : Dword := BitVec.ofNat 64 (127 * 2 ^ 52 + 127 * 2 ^ 45 + 0x1F0040); let t := v.extractLsb' 59 3;
      let foot := (if t = 0 ∨ t = 4 ∨ t = 7 then 4 else if t = 3 ∨ t = 6 then 1 else 2) * ((v.extractLsb' 52 7).toNat + 1) * ((v.extractLsb' 45 7).toNat + 1);
      ¬ ((v.extractLsb' 0 21).toNat + foot ≤ 0x200000)) ∧
    (let q : RingEntry := { base := 248, lenM1 := 7, head := 0, tail := 0 }; (main 0).core.regs.ringLegal q = true ∧
      ∀ t ∈ q.tiles, (main 0).rb t = false ∧ (main 0).wb t = false) ∧
    (let q : RingEntry := { base := 249, lenM1 := 7, head := 0, tail := 0 }; ¬ (main 0).core.regs.ringLegal q = true) := by
  refine ⟨?_, ?_, ?_, ?_, ?_⟩ <;> decide +kernel

theorem witness_TileAndRingResults_2 :
    (let s := withTile (main 0) 0 (square 2 1); let q := s.core.regs.rq 7; (s.tile (q.base.toNat + q.head.toNat)).state = 2 ∧
      s.wb (q.base.toNat + q.head.toNat) = false) := by
  decide +kernel

theorem witness_MatrixAndTransposer :
    (let s := withTile (withTile (main 2) 5 (square 2 1)) 6 (square 2 1); BeforeLastSlot s ∧
      s.core.matrixQ.length < queueDepth .matrix ∧ ReadsTile s 5 5 ∧ (s.tile 5).rowsM1 = 127 ∧ (s.tile 5).colsM1 = 127 ∧
      (s.tile 5).type = s.core.regs.fmt.extractLsb' 0 3 ∧ ReadsTile (afterRead s 5) 6 6 ∧
      (s.tile 5).base.toNat + (s.tile 5).footprint + 512 ≤ 0x200000) ∧
    (let s := withTile (withTile (State_with (main 2) fun r => { r.wq 7 ⟨5, 1, 0, 1⟩ with fmt := 1 }) 5 (square 2 1)) 6 (square 2 1);
      ReadsTile s 255 5 ∧ ReadsTile (afterRead s 255) 255 6) ∧
    (let s := withTile (main 2) 5 (square 0 0); WritesTile s 5 5 ∧ (s.tile 5).type = s.core.regs.fmt.extractLsb' 3 3 ∧
      (s.tile 5).rowsM1 = 127 ∧ s.core.spool.length < 16) ∧
    (let s := withTile (main 2) 5 (square 2 0); ReadsTile s 5 5 ∧ (s.tile 5).type = 0 ∧ BeforeLastSlot s) ∧
    ((124 : BitVec 7).toNat % (128 / 32) = 0 ∧ (125 : BitVec 7).toNat % (128 / 32) ≠ 0) := by
  unfold BeforeLastSlot
  simp only [ReadsTile, WritesTile]
  refine ⟨?_, ?_, ?_, ?_, ?_⟩ <;> decide +kernel

theorem witness_MatrixAndTransposer_2 :
    (let s := State_with (withTile (main 3) 255 (square 0 0)) fun r => { r with xwidth := 32 }; let e := s.core.regs.rt 255;
      e.state = 0 ∧ s.rb 255 = false ∧ s.wb 255 = false ∧ e.rowsM1 = 127 ∧ e.colsM1 = 127 ∧
      typeWidth e.type = s.core.regs.xwidth.toNat) ∧
    (let s := State_with (withTile (main 3) 255 (square 2 0)) fun r => { r with xwidth := 32 }; let e := s.core.regs.rt 255;
      e.state = 2 ∧ s.rb 255 = false ∧ s.wb 255 = false ∧ e.rowsM1 = 127 ∧ e.colsM1 = 127 ∧
      typeWidth e.type = s.core.regs.xwidth.toNat) := by
  refine ⟨?_, ?_⟩ <;> decide +kernel

theorem witness_CopyAndShuttleCommandsAreQueued :
    (let s := withTile (own 2 0) 5 (square 0 0); BeforeLastSlot s ∧ s.core.copyQ.length < queueDepth .copy ∧ WritesTile s 5 5 ∧
      (s.rh 1).valid = true ∧ (s.rh 1).allows .r = true ∧ 0 + (s.tile 5).footprint ≤ spanSize (s.rh 1).ps ∧
      engineRegion (s.rh 1).pbase.toNat = true) ∧
    (Reaches (own 2 0xFF40) 1 ((own 2 0xFF40).rh 1) [0xFF40] 192 64 [.r, .w] .command ∧
      (own 2 0).isOwnScratch ((own 2 0).rh 1) = true) ∧
    (let s := withTile (own 2 8) 5 (square 2 0); s.core.shuttleQ.length < queueDepth .shuttle ∧ ReadsTile s 5 5 ∧
      (s.ra 1).toNat % 8 = 0) ∧
    ((spooled (main 2)).core.spool.filter (fun x => x.claimed.isNone) ≠ []) ∧
    (let s := spooled (withTile (inGroup 2 alone) 5 (square 0 0)); s.collGroup 1 = some alone ∧ WritesTile s 5 5 ∧
      s.floatTarget 5 = true ∧ s.core.spool.filter (fun x => x.claimed.isNone) ≠ [] ∧
      alone.owner (s.plainField (0 : BitVec 2)).1 = (s.core.regs.rg 1).rank.toNat) := by
  unfold BeforeLastSlot
  simp only [ReadsTile, WritesTile, reaches_iff]
  refine ⟨?_, ?_, ?_, ?_, ?_⟩ <;> decide +kernel

theorem witness_CopyAndShuttleCommandsAreQueued_2 :
    (let s := spooled (withTile (inGroup 2 pair) 5 (square 0 0)); s.collGroup 1 = some pair ∧ s.floatTarget 5 = true ∧
      pair.owner (s.plainField (1 : BitVec 2)).1 ≠ (s.core.regs.rg 1).rank.toNat ∧
      (s.plainField (1 : BitVec 2)).1 < pair.members.length ∧ (s.core.regs.rg 1).rank.toNat ≠ (s.plainField (1 : BitVec 2)).1) ∧
    (let s := withTile (inGroup 2 pair) 246 (square 2 0); (246 : BitVec 8).toNat + pair.members.length ≤ 248 ∧
      (∀ n ∈ [246], (s.tile n).state = 2 ∧ s.wb n = false) ∧ (∀ n ∈ [247], ((s.tile n).state = 0 ∨ (s.tile n).state = 2) ∧
      s.rb n = false ∧ s.wb n = false) ∧ (246 : BitVec 8).toNat < 247 ∧ (s.plainField (0 : BitVec 2)).1 < pair.members.length ∧
      (s.core.regs.rg 1).rank.toNat = (s.plainField (0 : BitVec 2)).1) ∧
    (let s := withTile (inGroup 2 pair) 247 (square 2 0); (∀ n ∈ [247], (s.tile n).state = 2 ∧ s.wb n = false ∧
      s.rb n = false) ∧ ((List.range 2).filter (· != 0)).map (246 + ·) = [247]) := by
  refine ⟨?_, ?_, ?_⟩ <;> decide +kernel

theorem witness_ArrivalCounterResults :
    ((main 0).rp 0 = true ∧ ((main 0).plainField (0 : BitVec 9)).1 ≤ ((main 0).core.regs.rac 63).count.toNat) ∧
    (let s := main 0; ((s.core.regs.rac 63).count.toNat < (s.plainField (1 : BitVec 9)).1) ∧ (s.core.regs.rac 63).err = false ∧
      s.ctx = .main ∧ s.waitHere 0 = none) ∧
    ((waiting 0 true).waitHere 0 = some (wait 0 true) ∧ (wait 0 true).expired = true ∧
      (waiting 0 false).waitHere 0 = some (wait 0 false) ∧ (wait 0 false).expired = false ∧
      ((waiting 0 false).core.regs.rac 63).count.toNat < 1 ∧ (lin.core.regs.rac 63).count.toNat < 1 ∧ lin.ctx = .lining) := by
  refine ⟨?_, ?_, ?_⟩ <;> decide +kernel

theorem witness_ThimbleAndMailboxCommandsAreQueued :
    (let s := State_with (vault 0xFFFFFF8) fun r => r.wa 2 0x1FFF80; BeforeLastSlot s ∧
      s.core.outboxQ.length + s.unsent .outbox < queueDepth .outbox ∧ (s.ra 2).toNat % 64 = 0 ∧ (s.ra 2).toNat ≤ 0x1FFF80 ∧
      (s.rh 1).valid = true ∧ (s.ra 1).toNat + 8 ≤ spanSize (s.rh 1).ps ∧ (s.ra 1).toNat % 8 = 0 ∧
      ((s.rh 1).region = 0 ∨ (s.rh 1).region = 1) ∧ ∀ p ∈ [Perm.r, .w, .a], (s.rh 1).allows p = true) ∧
    (let s := withA (withHandle (main 0) (handle 5 0)) 0xFF8; (s.rh 1).region = 5 ∧
      offsetOf ((s.rh 1).pbase.toNat + (s.ra 1).toNat) % 2 ^ 15 < 0x1000) ∧
    (((holds (main 0) 1 0xFFFF).rs 1).toNat < 2 ^ 16 ∧
      0 < (vget (k := 2) (State_with (main 0) fun r => { r with mbc := vput (k := 2) r.mbc 3 1 }).core.regs.mbc 3).toNat ∧
      vget (k := 2) (main 0).core.regs.mbc 3 = 0) ∧
    ((waiting 1 true).waitHere 1 = some (wait 1 true) ∧ (wait 1 true).expired = true ∧
      (waiting 1 false).waitHere 1 = some (wait 1 false) ∧ (wait 1 false).expired = false) := by
  unfold BeforeLastSlot
  refine ⟨?_, ?_, ?_, ?_⟩ <;> decide +kernel

theorem witness_ClauseInstructionResults :
    (let s := vault 0xFFFFFF8; BeforeLastSlot s ∧ s.core.clauseQ.length < queueDepth .clause ∧
      ((s.rh 1).region = 0 ∨ (s.rh 1).region = 1) ∧ (s.rh 1).die = s.ownDie ∧ (s.rh 1).valid = true ∧ (s.ra 1).toNat % 8 = 0 ∧
      (s.rh 1).allows .r = true ∧ (s.ra 1).toNat + 8 ≤ spanSize (s.rh 1).ps) ∧
    (let s := vault 0; (s.rh 1).allows .w = true ∧ (s.ra 1).toNat + contextSize s.ncol ≤ spanSize (s.rh 1).ps ∧
      s.myInst = none) ∧
    (bound.myInst = some 0 ∧ (bound.clauseInst 0).read bound.ncol 4095 = some 0 ∧
      (bound.clauseInst 0).read bound.ncol 16384 = none ∧ (255 : Dword).toNat < 256 ∧ 256 ≤ (256 : Dword).toNat) := by
  unfold BeforeLastSlot
  refine ⟨?_, ?_, ?_⟩ <;> decide +kernel

theorem witness_RoutineWordResults :
    (({ main 0 with routine := some (routine 62) } : State).routine = some (routine 62) ∧ (routine 62).pc < 63) ∧
    (let s := main 0; let p := ((routine 0).get 1 + (0 : BitVec 17).signExtend 64).toNat;
      let home := (routine 0).packet.base.toNat; p % 8 = 0 ∧ home ≤ p ∧ p + 8 ≤ home + (routine 0).packet.size ∧
      (regionOf p = 0 ∨ regionOf p = 1) ∧ s.thimbleOf p = some ((routine 0).die, (routine 0).unit) ∧
      s.performed.mem.poison.contains (p / 64) = false ∧ s.mem.broken = []) ∧
    (let s := ({ main 0 with mem := ⟨[], [(2 ^ 48 + 65528) / 64], []⟩ } : State);
      let p := ((routine 0).get 1 + (0 : BitVec 17).signExtend 64).toNat; let home := (routine 0).packet.base.toNat;
      p % 8 = 0 ∧ home ≤ p ∧ p + 8 ≤ home + (routine 0).packet.size ∧ (regionOf p = 0 ∨ regionOf p = 1) ∧
      s.thimbleOf p = some ((routine 0).die, (routine 0).unit) ∧ s.performed.mem.poison.contains (p / 64) = true ∧
      s.mem.broken = []) ∧
    (let s : State := { main 0 with wipes := [(2 ^ 48, 2 ^ 28)] }; let p := ((routine 0).get 1 + (0 : BitVec 17).signExtend 64).toNat;
      s.inWipe (64 * (p / 64)) 64 = true ∧ s.inWipe p 8 = true ∧ ({ s with wipes := [] } : State).inWipe p 8 = false) ∧
    (let p := ((routine 0).get 1 + (8 : BitVec 17).signExtend 64).toNat;
      ¬ (p + 8 ≤ (routine 0).packet.base.toNat + (routine 0).packet.size)) ∧
    ((1 : BitVec 17).toInt = 1 ∧ 61 + 1 + 1 ≤ 63 ∧ (0 : BitVec 17).toInt < 1 ∧ (0x1FFFF : BitVec 17).toInt < 1 ∧
      63 < 62 + 1 + (1 : BitVec 17).toInt) := by
  refine ⟨?_, ?_, ?_, ?_, ?_, ?_⟩ <;> decide +kernel

theorem witness_RoutineWordResults_2 :
    ((0 : BitVec 17).toInt = 0 ∧ (8 : BitVec 17).toInt = 8 ∧ (15 : BitVec 17).toInt = 15 ∧ (7 : BitVec 17).toInt = 7) := by
  decide +kernel

theorem witness_ResultsLandInTheirRegisters :
    (let s := flying (.s 31 5) 0 false 0 0; s.core.flights = [flight (.s 31 5) 0 false] ∧
      (flight (.s 31 5) 0 false).due ≤ s.run ∧ s.core.backs = [] ∧ s.core.agree = none ∧ s.arrivals = [] ∧ s.earlier = [] ∧
      s.running = [] ∧ s.arriving = [] ∧ (flight (.s 31 5) 0 false).upset = .none ∧ (flight (.s 31 5) 0 false).late = false) ∧
    (let s := flying (.lu 15 5 1) 0 false 0 0; s.core.flights = [flight (.lu 15 5 1) 0 false] ∧
      (flight (.lu 15 5 1) 0 false).due ≤ s.run ∧ s.core.backs = [] ∧ s.core.agree = none ∧ s.arrivals = []) ∧
    (let s := flying (.aseq 31 1) 0 false 0 0; s.core.flights = [flight (.aseq 31 1) 0 false] ∧
      (flight (.aseq 31 1) 0 false).due ≤ s.run ∧ s.core.backs = [] ∧ s.core.agree = none ∧ s.arrivals = []) ∧
    (let s := flying (.load (.scalar 31 true) [⟨0, 2 ^ 49, 8⟩]) 0 false 0 0; s.running = [] ∧ s.arriving = [] ∧ s.drains = [] ∧
      s.core.panel = none ∧ ∀ j < 8, s.mem.poison.contains ((2 ^ 49 + j) / 64) = false) ∧
    (let s : State := { flying (.load (.scalar 31 true) [⟨0, 2 ^ 49, 8⟩]) 0 false 0 0 with mem := ⟨[], [2 ^ 43], []⟩ };
      ∀ j < 8, s.mem.poison.contains ((2 ^ 49 + j) / 64) = true) := by
  refine ⟨?_, ?_, ?_, ?_, ?_⟩ <;> decide +kernel

theorem witness_StoresReachTheirBytes :
    (let g : Gate := ⟨[(0, 7)], 0, 4, 4, 0⟩; let s : State := { main 0 with drains := [g], run := 5 }; Canonical s ∧ s.running = [] ∧ s.arriving = [] ∧
      s.mem.broken = [] ∧ s.drains = [g] ∧ g.local_ < s.run ∧ g.cells.reverse.find? (fun c => c.1 == 0) = some (0, 7)) ∧
    (let m : McastStore := ⟨4, 0, 1, [(0x1FFFFF, 7)]⟩;
      let s : State := { main 0 with clock := 5, core := { (main 0).core with mcast := [m] } }; s.core.mcast = [m] ∧ s.casts = [] ∧
      m.due < s.clock ∧ m.mask.getLsbD 0 = true ∧ (∀ c ∈ m.cells, c.1 < 2 ^ 21) ∧
      m.cells.reverse.find? (fun c => c.1 == 0x1FFFFF) = some (0x1FFFFF, 7)) ∧
    (let x : Multicast := ⟨4, 2, 0x8000, [(0x1FFFFF, 7)]⟩; let s : State := { main 0 with clock := 5, casts := [x] }; s.core.mcast = [] ∧
      s.casts = [x] ∧ x.due < s.clock ∧ x.mask.getLsbD 15 = true ∧
      x.cells.reverse.find? (fun c => c.1 == 0x1FFFFF) = some (0x1FFFFF, 7) ∧ Canonical s) ∧
    (let s := flying (.xtr 255 32 0) 0 false 1 1; s.core.flights = [flight (.xtr 255 32 0) 0 false] ∧
      (flight (.xtr 255 32 0) 0 false).due < s.run) ∧
    (let i : IstWrite := ⟨0x11FFC, 7, 0, 0⟩; let s : State := { main 0 with core := { (main 0).core with ists := [i] } };
      s.core.ists = [i] ∧ i.due ≤ s.run ∧ cellsWf s.imem.cells = true ∧ s.imem.istKey i.addr = some 0x21FFC) := by
  unfold Canonical
  refine ⟨?_, ?_, ?_, ?_, ?_⟩ <;> decide +kernel

theorem witness_CoreEventsTakeEffect :
    (0 < (flying (.s 1 5) 0 true 0 0).core.flights.length ∧
      0 < ({ main 0 with lin := { Lining.reset with flights := [flight (.s 1 5) 0 true] } } : State).lin.flights.length) ∧
    (let s : State := { main 0 with lin := { Lining.reset with pend := [⟨0x400, 0⟩] } }; s.lin.serving = false ∧
      s.lin.stopped = false ∧ s.lin.pend = [⟨0x400, 0⟩]) ∧
    (let r : Rewind := ⟨8, .trap { cause := 9, smask := 0, reason := 7, code := 0, detail := 0 }⟩;
      ({ main 0 with rewind := some r } : State).rewind = some r ∧ 9 < 256 ∧ 7 < 8) ∧
    (let s := withPanel (flying (.s 1 5) 0 true 0 0) false 1; s.core.flights = [flight (.s 1 5) 0 true] ∧
      (flight (.s 1 5) 0 true).late = true ∧ (flight (.s 1 5) 0 true).due ≤ s.run ∧
      (s.core.panel.map fun p => (p.irrev, p.retry)) = some (false, 1)) ∧
    (paged.xlate.walks[0]? = some ⟨0, false, none⟩ ∧ (paged.walk paged.id.part 0).isSome = true) := by
  refine ⟨?_, ?_, ?_, ?_, ?_⟩ <;> decide +kernel

theorem witness_CoreEventsTakeEffect_2 :
    (let s : State := { main 0 with xlate := ⟨[], [], [⟨0, false, none⟩], 0⟩ }; s.xlate.walks[0]? = some ⟨0, false, none⟩ ∧
      s.walk s.id.part 0 = none) ∧
    (∀ k ∈ [0, 1, 2], let s : State := { waiting k false with ptime := 50 }; s.hold.waits[0]? = some (wait k false) ∧
      (wait k false).since + (wait k false).limit ≤ (s.ptime - 5) / 9 ∧
      (wait k false).need > (s.core.regs.rac (BitVec.ofNat 6 (wait k false).what)).count.toNat) ∧
    ((wait 0 false).since + (wait 0 false).limit > (49 - 5) / 9) := by
  refine ⟨?_, ?_, ?_⟩ <;> decide +kernel

theorem witness_CommandsStartAndComplete :
    (let c := cmd (.mzero 63) true []; (withQueue c).core.queue .copy = [c] ∧ (withQueue c).core.queue .matrix = [c] ∧
      c.held = true) ∧
    (let c := zeroCmd; c.held = false ∧
      (∀ e ∈ [Engine.copy, .matrix, .shuttle, .outbox, .clause], (withQueue c).core.queue e = [c]) ∧
      ∀ x ∈ (withQueue c).running, x.cmd.engine ≠ .matrix) ∧
    (let c := copyCmd; c.held = false ∧
      (∀ e ∈ [Engine.copy, .matrix, .shuttle, .outbox, .clause], (withQueue c).core.queue e = [c]) ∧
      ∀ x ∈ (withQueue c).running, x.cmd.engine ≠ .matrix) ∧
    (let c := sendCmd; c.held = false ∧
      (∀ e ∈ [Engine.copy, .matrix, .shuttle, .outbox, .clause], (withQueue c).core.queue e = [c]) ∧
      ∀ x ∈ (withQueue c).running, x.cmd.engine ≠ .matrix) ∧
    (¬ ∀ x ∈ (inUse zeroCmd noEffect).running, x.cmd.engine ≠ .matrix) := by
  refine ⟨?_, ?_, ?_, ?_, ?_⟩ <;> decide +kernel

theorem witness_CommandsStartAndComplete_2 :
    (let x := running copyCmd noEffect; (inUse copyCmd noEffect).running = [x] ∧ (inUse copyCmd noEffect).arriving = [] ∧ x.ended = false ∧ x.cmd.engine = .copy ∧
      (∀ n ∈ x.cmd.writes, n < 256) ∧ x.cmd.pops = []) ∧
    (let e : Effect := ⟨[], [], [], some (63, ⟨0, 0⟩), none, 0, 0⟩; let x := running zeroCmd e; (inUse zeroCmd e).running = [x] ∧
      x.ended = false ∧ x.cmd.op = .mzero 63 ∧ x.eff = e ∧ x.cmd.writes = [] ∧ x.cmd.pops = []) ∧
    (let x := running sendCmd noEffect; (inUse sendCmd noEffect).running = [x] ∧ x.cmd.op = .send (some 5) 0 0 ∧
      x.srcRead = false ∧ x.route = [] ∧ x.cmd.writes = [] ∧ x.cmd.pops = []) := by
  refine ⟨?_, ?_, ?_⟩ <;> decide +kernel

theorem witness_DeliveriesAndPackets :
    (let s := withTile (main 0) 5 (square 1 0); (delivery 5).own = none ∧ s.arriving = [] ∧ s.deliverable (delivery 5) = false) ∧
    (let s := withTile (main 0) 5 (square 2 0); s.deliverable (delivery 5) = true ∧ s.deliveryTile (delivery 5) < 256) ∧
    (let a : Arriving := ⟨delivery 5, 5, 0, [], [(2 ^ 49, 7)], [], 0⟩; let s : State := { main 0 with arriving := [a] };
      s.arriving = [a] ∧ a.delivery = delivery 5 ∧ a.tile < 256 ∧ s.mem.broken = [] ∧ s.running = [] ∧ s.drains = [] ∧ Canonical s ∧ a.flowed = [] ∧
      a.cells.reverse.find? (fun c => c.1 == 2 ^ 49) = some (2 ^ 49, 7)) ∧
    ((sending.sendable.map (·.2)) = some (packet 0 0) ∧ dieOf (packet 0 0).addr.toNat = sending.ownDie ∧ sending.deadDies.contains (dieOf (packet 0 0).addr.toNat) = false) ∧
    (let s : State := { sending with deadDies := [0] }; (s.sendable.map (·.2)) = some (packet 0 0) ∧
      s.deadDies.contains (dieOf (packet 0 0).addr.toNat) = true ∧ (packet 0 0).sdie = s.id.die ∧
      (packet 0 0).score = s.id.core) := by
  unfold Canonical
  refine ⟨?_, ?_, ?_, ?_, ?_⟩ <;> decide +kernel

theorem witness_DeliveriesAndPackets_2 :
    (let p := packet 9 16; let s : State := { main 0 with packets := [p] }; s.packets = [p] ∧ p.sdie = s.id.die ∧
      p.score = s.id.core ∧ p.op = 9 ∧ 16 ≤ p.ctl.toNat ∧ p.ctl.toNat < 32 ∧ s.thimbleOf p.addr.toNat = some (0, 64)) ∧
    (let p := packet 9 31; let s : State := { main 0 with packets := [p] }; s.packets = [p] ∧ p.sdie = s.id.die ∧
      p.score = s.id.core ∧ p.op = 9 ∧ 16 ≤ p.ctl.toNat ∧ p.ctl.toNat < 32 ∧ s.thimbleOf p.addr.toNat = some (0, 64)) ∧
    (let p := packet 9 15; let s : State := { main 0 with packets := [p] }; s.packets = [p] ∧ p.sdie = s.id.die ∧
      p.score = s.id.core ∧ p.op = 9 ∧ (p.ctl.toNat < 16 ∨ 32 ≤ p.ctl.toNat)) ∧
    (let p := packet 9 32; let s : State := { main 0 with packets := [p] }; s.packets = [p] ∧ p.sdie = s.id.die ∧
      p.score = s.id.core ∧ p.op = 9 ∧ (p.ctl.toNat < 16 ∨ 32 ≤ p.ctl.toNat)) ∧
    (let s := inUse thimbleCmd noEffect; let x := running thimbleCmd noEffect; let r : Reply := ⟨7, 3, []⟩; s.running = [x] ∧
      x.cmd.op = .thimble (0 : BitVec 4).toNat Handle.reset 0 0x1FFF80 ∧ x.eff.stores = [] ∧ s.arriving = [] ∧ r.id = x.cmd.id ∧ r.code ≠ 7 ∧ s.mem.broken = [] ∧
      Canonical s ∧ r.data = []) := by
  unfold Canonical
  refine ⟨?_, ?_, ?_, ?_, ?_⟩ <;> decide +kernel

theorem witness_DeliveriesAndPackets_3 :
    (let c := cmd (.clause 3 0x800 Handle.reset) false [];
      let x : Running := { running c { noEffect with code := 3 } with ended := true };
      let s : State := { bound with running := [x] }; s.running = [x] ∧ x.cmd.op = .clause 3 0x800 Handle.reset ∧
      x.ended = true ∧ x.eff.code ≠ 0) ∧
    (let c := cmd (.clause 3 0x800 Handle.reset) false []; let x : Running := { running c noEffect with ended := true };
      let s : State := { bound with running := [x] }; s.running = [x] ∧ x.ended = true ∧ x.eff.code = 0 ∧ s.myInst = some 0 ∧
      0 < 4) := by
  refine ⟨?_, ?_⟩ <;> decide +kernel

theorem witness_AgreementEventsTakeEffect :
    (let g := { alone with members := [⟨0, 0, false⟩] }; (inGroup 0 g).rooted 4 = some g ∧ contribution.die = (main 0).id.die ∧
      contribution.core = (main 0).id.core ∧ g.isCurrent 0 0 0 = false ∧ contribution.gid = 4) ∧
    ((inGroup 0 alone).rooted 4 = some alone ∧ (inGroup 0 alone).groups = [alone] ∧ alone.isCurrent 0 0 0 = true ∧ alone.currentRanks = [0] ∧ alone.pending = [] ∧
      alone.resolved = [] ∧ alone.deadNext = false) ∧
    (let i : Instance := ⟨0, 0, false, [contribution]⟩; let g := { pair with pending := [i] };
      let s : State := { inGroup 0 g with ptime := 899 }; s.groups = [g] ∧ g.pending = [i] ∧ s.ptime / 9 < i.since + g.late) ∧
    (let i : Instance := ⟨0, 0, false, [contribution]⟩; let g := { pair with pending := [i] };
      let s : State := { inGroup 0 g with ptime := 900 }; s.groups = [g] ∧ g.pending = [i] ∧ i.since + g.late ≤ s.ptime / 9) ∧
    (∀ n ∈ [(1 : BitVec 3), 2, 3, 4], (agreeing .agr).core.agree = some (awaiting .agr) ∧ (awaiting .agr).ahead = none ∧
      (awaiting .agr).gid = (outcome n).gid ∧ (awaiting .agr).seq = (outcome n).seq ∧ (outcome n).tag ≠ 1023 ∧
      (outcome n).poisoned = false ∧ (agreeing .agr).core.regs.depth = 0) := by
  refine ⟨?_, ?_, ?_, ?_, ?_⟩ <;> decide +kernel

theorem witness_AgreementEventsTakeEffect_2 :
    ((agreeing (.agv 31)).core.agree = some (awaiting (.agv 31)) ∧ (awaiting (.agv 31)).gid = (outcome 2).gid ∧
      (outcome 2).outcome.toNat < 3 ∧ (outcome 2).poisoned = false ∧ (agreeing (.agv 31)).core.regs.depth = 0) ∧
    (let j : JoinMsg := ⟨4, 0, 0, 0, 0⟩; (inGroup 0 alone).rooted j.gid = some alone ∧ j.die = (main 0).id.die ∧
      j.core = (main 0).id.core ∧ (main 0).deadDies.contains j.die.toNat = false ∧ alone.isCurrent j.rank j.die j.core = true) ∧
    (let g := { alone with members := [⟨0, 0, false⟩] }; g.members[0]? = some ⟨0, 0, false⟩ ∧ g.members[1]? = none) ∧
    ((agreeing .agj).core.agree = some (awaiting .agj) ∧ (awaiting .agj).gid = 4 ∧ (agreeing .agj).core.regs.depth = 0) ∧
    (let s := withPanel (agreeing .agr) false 1; let o := { outcome 1 with poisoned := true }; s.core.agree = some (awaiting .agr) ∧
      (awaiting .agr).gid = o.gid ∧ (awaiting .agr).seq = o.seq ∧ o.tag ≠ 1023 ∧ o.poisoned = true ∧
      (s.core.panel.map fun p => (p.irrev, p.retry)) = some (false, 1)) := by
  refine ⟨?_, ?_, ?_, ?_, ?_⟩ <;> decide +kernel

theorem witness_FabricEventsTakeEffect :
    (let p := ringSlot 6 1 false .idle; let s := main 0; p.typ ≠ 0 ∧ p.typ.toNat < 7 ∧ unitValid p.dunit.toNat = true ∧
      p.via ≠ s.id.die ∧ (s.eitherWay p.rack p.cw p.via.toNat).map (·.links) = some [0, 1, 2, 3]) ∧
    (let p := { ringSlot 6 1 false .idle with via := 0 }; let s := main 0; p.via = s.id.die ∧ slotGoal p ≠ s.ownDie ∧
      slotGoal p / 8 = s.ownDie / 8 ∧ (s.nextLeg p).map (fun l => (l.rack, l.cw, l.via)) = some (false, true, 1)) ∧
    (let p := { ringSlot 6 9 false .idle with via := 0 }; let s := withFabric fun f => { f with order := [0, 1] };
      s.ownDie % 4 = 0 ∧ (s.nextLeg p).map (fun l => (l.rack, l.cw, l.via, l.links)) = some (true, true, 8, [8, 9, 10, 11])) ∧
    (let p := ringSlot 1 0 false (.host 0 []); let s := main 0; p.via = s.id.die ∧ p.ddie = s.id.die ∧ p.bnc = false ∧
      s.fabric.credit = true ∧ p.body = .host 0 []) ∧
    (let p := ringSlot 1 0 false (.host 0 []);
      let s : State := { withFabric (fun f => { f with credit := false }) with reg6 := { sets := [], cells := [(0x300000, 0xFF)] } };
      s.fabric.credit = false ∧ p.lap = false ∧ ({ p with lap := true } : RingSlot).lap = true ∧ p.rack = false ∧
      p.sdie.toNat / 8 = s.ownDie / 8 ∧ (s.eitherWay p.rack p.cw p.via.toNat).map (·.links.head?) = some (some 0)) := by
  refine ⟨?_, ?_, ?_, ?_, ?_⟩ <;> decide +kernel

theorem witness_FabricEventsTakeEffect_2 :
    (let p := { ringSlot 1 1 true .idle with via := 0 }; let s := main 0; p.typ ≠ 0 ∧ p.typ.toNat < 7 ∧
      unitValid p.dunit.toNat = true ∧ p.via = s.id.die ∧ p.bnc = true ∧ p.sdie = s.id.die ∧ s.fabric.bounces = []) ∧
    (let b : Bounce := ⟨{ ringSlot 1 1 false .idle with via := 0 }, 1, some 72⟩; let s := withFabric fun f => { f with bounces := [b] };
      s.fabric.bounces[0]? = some b ∧ b.due = some 72 ∧ (s.nextLeg b.slot).isSome = true) ∧
    (∀ l ∈ ([⟨false, true, 0⟩, ⟨true, false, 3⟩] : List LinkId), ((main 0).link (linkNum l)).up = true ∧
      ((main 0).link (linkNum l)).expect = 0 ∧
      ((withFabric fun f => { f with links := Vector.replicate 16 { LinkState.reset with up := false } }).link (linkNum l)).up = false ∧
      8 ≤ ((withFabric fun f => { f with links := Vector.replicate 16 { LinkState.reset with fails := 8 } }).link (linkNum l)).fails) ∧
    (flitOk ⟨.flit, 0, 0, 0x3C8EB67⟩ = true ∧ flitOk ⟨.flit, 0, 0, 0x3C8EB66⟩ = false) ∧
    ((withFabric fun f => { f with tables := [(0, [])] }).fabric.tables = [(0, [])] ∧ 0 ≤ (main 0).ptime / 360 ∧
      (main 0).ptime / 360 < 1 ∧ (main 0).fabric.waiting = [] ∧ (main 0).isTimeMaster = true ∧
      ({ main 0 with time := { (main 0).time with master := 1 } } : State).isTimeMaster = false) := by
  refine ⟨?_, ?_, ?_, ?_, ?_⟩ <;> decide +kernel

theorem witness_FabricEventsTakeEffect_3 :
    ((1 : BitVec 10) ≠ (main 0).id.die ∧ (main 0).deadDies.contains 1 = false ∧
      ({ main 0 with deadDies := [1] } : State).deadDies.contains 1 = true ∧ (main 0).running = [] ∧ (main 0).groups = []) ∧
    ((staged 2).boot.stage = 2 ∧ (staged 1).boot.stage ≠ 2 ∧ (staged 1).isTimeMaster = true ∧ (0 : Int) ≤ 0 ∧ (-1 : Int) < 0) ∧
    (let s := withFabric fun f => { f with resets := [0, 1] }; s.fabric.resets.contains 1 = true ∧ s.fabric.resets.contains 2 = false ∧
      (1 : BitVec 10) ≠ s.id.die ∧ ready.wipes = [] ∧ ({ s with wipes := [] } : State).fabric.resets.contains 0 = true) ∧
    (let p := ringSlot 5 0 false (.system (.time 7)); let s : State := { staged 2 with time := { (staged 2).time with master := 1 } };
      p.typ ≠ 0 ∧ p.typ.toNat < 7 ∧ unitValid p.dunit.toNat = true ∧ p.ddie = s.id.die ∧ s.isTimeMaster = false ∧
      s.boot.stage = 2) := by
  refine ⟨?_, ?_, ?_, ?_⟩ <;> decide +kernel

theorem witness_ContextsAndClauseWindows :
    (scratchBase (main 0).ownDie (main 0).ownCore ≤ 2 ^ 49 + 0x1FFFFF ∧
      2 ^ 49 + 0x1FFFFF < scratchBase (main 0).ownDie (main 0).ownCore + 0x200000 ∧ Canonical (main 0)) ∧
    ((main 0).port.busy = false ∧ lin.status = .trapped ∧ (main 0).status = .running ∧
      ({ lin with port := { ContextPort.reset with busy := true } } : State).port.busy = true) ∧
    (let s : State := { lin with port := { ContextPort.reset with busy := true, addr := 0x800 } }; s.port.busy = true ∧
      s.port.addr.toNat % 0x1000 ≠ 0) ∧
    (let s : State := { lin with port := { ContextPort.reset with busy := true, addr := BitVec.ofNat 52 (2 ^ 48) } };
      s.port.addr.toNat % 0x1000 = 0 ∧ s.ownsAddress s.id.part.toNat s.port.addr.toNat = true ∧ s.stopped = true ∧
      s.port.restore = false ∧ s.port.sect = 0) ∧
    (let v : BitVec 64 := 0xFC0002; let s := bound; s.mayWriteReg .gpm s.id.part.toNat 0x400000 = true ∧
      v.extractLsb' 40 24 = 0 ∧ v.extractLsb' 2 14 = 0 ∧ v.toNat % 4 ≠ 3 ∧
      (∃ x ∈ s.clause.inst.toList, x.binding.isHeld = true) ∧ ¬ ∃ x ∈ (main 0).clause.inst.toList, x.binding.isHeld = true) := by
  unfold Canonical
  refine ⟨?_, ?_, ?_, ?_, ?_⟩ <;> decide +kernel

theorem witness_ContextsAndClauseWindows_2 :
    (((0xFC0002 : BitVec 64).toNat % 4 ≠ (main 0).clauseMode) ∧ (0xFC0000 : BitVec 64).toNat % 4 = (main 0).clauseMode) ∧
    (((main 0).window 3).busy = false) ∧
    (let win : ClauseWindow := { addr := BitVec.ofNat 52 (2 ^ 48), op := 0, core := 0, busy := true, done := false, err := 0, mine := false, since := 0, cycles := 0 };
      let s : State := { lin with clause := { ClauseArray.reset with split := 0x050000, win := ClauseArray.reset.win.set 0 win, inst := ClauseArray.reset.inst.set 0 (ClauseInst.empty (.bound 0)) } };
      (s.window 0).busy = true ∧ s.ownsCore (s.clause.owner 0) win.core.toNat = true ∧ s.coreStopped win.core.toNat = true ∧
      win.addr.toNat % 64 = 0 ∧ s.ownsRange (s.clause.owner 0) win.addr.toNat (contextSize s.ncol) = true ∧ s.mem.broken = [] ∧
      ((s.clauseInst 0).binding = .bound win.core ∨ (s.clauseInst 0).binding = .failed win.core)) ∧
    (let win : ClauseWindow := { addr := BitVec.ofNat 52 (2 ^ 48), op := 0, core := 0, busy := true, done := false, err := 0, mine := false, since := 0, cycles := 0 };
      let s : State := { lin with clause := { ClauseArray.reset with split := 0x050000, win := ClauseArray.reset.win.set 0 win, inst := ClauseArray.reset.inst.set 0 (ClauseInst.empty (.free)) } };
      (s.window 0).busy = true ∧ s.ownsCore (s.clause.owner 0) win.core.toNat = true ∧ s.coreStopped win.core.toNat = true ∧
      win.addr.toNat % 64 = 0 ∧ s.ownsRange (s.clause.owner 0) win.addr.toNat (contextSize s.ncol) = true ∧ s.mem.broken = [] ∧
      (s.clauseInst 0).binding ≠ .bound win.core ∧ (s.clauseInst 0).binding ≠ .failed win.core) ∧
    (let win : ClauseWindow := { addr := BitVec.ofNat 52 (2 ^ 48), op := 2, core := 0, busy := true, done := false, err := 0, mine := false, since := 0, cycles := 0 };
      let s : State := { lin with clause := { ClauseArray.reset with split := 0x050000, win := ClauseArray.reset.win.set 0 win, inst := ClauseArray.reset.inst.set 0 (ClauseInst.empty (.resident)) } };
      (s.window 0).busy = true ∧ s.ownsCore (s.clause.owner 0) win.core.toNat = true ∧ s.coreStopped win.core.toNat = true ∧
      win.addr.toNat % 64 = 0 ∧ s.ownsRange (s.clause.owner 0) win.addr.toNat (contextSize s.ncol) = true ∧ s.mem.broken = [] ∧
      (s.clauseInst 0).binding = .resident) := by
  refine ⟨?_, ?_, ?_, ?_, ?_⟩ <;> decide +kernel

theorem witness_ContextsAndClauseWindows_3 :
    (let win : ClauseWindow := { addr := BitVec.ofNat 52 (2 ^ 48), op := 3, core := 0, busy := true, done := false, err := 0, mine := false, since := 0, cycles := 0 };
      let s : State := { lin with clause := { ClauseArray.reset with split := 0x050000, win := ClauseArray.reset.win.set 0 win, inst := ClauseArray.reset.inst.set 0 (ClauseInst.empty (.resident)) } };
      (s.window 0).busy = true ∧ s.ownsCore (s.clause.owner 0) win.core.toNat = true ∧ s.coreStopped win.core.toNat = true ∧
      win.addr.toNat % 64 = 0 ∧ s.ownsRange (s.clause.owner 0) win.addr.toNat (contextSize s.ncol) = true ∧ s.mem.broken = [] ∧
      (s.clauseInst 0).binding = .resident) ∧
    (let win : ClauseWindow := { addr := 0, op := 0, core := 0, busy := true, done := false, err := 0, mine := false, since := 0, cycles := 0 };
      let s : State := { lin with clause := { ClauseArray.reset with win := ClauseArray.reset.win.set 0 win } };
      (s.window 0).busy = true ∧ s.ownsCore (s.clause.owner 0) (s.window 0).core.toNat = false) := by
  refine ⟨?_, ?_⟩ <;> decide +kernel

theorem witness_DieRegistersAndInvalidation :
    (let s := main 0; s.mayWriteReg .lining s.id.part.toNat (0xA00000 + (15 : BitVec 4).toNat) = true ∧
      cellsWf s.reg6.cells = true ∧ s.mayWriteReg .host s.id.part.toNat (0xA00000 + 15) = false) ∧
    (let s : State := { main 0 with reg6 := { base.reg6 with cells := cellsPutAll base.reg6.cells [(0xA0000F, 1)] } };
      s.getReg (0xA00000 + 15) 1 ≠ 0 ∧ s.mayWriteReg .lining s.id.part.toNat (0xA00000 + 15) = true) ∧
    (let s := main 0; s.mayWriteReg .lining s.id.part.toNat (0x500000 + 8 * (67 : BitVec 7).toNat) = true ∧
      (0x8000000000000000 : BitVec 64).extractLsb' 48 15 = 0) ∧
    (let s : State := { main 0 with reg6 := { sets := [], cells := [(0x50021F, 0x80)] } };
      let v := s.getReg (0x500000 + 8 * 67) 8; 64 ≤ (67 : BitVec 7).toNat ∧ (67 : BitVec 7).toNat < 68 ∧
      cellsWf s.reg6.cells = true ∧ 2 ^ 63 ≤ v ∧ s.mem.broken = [] ∧ v / 2 ^ 16 % 2 ^ 16 < 0xFFFF) ∧
    (let s := main 0; let v : BitVec 64 := 0x0140000000000001; s.inval.busy = false ∧ s.inval.vstart.toNat < 2 ^ 57 ∧
      s.inval.vstart.toNat % 2 ^ 16 = 0 ∧ v.extractLsb' 32 22 = 0 ∧ v.toNat % 2 ^ 32 ≠ 0 ∧
      s.inval.vstart.toNat + 2 ^ 16 * (v.toNat % 2 ^ 32) ≤ 2 ^ 57 ∧ v.extractLsb' 54 6 = s.id.part) := by
  refine ⟨?_, ?_, ?_, ?_, ?_⟩ <;> decide +kernel

theorem witness_DieRegistersAndInvalidation_2 :
    ((0 : BitVec 64).toNat % 2 ^ 32 = 0) ∧
    (let s : State := { main 0 with inval := { (main 0).inval with busy := true, ranges := [(2 ^ 49, 64)] } }; s.closing = [] ∧
      s.inval.busy = true ∧ s.inFlight s.inval.ranges = false) ∧
    (let s : State := { flying (.load (.scalar 1 true) [⟨0, 2 ^ 49, 8⟩]) 9 false 0 0 with inval := { (main 0).inval with busy := true, ranges := [(2 ^ 49, 64)] } };
      s.closing = [] ∧ s.inval.busy = true ∧ s.inFlight s.inval.ranges = true) ∧
    (let s := main 0; s.mayWriteReg .host s.id.part.toNat 0x200000 = false ∧
      s.mayWriteReg .gpm s.id.part.toNat 0x2003F8 = true ∧ 0x2003F8 + 8 ≤ 0x200400 ∧ cellsWf s.reg6.cells = true) := by
  refine ⟨?_, ?_, ?_, ?_⟩ <;> decide +kernel

theorem witness_FrontEndControl :
    (State.reset.fe.err = false ∧ ({ State.reset with fe := { FrontEnd.reset with err := true } } : State).fe.err = true) ∧
    ((head false 9 0 6).bad ≠ 0 ∧ (head false 0 2 0).bad = 0 ∧ 2 ≤ (head false 0 2 0).flags.toNat ∧
      (head true 0 1 0).flags.toNat < 2 ∧ (head true 0 1 0).typ = 0 ∧ (head true 9 1 0).typ ≠ 0 ∧
      (State.reset.fe.ring true).bufs = []) ∧
    (let b : IndirectBuffer := ⟨0, 1, 1, 0⟩;
      ((ringOn State.reset true { CommandRing.reset with bufs := [b] }).fe.ring true).bufs = [b]) ∧
    (let b : IndirectBuffer := ⟨0, 1, 1, 0⟩;
      ((ringOn State.reset true { CommandRing.reset with bufs := [b, b, b, b] }).fe.ring true).bufs.length = 4 ∧
      ((ringOn State.reset true { CommandRing.reset with bufs := [b, b, b] }).fe.ring true).bufs.length < 4) ∧
    (let a : Word := 0xFFFFFFFC; let b : Word := 0x1FFFFFF; let c : Word := 0x100000; (a.toNat + 2 ^ 32 * b.toNat) % 4 = 0 ∧
      a.toNat + 2 ^ 32 * b.toNat < 2 ^ 57 ∧ 0 < c.toNat ∧ c.toNat ≤ 2 ^ 20 ∧ 2 ^ 20 < (0x100001 : Word).toNat) := by
  refine ⟨?_, ?_, ?_, ?_, ?_⟩ <;> decide +kernel

theorem witness_FrontEndControl_2 :
    (let s : State := { base with status := .halted }; (coresOf 1).all (s.ownsCore s.id.part.toNat) = true ∧
      (coresOf 1).any s.notNameable = false ∧ (coresOf 1).any State.reset.notNameable = true ∧ s.allHalted 1 = true ∧ base.allHalted 1 = false ∧ (1 : Word).toNat < 2 ^ 16) ∧
    (let s : State := { ringOn State.reset false (feWaiting (.cores 1)) with status := .halted }; s.allHalted 1 = true ∧
      ((s.fe.ring false).wait.map fun x => (x.what, x.head, x.words, x.limit)) = some (.cores 1, head false 7 1 0, 5, 9)) := by
  refine ⟨?_, ?_⟩ <;> decide +kernel

theorem witness_FrontEndCommandsAndHost :
    (let s := ready; let n : Word := 0x10; let off := (0xFFF0 : Word).toNat % 2 ^ 17; s.checkCores (2 ^ s.ownCore) = 0 ∧
      off % 16 = 0 ∧ n.toNat % 16 = 0 ∧ off + n.toNat ≤ 0x10000 ∧ (s.feRead 0 n.toNat).isSome = true ∧
      s.imem.key off = some 0xFFF0) ∧
    (let s := ready; s.feRead (2 ^ 16) 16 = none ∧ (main 0).checkCores 1 = 4 ∧ (63 : Word).toNat < 64 ∧ 2 ≤ (2 : Word).toNat ∧
      (15 : Word).toNat < 16) ∧
    (let s := ready; ((s.engineLeaf 0).bind (s.handleOf s.id.part)).isSome = true ∧
      (s.engineLeaf (2 ^ 16)).bind (s.handleOf s.id.part) = none) ∧
    (let s := ready; (s.feLook 0xFFFC 4).fePlace 0xFFFC true = some (2 ^ 48 + 0xFFFC) ∧ s.inWipe (2 ^ 48 + 0xFFFC) 4 = false ∧
      s.mem.broken = [] ∧ Canonical s) ∧
    (let s := ready; let q := s.packetSlot (s.postPacket 64 []); s.deadDies.contains ((64 : Word).toNat / 2 ^ 6 % 2 ^ 10) = false ∧
      (64 : Word).toNat / 2 ^ 6 % 2 ^ 10 ≠ s.ownDie ∧ (s.nextLeg q).isSome = true ∧
      ((s.stepSeq q.score q.ddie q.dunit q.cnt).enter q).isNone = true ∧
      (({ s with fabric := Fabric.reset } : State).nextLeg q).isNone = true ∧
      ({ s with deadDies := [1] } : State).deadDies.contains ((64 : Word).toNat / 2 ^ 6 % 2 ^ 10) = true ∧
      (List.replicate 14 (0 : Word)).length = 14) := by
  unfold Canonical
  refine ⟨?_, ?_, ?_, ?_, ?_⟩ <;> decide +kernel

theorem witness_FrontEndCommandsAndHost_2 :
    (let m := mailed.mailbox 0 3; m.en = true ∧ mailed.ownsCore mailed.id.part.toNat 0 = true ∧ m.cap = 2 ∧ m.count = 1 ∧
      mailed.deadDies.contains ((3 : Word).toNat / 2 ^ 6 % 2 ^ 10) = false ∧ (3 : Word).toNat / 2 ^ 6 % 2 ^ 10 = mailed.ownDie ∧
      mailed.inWipe (mailed.entryAddr 0 m m.tail) 64 = false ∧ mailed.mem.broken = [] ∧ Canonical mailed ∧
      (mailed.mailbox 0 2).en = false ∧ (let f := (fullMail.mailbox 0 3); f.en = true ∧ f.cap ≤ f.count) ∧
      576 ≤ (0x9000 : Word).toNat / 2 ^ 6 % 2 ^ 10 ∧ (0x9000 : Word).toNat < 2 ^ 16) ∧
    (let x : Waiting := { what := .post 64 (List.replicate 14 0), head := head false 0xA 0 0, words := 15, since := 0, limit := 0, polled := 0 };
      let s := ringOn { ready with deadDies := [1] } false { CommandRing.reset with wait := some x };
      (s.fe.ring false).wait = some x) ∧
    (let s := ready; (1 : Word).toNat % 2 ^ 16 = 2 ^ s.ownCore ∧ (1 : Word).toNat / 2 ^ 16 + 1 ≤ (1 : Word).toNat ∧
      (match s.readRecord 0 with | .inl _ => true | .inr _ => false) = true ∧ ((s.touchRecord 0).installGroups 1).isSome = true ∧
      0 ≤ s.ptime / 9 ∧ s.ptime / 9 < 1) ∧
    (let y : Launch := ⟨1, 0, 1, 0, ⟨0, 0, [], [], []⟩⟩;
      let x : Waiting := { what := .release y, head := head true 0xB 0 0, words := 6, since := 0, limit := 0, polled := 0 };
      let s := ringOn ready true { CommandRing.reset with wait := some x }; (s.fe.ring true).wait = some x ∧
      x.head.timed = true ∧ y.time ≤ s.ptime / 9 ∧ (s.fe.ring false).wait = none ∧ y.mask.getLsbD s.ownCore = true) ∧
    ((255 : Word).toNat < 256 ∧ 2 ≤ (2 : Word).toNat ∧ (576 : Word).toNat ≤ 576 ∧ ready.fe.barriers = [] ∧
      (ready.fe.ring false).wait = none ∧ (ready.fe.ring true).wait = none) ∧
    (let a : BitVec 52 := BitVec.ofNat 52 (2 ^ 49 + 0x1FFFF8); let s := ready; regionOf a.toNat < 5 ∧ regionOf a.toNat ≠ 6 ∧
      s.hostReaches a.toNat = true ∧ s.hostReaches (a.toNat + 8 - 1) = true ∧ s.inWipe a.toNat 8 = false ∧
      s.readFails a.toNat 8 = false ∧ s.mem.broken = []) := by
  unfold Canonical
  refine ⟨?_, ?_, ?_, ?_, ?_, ?_⟩ <;> decide +kernel

theorem witness_FrontEndCommandsAndHost_3 :
    (let a : BitVec 52 := BitVec.ofNat 52 (2 ^ 49 + 2 ^ 38); regionOf a.toNat ≠ 6 ∧ ready.hostReaches a.toNat = false) := by
  decide +kernel

theorem witness_BootAndPower :
    ((staged 0).boot.stage = 0 ∧ (staged 1).boot.stage = 1 ∧ (staged 2).boot.stage = 2 ∧ (staged 1).boot.stage ≠ 0 ∧
      (staged 0).boot.stage ≠ 1) ∧
    (let b := (staged 2).boot; (62 : BitVec 6) ≠ 0 ∧ (62 : BitVec 6) ≠ 63 ∧ (∀ x ∈ b.parts, x.num ≠ 62) ∧ b.owner = some [1] ∧
      (∃ x ∈ b.parts, x.num = 5) ∧ State.reset.boot.owner = none) ∧
    ((5 : BitVec 6) = (staged 2).id.part ∧ (62 : BitVec 6) ≠ (staged 2).id.part) ∧
    (let b := (staged 2).boot; b.identity = some 0 ∧ (b.parts.find? (fun y => y.num == 5)).isSome = true ∧
      b.fuses ≤ b.record ∧ ({ b with fuses := 1 } : Boot).record < ({ b with fuses := 1 } : Boot).fuses) ∧
    ((37999 < 38000 ∧ 10000 ≤ 10000) ∧ ¬ (38000 < 38000) ∧ 63000 < 63001 ∧ ¬ (63000 < 63000) ∧ 105000 < 105001 ∧
      ¬ (10000 ≤ 9999) ∧ 45000 < 45001) := by
  refine ⟨?_, ?_, ?_, ?_, ?_⟩ <;> decide +kernel

theorem witness_RecoveryFramesAct :
    (let f := frame 0 5 0; frameScope f = 0 ∧ frameLct f = 0 ∧ framePart f = 5 ∧ frameTarget f = 0) ∧
    (let f := frame 0 1 0; frameScope f = 0 ∧ frameLct f = 0 ∧ framePart f = 1 ∧ frameTarget f = 0) ∧
    (let f := frame 1 5 0; frameScope f = 1 ∧ frameLct f = 0 ∧ framePart f = 5 ∧ frameTarget f = 0) ∧
    (let f := frame 2 0 0; frameScope f = 2 ∧ frameLct f = 0 ∧ framePart f = 0 ∧ frameTarget f = 0) ∧
    (let f := frame 3 0 0; frameScope f = 3 ∧ frameLct f = 0 ∧ framePart f = 0 ∧ frameTarget f = 0) := by
  refine ⟨?_, ?_, ?_, ?_, ?_⟩ <;> decide +kernel

theorem witness_RecoveryFramesAct_2 :
    (let f := frame 3 0 1; frameScope f = 3 ∧ frameLct f = 1 ∧ framePart f = 0 ∧ frameTarget f = 0) ∧
    (let f := frame 3 0 2; frameScope f = 3 ∧ frameLct f = 2 ∧ framePart f = 0 ∧ frameTarget f = 0) ∧
    (let f := frame 3 0 3; frameScope f = 3 ∧ frameLct f = 3 ∧ framePart f = 0 ∧ frameTarget f = 0) ∧
    ((5 : Nat) = base.id.part.toNat ∧ (0 : Nat) = State.reset.id.job.toNat ∧ (0 : Nat) = State.reset.ownDie ∧
      frameTarget ⟨[0, 1, 2, 0, 0, 1, 0, 0]⟩ ≠ State.reset.ownDie) := by
  refine ⟨?_, ?_, ?_, ?_⟩ <;> decide +kernel


/-! ## Witnesses of further clauses -/

def gate0 : Gate := { cells := [(2 ^ 48 + 5, 7)], iss := 3, local_ := 4, reach := 5, commit := 0 }
def withFlow (s : State) (f : Flow) : State := withIss s fun i => { i with flow := f }
/-- An ifence beside ist writes of cycles before and after the sixth cycle back. -/
def fenced : State :=
  let s := withIss (main 3) (fun i => { i with ifence := true })
  { s with run := 10, core := { s.core with loose := [3, 4, 5, 9], lbuf := [(0, Vector.replicate 4 0)] } }
def trig (c : Nat) (lines : List Nat) : Trigger :=
  { cause := c, smask := 1, slot := 0, lane := 0, exp := 0, obs := 0, word := 5, baddr := 0, addr := 0, detail := 0x77, info := 0x12345678,
    iss := 0, lost := [], lines := lines }
/-- A trigger in a panel that consumed lines before. -/
def rolls (g : Trigger) (irrev : Bool) (retry : Nat) (eaten : List Nat) : State :=
  let p := (withPanel (main 3) irrev retry).core
  { withIss (main 3) (fun i => { i with trigger := some g }) with found := { p with panel := p.panel.map fun q => { q with eaten := eaten } } }
def inRewind (s : State) (g : Trigger) : Bool :=
  s.ctx == .main && s.core.slot == 3 && s.core.iss.hold == none && s.core.iss.trap == none && s.core.iss.trigger == some g &&
    s.sys.engine == none && overflowTrap s == none && !s.liningReady && !s.runsAhead && !s.sys.inject.getLsbD 63 && decide (g.cause < 16)
/-- A panel with a gated store, a held command, and a store of the bundle. -/
def ending (f : Issue → Issue) : State :=
  let s := withIss (withPanel (main 3) false 1) fun i => f { i with stores := [(0, { gate0 with iss := 9 })] }
  { s with core := { s.core with panel := s.core.panel.map (fun q => { q with gates := [gate0] }), copyQ := [cmd (.mzero 0) true []], nextId := 8 } }
/-- The end of the bundle has nothing of the kinds that the clauses about ends exclude. -/
def endsPlain (s : State) : Bool :=
  s.core.iss.tack == none && s.core.iss.agree == none && s.core.iss.notch == none && decide (s.core.regs.depth = 0)
def quietAround (s : State) : Bool :=
  s.running == [] && s.arriving == [] && s.lin.stores == [] && s.core.flights == [] && s.core.iss.performs == []

theorem witness_CommittedBundleAdvances_ifence :
    LastSlotClean fenced ∧ fenced.core.iss.ifence = true ∧ fenced.core.loose ≠ [] ∧ fenced.core.regs.depth = 0 ∧
      fenced.core.iss.flow = .none ∧ fenced.core.iss.tack = none ∧ fenced.core.iss.stop = none ∧ fenced.core.iss.soft = none ∧
      fenced.core.iss.agree = none ∧ fenced.core.iss.notch = none ∧ fenced.core.iss.seam = none := by
  unfold LastSlotClean
  decide +kernel

theorem witness_FlowOfCommittedBundles_skip :
    let s := withFlow (main 3) (.skip 0x40);
    LastSlotClean s ∧ s.core.iss.flow = .skip 0x40 ∧ s.core.iss.tack = none ∧ s.core.iss.stop = none ∧ s.core.iss.soft = none ∧
      s.core.iss.agree = none ∧ s.core.iss.notch = none ∧ s.core.iss.seam = none := by
  unfold LastSlotClean
  decide +kernel

/-- Two levels that close together, one that closes inside one that goes back, and one inside one that ends later. -/
theorem witness_FlowOfCommittedBundles_levels :
    (let s := withLoop (withLoop (main 3) 0 ⟨true, 0, 0, 0, 1⟩) 1 ⟨true, 0, 0, 0, 1⟩;
      LastSlotClean s ∧ s.core.regs.depth = 2 ∧ s.core.iss.flow = .none ∧ ∀ i, 0 ≤ i → i < 2 → (s.core.regs.loop i).valid = true ∧
        (s.core.regs.loop i).stop.toNat = s.core.bundle.addr.toNat / 16 ∧ (s.core.regs.loop i).count = 0) ∧
    (let s := withLoop (withLoop (main 3) 0 ⟨true, 0, 0, 5, 1⟩) 1 ⟨true, 0, 0, 0, 1⟩;
      LastSlotClean s ∧ s.core.regs.depth = 2 ∧ s.core.iss.flow = .none ∧ (∀ i, 1 ≤ i → i < 2 → (s.core.regs.loop i).valid = true ∧
        (s.core.regs.loop i).stop.toNat = s.core.bundle.addr.toNat / 16 ∧ (s.core.regs.loop i).count = 0) ∧
        (s.core.regs.loop 0).valid = true ∧ (s.core.regs.loop 0).stop.toNat = s.core.bundle.addr.toNat / 16 ∧ (s.core.regs.loop 0).count ≠ 0) ∧
    (let s := withLoop (withLoop (main 3) 0 ⟨true, 0, 7, 5, 1⟩) 1 ⟨true, 0, 0, 0, 1⟩;
      LastSlotClean s ∧ s.core.regs.depth = 2 ∧ s.core.iss.flow = .none ∧ (s.core.regs.loop 1).count = 0 ∧
        (s.core.regs.loop 0).stop.toNat ≠ s.core.bundle.addr.toNat / 16) := by
  unfold LastSlotClean
  refine ⟨?_, ?_, ?_⟩ <;> decide +kernel

/-- Handle and page faults, and lines consumed before and for the first time, inside an open panel and an irrevocable one. -/
theorem witness_RollbackRestoresPanelEntry_causes :
    (∀ x ∈ ([(trig 5 [], 1, []), (trig 6 [], 2, []), (trig 3 [9], 2, [4, 9]), (trig 3 [9], 1, [4])] : List (Trigger × Nat × List Nat)),
      inRewind (rolls x.1 false x.2.1 x.2.2) x.1 = true ∧
      (rolls x.1 false x.2.1 x.2.2).found.panel.map (fun p => (p.irrev, p.retry, p.eaten)) = some (false, x.2)) ∧
    ((trig 3 [9]).lines.find? fun l => [4, 9].contains l) = some 9 ∧ ((trig 3 [9]).lines.find? fun l => [4].contains l) = none ∧
    (main 3).xlate.confl = 0 := by
  refine ⟨?_, ?_, ?_, ?_⟩ <;> decide +kernel

theorem witness_IrrevocablePanelTraps_lines :
    inRewind (rolls (trig 3 [9]) true 1 [4]) (trig 3 [9]) = true ∧
      (rolls (trig 3 [9]) true 1 [4]).found.panel.map (fun p => (p.irrev, p.eaten)) = some (true, [4]) := by
  decide +kernel

theorem witness_StopsAtTheEndOfABundle_stores :
    (let s := ending fun i => { i with stop := some .halt };
      LastSlotClean s ∧ s.core.iss.stop = some .halt ∧ endsPlain s = true ∧ s.core.iss.soft = none ∧ s.core.iss.seam = none ∧
        quietAround s = true ∧ s.core.queued ≠ [] ∧ ∀ c ∈ s.core.queued, c.id < s.core.nextId) ∧
    (let s := ending fun i => { i with stop := some (.seam 2), seam := some 7 };
      LastSlotClean s ∧ s.core.iss.stop = some (.seam 2) ∧ endsPlain s = true ∧ s.core.iss.soft = none ∧ s.core.iss.seam = some 7 ∧
        quietAround s = true) ∧
    (let s := ending fun i => { i with stop := some .idle };
      LastSlotClean s ∧ s.core.iss.stop = some .idle ∧ endsPlain s = true ∧ s.core.iss.soft = none ∧ s.core.iss.seam = none) ∧
    (let s := ending fun i => { i with soft := some (1, 1023) };
      LastSlotClean s ∧ s.core.iss.stop = none ∧ endsPlain s = true ∧ s.core.iss.soft = some (1, 1023) ∧ s.core.iss.seam = none) := by
  unfold LastSlotClean
  refine ⟨?_, ?_, ?_, ?_⟩ <;> decide +kernel

/-- R115: values with a bit set that must be zero, one for each register that has such bits, and legal ones. -/
theorem witness_SystemRegisterResults_reserved :
    (∀ x ∈ ([(0x20, 5, 27), (0x200000, 21, 7), (0x20000, 17, 22), (0x100000000, 32, 1), (0x8000000020000, 49, 15), (0x1000000000000, 48, 3),
      (0x1000000000000, 48, 6)] : List (Dword × Nat × Nat)), x.1.toNat / 2 ^ x.2.1 % 2 ^ x.2.2 ≠ 0) ∧
    (0 : Dword).extractLsb' 0 3 ≠ 1 ∧ (0 : Dword).extractLsb' 0 3 ≠ 3 ∧ sysLegal 0 0x80 = false ∧ lin.status ≠ .running ∧
    (∀ d, lin.status ≠ .halting d) ∧ lin.rp 0 = true := by
  refine ⟨by decide +kernel, by decide, by decide, by decide +kernel, by decide, fun d h => ?_, by decide +kernel⟩
  cases h

/-- An access that is not valid, of a kind the context may not use, beyond its page, without permission, and one not aligned. -/
def reaching (region : Nat) (f : Handle → Handle) (v : Dword) : State := withA (withHandle (main 0) (f (handle region 0))) v

theorem witness_ForbiddenLoads_store :
    ((reaching 2 (fun h => { h with valid := false }) 8).rh 1).valid = false ∧
    (let s := reaching 6 id 8; (s.rh 1).valid = true ∧ s.kindAllowed 1 (s.rh 1) .store true = false ∧ s.kindAllowed 1 (s.rh 1) .read false = false) ∧
    (let s := reaching 2 id 0xFFFC; s.kindAllowed 1 (s.rh 1) .store true = true ∧ spanSize (s.rh 1).ps < (s.ra 1).toNat + 8) ∧
    (let s := reaching 2 (fun h => { h with rwam := 11 }) 8; s.kindAllowed 1 (s.rh 1) .store true = true ∧
      (s.ra 1).toNat + 8 ≤ spanSize (s.rh 1).ps ∧ (s.rh 1).allows .w = false) ∧
    (let s := reaching 3 (fun h => { h with rwam := 14 }) 8; s.kindAllowed 1 (s.rh 1) .store true = true ∧ (s.rh 1).region = 3 ∧
      (s.rh 1).allows .m = false) ∧
    (let s := reaching 2 id 12; (s.rh 1).allows .w = true ∧ (s.ra 1).toNat + 8 ≤ spanSize (s.rh 1).ps ∧ (s.ra 1).toNat % 8 ≠ 0) := by
  refine ⟨?_, ?_, ?_, ?_, ?_, ?_⟩ <;> decide +kernel

/-- A slot without a group, and a group that does not have this member. -/
theorem witness_CollectivesWithoutGroupTrap :
    ((main 0).core.regs.rg 1).v = false ∧
    (let s := inGroup 0 { alone with members := [⟨0, 1, true⟩] };
      (s.core.regs.rg 1).v = true ∧ (s.group (s.core.regs.rg 1).gid.toNat).isSome = true ∧
        (s.group (s.core.regs.rg 1).gid.toNat).all (fun gr => !s.isMember gr (s.core.regs.rg 1).rank.toNat) = true) := by
  refine ⟨?_, ?_⟩ <;> decide +kernel

/-- Bytes in memory, and a poisoned line. -/
def withBytes (s : State) : State := { s with mem := ⟨[(2 ^ 48 + 8, 0xFE), (2 ^ 48 + 9, 0xFF), (2 ^ 49 + 64, 3), (2 ^ 49 + 65, 4)], [2 ^ 42 + 5], []⟩ }
/-- A landing of the main context, and of the lining, on a machine where nothing else is under way. -/
def landing (l : Landing) : State := { withBytes (main 0) with core := { (main 0).core with flights := [flight l 0 false] } }
def liningLanding (l : Landing) : State := { withBytes lin with lin := { lin.lin with flights := [flight l 0 false] } }
/-- What both statements about landings assume of the machine. -/
def landsAlone (s : State) : Bool :=
  s.core.agree == none && s.arrivals == [] && s.earlier == [] && s.running == [] && s.arriving == [] && s.drains == [] &&
    s.core.panel == none && s.core.iss.trigger == none && decide (s.core.flights.length ≤ 1)
def atomicAt (a : Nat) : AtomicOp := { minor := 0, wide := false, addr := a, off := 8, opnd := 3, cmp := 0 }

theorem witness_RegisterResultsLand_kinds :
    (∀ l ∈ [Landing.sys 1 0x1F, .sys 4 0x1F, .tileState 255 3, .pop 7, .fmt 1, .aseq 31 0xFFFF],
      landsAlone (landing l) = true ∧ (landing l).core.flights = [flight l 0 false] ∧ (landing l).core.backs = []) ∧
    (let s := State_with (landing (.a 4 1000)) fun r => r.setDelta 4 5 7;
      ∀ b ∈ [0, 5], ({ s with core := { s.core with backs := [b] } } : State).core.backs = [b] ∧ b < 6) ∧
    (main 0).core.flights = [] := by
  refine ⟨?_, ?_, ?_⟩ <;> decide +kernel

theorem witness_LoadsAndAtomicsLand :
    (∀ l ∈ [Landing.load (.scalar 5 true) [⟨0, 2 ^ 48 + 8, 2⟩], .load (.mask 0) [⟨0, 2 ^ 49 + 64, 256⟩],
        .load (.vec 5) [⟨3, 2 ^ 49 + 64, 4⟩, ⟨511, 2 ^ 48 + 8, 4⟩], .load (.scalar 5 true) [⟨0, 2 ^ 48 + 64 * 5 + 8, 2⟩],
        .atomic 5 (atomicAt (2 ^ 48 + 8)), .atomic 5 (atomicAt (2 ^ 49 + 64))],
      landsAlone (landing l) = true ∧ (landing l).core.flights = [flight l 0 false]) ∧
    (∀ a < 2, (withBytes (main 0)).mem.poison.contains ((2 ^ 48 + 8 + a) / 64) = false) ∧
    (withBytes (main 0)).mem.poison.contains ((2 ^ 48 + 64 * 5 + 8) / 64) = true ∧
    (vaultKey (flight (.atomic 5 (atomicAt (2 ^ 48 + 8))) 0 false)).isSome = true ∧
    vaultKey (flight (.atomic 5 (atomicAt (2 ^ 49 + 64))) 0 false) = none ∧
    (∀ l ∈ atomicLines (withBytes (main 0)).mem (atomicAt (2 ^ 48 + 8)), (withBytes (main 0)).mem.poison.contains l = false) := by
  refine ⟨?_, ?_, ?_, ?_, ?_, ?_⟩ <;> decide +kernel

theorem witness_LiningResultsLand :
    (∀ l ∈ [Landing.s 31 7, .p 7 true, .a 15 7, .h 12 (handle 2 0), .hdrop 13, .load (.scalar 5 true) [⟨0, 2 ^ 48 + 8, 2⟩],
        .atomic 5 (atomicAt (2 ^ 49 + 64)), .acset 63 7, .acadd 63 7, .sys 5 0x1F00FF, .sys 8 7, .sys 0xF (2 ^ 63), .sys 0x13 (2 ^ 56),
        .ctxReg 31 3 7, .ctxReg 0x28 1 0x1F, .ctxReg 0x50 0 0x11FF0, .ctxReg 0x63 0 (2 ^ 32), .ctxReg 0xFD 0 7, .ctxReg 0x13F 0 (2 ^ 32)],
      landsAlone (liningLanding l) = true ∧ (liningLanding l).lin.flights = [flight l 0 false]) ∧
    (∀ st ∈ [Status.idle, .held, .trapped], (({ liningLanding (.sys 0xF (2 ^ 63)) with status := st } : State).status = st ∧
      (liningLanding (.sys 0xF (2 ^ 63))).sys.seamreq.getLsbD 63 = false)) ∧
    regionOf (2 ^ 48 + 8) < 3 := by
  refine ⟨?_, ?_, ?_⟩ <;> decide +kernel

/-- The page table of `paged`, with the walk asked for by the xlat of the bundle at the pc, and a lining's drain. -/
def awaited : State := paged.withFetchWord 32 (encode (.xlat 1 0))

theorem witness_CoreEventsTakeEffect_walks :
    awaited.walkAwaited = true ∧ paged.walkAwaited = false ∧ awaited.xlate.walks.map (·.ended) = [none] ∧
    (liningLanding (.drain 0)).lin.flights.length = 1 := by
  refine ⟨?_, ?_, ?_, ?_⟩ <;> decide +kernel

/-- A machine whose engine queue holds one released command, on memory whose wipes are over. -/
def queued (c : Cmd) (m : List Host.Cell) : State :=
  { main 0 with wipes := [], mem := ⟨m, [], []⟩, core := { (main 0).core with copyQ := [c], matrixQ := [c] } }
/-- A matrix command under a format, with tiles 5 and 6 square and of type t. -/
def matrixOn (op : CmdOp) (fmt : Word) (t : BitVec 3) : State :=
  withTile (withTile (queued { cmd op false [] with fmt := fmt } []) 5 (square 2 t)) 6 { square 2 t with base := 0x10000 }
def quietMachine (s : State) : Bool :=
  s.running == [] && s.arriving == [] && s.drains == [] && s.mem.broken == [] && s.mem.wf && s.wipes == []
/-- A descriptor of one dimension in the core's scratchpad: SRC, DST, CTRL, COUNT0, SSTR0, DSTR0, C5, IDX, NIDX. -/
def descBytes (src dst ctrl c0 ss ds c5 idx nidx : Nat) : List Byte :=
  leBytes 8 src ++ leBytes 8 dst ++ leBytes 4 ctrl ++ leBytes 12 0 ++ leBytes 4 c0 ++ leBytes 4 ss ++ leBytes 4 ds ++ leBytes 4 0 ++
    ((List.range 4).flatMap fun _ => leBytes 16 1) ++ leBytes 16 c5 ++ leBytes 8 0xAB ++ leBytes 8 idx ++ leBytes 4 nidx ++ leBytes 44 0
def descOn (minor : Nat) (bs : List Byte) : State :=
  queued (cmd (.copyDesc minor { handle 2 0 with ps := 3 } 0x1000) false []) (cellsPutAll [] (cellsAt (scratchBase 0 0 + 0x1000) bs))
def descFits (minor : Nat) (bs : List Byte) : Bool × Bool :=
  let s := descOn minor bs
  let d : Desc := leNat (s.mem.bytes (scratchBase 0 0 + 0x1000) 192)
  let list := if minor = 2 ∨ minor = 3 then indexWords d.nidx (s.mem.bytes (s.pad d.idx) (4 * d.nidx)) else []
  (d.srck && d.dstk && !d.gen && d.shapeOk minor && d.placesOk minor (d.elements minor list), d.shapeOk minor && d.placesOk minor (d.elements minor list))

theorem witness_MatrixCommandsCompute :
    (∀ x ∈ ([(.mma 63 5 6 false, 1, 1), (.mma 0 5 6 true, 1, 1), (.mma 63 5 6 true, 3, 3), (.mload 63 5, 1, 0), (.mdrain 63 (some 5) 0 7 true, 0, 0),
        (.mdrain 0 (some 5) 0 7 false, 0x58, 3), (.mdrain 63 none 2 7 false, 8, 1)] : List (CmdOp × Word × BitVec 3)),
      quietMachine (matrixOn x.1 x.2.1 x.2.2) = true ∧
      (matrixOn x.1 x.2.1 x.2.2).core.queue .matrix = [{ cmd x.1 false [] with fmt := x.2.1 }] ∧
      ((matrixOn x.1 x.2.1 x.2.2).tile 5).type = x.2.2 ∧ ((matrixOn x.1 x.2.1 x.2.2).tile 5).base.toNat % 64 = 0) ∧
    ((0x58 : Word).extractLsb' 3 3 = 3 ∧ (0x58 : Word).getLsbD 6 = true ∧ (8 : Word).extractLsb' 3 3 = 1 ∧ (3 : Word).extractLsb' 0 3 = 3) := by
  refine ⟨?_, ?_⟩ <;> decide +kernel

theorem witness_CopyCommandsMoveBytes :
    (∀ x ∈ ([(1, descBytes 0x100 0x101 3 2 1 1 1 0 0), (2, descBytes 0x100 0x200 3 2 1 1 0 0x800 1), (3, descBytes 0x100 0x200 3 2 1 1 0 0x800 1),
        (4, descBytes 0x100 0x200 7 2 2 2 1 0 0), (5, descBytes 0x100 0x200 3 2 1 1 1 0 0)] : List (Nat × List Byte)),
      quietMachine (descOn x.1 x.2) = true ∧ (descFits x.1 x.2).1 = true) ∧
    (∀ x ∈ ([(1, descBytes 0x100 0x200 3 0 1 1 1 0 0), (1, descBytes 0x1FFFFF 0x200 3 2 1 1 1 0 0)] : List (Nat × List Byte)),
      (descFits x.1 x.2).2 = false) ∧
    (let s := withTile (queued (cmd (.copyTile (handle 2 0) 0x2000 5) false [5]) []) 5 (square 1 3);
      quietMachine s = true ∧ (s.tile 5).base.toNat % 64 = 0 ∧ (s.tile 5).footprint % 64 = 0 ∧ s.core.queue .copy = [cmd (.copyTile (handle 2 0) 0x2000 5) false [5]]) := by
  refine ⟨?_, ?_, ?_⟩ <;> decide +kernel

/-- A busy clause engine, a copy command whose walk must wait, and a matrix command that pops a tile. -/
def walkFirst : State :=
  let s := queued (cmd (.copyDesc 1 { handle 2 0 with ps := 3 } 0x1000) false []) (cellsPutAll [] (cellsAt (scratchBase 0 0 + 0x1000) (descBytes 0x100 0x200 2 2 1 1 1 0 0)))
  { s with xlate := { s.xlate with walks := [⟨0x40000000000, false, none⟩] } }

theorem witness_EnginesStartCommittedCommands_waits :
    (let c := cmd (.copyDesc 1 { handle 2 0 with ps := 3 } 0x1000) false []; walkFirst.core.queue .copy = [c] ∧ c.held = false ∧
      walkFirst.walksWait (c.pages (walkFirst.keptOf c)) = true) ∧
    (let c := cmd (.copyTile (handle 2 0) 0x2000 5) false [5]; (queued c []).core.queue .copy = [c] ∧
      (queued c []).walksWait (c.pages ((queued c []).keptOf c)) = false) ∧
    (let c := cmd (.clause 3 0 Handle.reset) false []; let s : State := { withQueue c with running := [running c noEffect] };
      s.core.queue .clause = [c] ∧ c.held = false ∧ ¬ ∀ x ∈ s.running, x.cmd.engine ≠ .clause) := by
  refine ⟨?_, ?_, ?_⟩ <;> decide +kernel

theorem witness_CommandsComplete_pops :
    let x := running { cmd (.mload 63 5) false [] with pops := [255] } noEffect
    let s : State := { main 0 with running := [x] }
    s.running = [x] ∧ x.ended = false ∧ x.cmd.engine = .matrix ∧ (∀ n ∈ x.cmd.pops, n < 256) ∧ (∀ n ∈ x.cmd.writes, n < 256 ∧ n ∉ x.cmd.pops) ∧
      s.arriving = [] := by
  decide +kernel

theorem witness_PacketsAndRepliesTakeEffect_blocks :
    (∀ op ∈ [CmdOp.thimble 0 Handle.reset 0 0x400, .post 0 0x400, .take 1 0x400 true], ∀ code ∈ [0, 7],
      let x := running (cmd op false []) noEffect
      let s : State := { main 0 with running := [x] }
      let r : Reply := { id := 7, code := code, data := [(0, 5), (7, 6)] }
      s.running = [x] ∧ x.eff.stores = [] ∧ s.arriving = [] ∧ r.id = x.cmd.id ∧ s.mem.broken = [] ∧ s.mem.wf = true ∧
        (r.data.map (·.1)).Nodup ∧ ∀ e ∈ r.data, e.1 < 8) ∧
    (0x400 : Dword).toNat % 64 = 0 := by
  refine ⟨?_, ?_⟩ <;> decide +kernel

/-- A slot of a request on its way to die 3, a host-bound packet that has arrived, and links and positions that this frame uses. -/
def passing : RingSlot := { ringSlot 1 3 false (.host 0x100 [1, 2, 3]) with len := 3 }
def hostSlot (idx cnt : Nat) : RingSlot := { ringSlot 5 0 false (.host 0x100 [1, 2, 3]) with len := 3, idx := idx, cnt := cnt }
def usedUp (l : List (Nat × Nat)) : State := withFabric fun f => { f with used := l }
def hostRing (credit : Bool) (parts : List RingSlot) : State := withFabric fun f => { f with credit := credit, parts := parts }
def goodSlot (p : RingSlot) : Bool := p.typ != 0 && decide (p.typ.toNat < 7) && unitValid p.dunit.toNat
def onLink (f : LinkState → LinkState) : State :=
  { main 0 with ptime := 9000, fabric := { base.fabric with links := base.fabric.links.set 0 (f (base.link 0)) } }
/-- A flit as its sender makes it, and one whose check fails. -/
def goodFlit (seq : Nat) : Flit := flitOf seq 0x1234
def badFlit (seq : Nat) : Flit := { goodFlit seq with crc := 0 }

theorem witness_SlotsFlitsAndLinks_positions :
    (goodSlot passing = true ∧ passing.via ≠ (main 0).id.die ∧ ((usedUp []).eitherWay false true 3).isSome = true ∧
      ((usedUp [(0, 0)]).eitherWay false true 3).isSome = true ∧ ((usedUp ((List.range 16).map fun n => (n, 0))).eitherWay false true 3).isSome = true) ∧
    (∀ d ∈ [(3 : BitVec 10), 19], let p := { passing with via := 0, ddie := d };
      goodSlot p = true ∧ p.via = (main 0).id.die ∧ slotGoal p ≠ (main 0).ownDie ∧ ((main 0).nextLeg p).isSome = true) ∧
    (let b : Bounce := { slot := { passing with via := 0 }, n := 1, due := some 9 }; let s := withFabric fun f => { f with bounces := [b] };
      s.fabric.bounces[0]? = some b ∧ (s.nextLeg b.slot).isSome = true) := by
  refine ⟨?_, ?_, ?_⟩ <;> decide +kernel

theorem witness_SlotsFlitsAndLinks_host :
    (∀ x ∈ ([(true, hostSlot 0 1, []), (true, hostSlot 0 2, []), (true, hostSlot 1 2, [{ hostSlot 0 2 with seq := (hostSlot 1 2).seq - 1, body := .host 0x777 [9] }]),
        (false, hostSlot 0 1, []), (false, { hostSlot 0 1 with lap := true, sdie := 3 }, []), (false, { hostSlot 0 1 with lap := true, sdie := 19, rack := true }, [])] :
        List (Bool × RingSlot × List RingSlot)),
      goodSlot x.2.1 = true ∧ x.2.1.via = (hostRing x.1 x.2.2).id.die ∧ x.2.1.bnc = false ∧ x.2.1.ddie = (hostRing x.1 x.2.2).id.die ∧
        (hostRing x.1 x.2.2).fabric.credit = x.1 ∧ (hostRing x.1 x.2.2).fabric.parts = x.2.2) ∧
    ((hostRing false []).eitherWay false true 3).isSome = true ∧ ((hostRing false []).eitherWay true true 16).isSome = true := by
  refine ⟨?_, ?_, ?_⟩ <;> decide +kernel

theorem witness_SlotsFlitsAndLinks_flits :
    (flitOk (goodFlit 0) = true ∧ flitOk (badFlit 0) = false ∧ (goodFlit 0).kind = .flit ∧ linkNum ⟨false, true, 0⟩ = 0) ∧
    ((onLink id).link 0).up = true ∧ ((onLink id).link 0).expect = (goodFlit 0).seq ∧ ((onLink id).link 0).got.length < 4 ∧
    (4 ≤ ((onLink fun x => { x with expect := 4, got := [1, 2, 3, 4] }).link 0).got.length) ∧
    (let x := (onLink fun x => { x with errs := List.replicate 256 5 }).link 0;
      256 ≤ (x.errs.filter fun e => decide ((onLink id).ptime / 9 < e + 1000000)).length) := by
  refine ⟨?_, ?_, ?_, ?_, ?_, ?_⟩ <;> decide +kernel

theorem witness_FramesHealthAndTime_clauses :
    (let s : State := { main 0 with deadDies := [1, 9], wipes := [(vaultBase 1 0, 100)], fabric := { base.fabric with resets := [1] } };
      ¬ ((1 : BitVec 10).toNat / 8 ≠ s.ownDie / 8 ∨ (s.fabric.resets.contains 1 = true ∧ ∀ w ∈ s.wipes, ¬ (dieOf w.1 ≤ 1 ∧ 1 ≤ dieOf (w.1 + w.2 - 1)))) ∧
      (9 : BitVec 10).toNat / 8 ≠ s.ownDie / 8) ∧
    (let s : State := { main 0 with deadDies := [1], wipes := [(vaultBase 0 0, 100)], fabric := { base.fabric with resets := [1] } };
      s.fabric.resets.contains 1 = true ∧ ∀ w ∈ s.wipes, ¬ (dieOf w.1 ≤ 1 ∧ 1 ≤ dieOf (w.1 + w.2 - 1))) ∧
    (∀ m ∈ [SystemMsg.master 5, .beacon 1, .returned [(2 ^ 48, 64), (2 ^ 50, 3)]], let p := ringSlot 6 0 false (.system m);
      goodSlot p = true ∧ p.ddie = (main 0).id.die ∧ p.body = .system m) ∧
    (regionOf (2 ^ 48) ≤ 1) ∧
    (let s : State := { main 0 with boot := { base.boot with stage := 2 }, time := { base.time with master := 3 } };
      s.isTimeMaster = false ∧ s.boot.stage = 2 ∧ s.ownDie % 4 = 0) ∧
    (({ main 0 with routine := some { routine 0 with die := 1 } } : State).routine.map (·.die) = some 1 ∧ (main 0).running = [] ∧ (main 0).groups = []) := by
  refine ⟨?_, ?_, ?_, ?_, ?_, ?_⟩ <;> decide +kernel

/-! ## Witnesses of the statements about values -/

/-- Words of each kind, in each format: the highest finite one, a zero, an infinity, and NaNs of both kinds. -/
theorem witness_FloatingPointIsRoundedOnce_kinds :
    (∀ F ∈ [f32, bf16, f16], finiteWord F (F.inf true - 1) ∧ finiteWord F (F.signed true 0) ∧ ¬ finiteWord F (F.inf false) ∧
      nanWord F F.nan ∧ ¬ signallingWord F F.nan ∧ signallingWord F (F.inf true + 1) ∧ F.inf true + 1 < 2 ^ F.bits ∧ F.nan < 2 ^ F.bits) := by
  unfold signallingWord nanWord finiteWord
  decide +kernel

/-- One, zero and minus one in FP32: the signs and zeros that the clauses ask for. -/
theorem witness_FloatingPointIsRoundedOnce_values :
    valueOf f32 0x3F800000 = 1 ∧ valueOf f32 0x80000000 = 0 ∧ valueOf f32 0xBF800000 = -1 ∧ finiteWord f32 0x3F800000 ∧
      finiteWord f32 0x80000000 ∧ finiteWord f32 0xBF800000 := by
  unfold finiteWord
  refine ⟨?_, ?_, ?_, by decide, by decide, by decide⟩ <;> norm_num [valueOf, signBit, f32, Nat.testBit, Nat.shiftRight_eq_div_pow]

/-- The kinds of types, and of words, that the clauses name: in E4M3 the NaN and the highest finite word. -/
theorem witness_ConversionIsRoundedOnce :
    ((3 : BitVec 3).toNat < 4 ∧ 4 ≤ (4 : BitVec 3).toNat ∧ 4 ≤ (7 : BitVec 3).toNat) ∧
    ((typeFmt 3).infs = false ∧ (0xFF : Nat) % 128 = 127 ∧ 0xFF < 2 ^ typeWidth 3 ∧ finiteWord (typeFmt 3) 0x7E ∧ ¬ finiteWord (typeFmt 3) 0xFF) ∧
    ((typeFmt 0).infs = true ∧ f32.inf true < 2 ^ typeWidth 0 ∧ nanWord (typeFmt 2) (typeFmt 2).nan) := by
  unfold nanWord finiteWord
  refine ⟨?_, ?_, ?_⟩ <;> decide +kernel

/-- Two, its negative, a value above 128 and one below −150. -/
theorem witness_FunctionsFollowTheirAlgorithms :
    (valueOf f32 0x40000000 = 2 ∧ valueOf f32 0xC0000000 = -2 ∧ valueOf f32 0x43800000 = 256 ∧ valueOf f32 0xC3800000 = -256) ∧
    (∀ x ∈ [0x40000000, 0xC0000000, 0x43800000, 0xC3800000], finiteWord f32 x) ∧ finiteWord (typeFmt 1) 0x4000 ∧
    finiteWord (typeFmt 2) 0x4000 ∧ 0x4000 < 2 ^ 16 := by
  unfold finiteWord
  refine ⟨⟨?_, ?_, ?_, ?_⟩, by decide, by decide, by decide, by decide⟩ <;> norm_num [valueOf, signBit, f32, Nat.testBit, Nat.shiftRight_eq_div_pow]

/-- The elements of each width that a mask bit has, and a bit past the last one. -/
theorem witness_VectorExchangeResults :
    (0 < 16384 / typeWidth 0 ∧ 16384 / typeWidth 0 ≤ 2047) ∧ (0 < 16384 / typeWidth 2 ∧ 16384 / typeWidth 2 ≤ 2047) ∧
    2047 < 16384 / typeWidth 6 := by
  decide +kernel

/-! ## Witnesses of the context port, the clause windows, the front end and boot -/

/-- A stopped core whose context port transfers the given sections at the bottom of its partition's vault, with bytes there. -/
def transfer (restore : Bool) (sect : BitVec 9) (bytes : List Host.Cell) : State :=
  { lin with port := { ContextPort.reset with busy := true, addr := BitVec.ofNat 52 (2 ^ 48 + 0x10000), restore := restore, sect := sect, accmask := 5 },
             wipes := [], mem := ⟨cellsPutAll [] bytes, [], []⟩ }
def quietTransfer (s : State) : Bool :=
  s.port.busy && s.saveAreaOk && s.stopped && s.drains.isEmpty && s.running.isEmpty && s.arriving.isEmpty && s.wipes.isEmpty &&
    s.mem.fields.isEmpty && s.mem.poison.isEmpty

theorem witness_KillsAndContextTransfers_port :
    (∀ r ∈ [false, true], quietTransfer (transfer r 0x1FF []) = true ∧ ∀ n < 9, (transfer r 0x1FF []).port.sect.getLsbD n = true) ∧
    ((transfer true 0x1FF []).port.accmask.getLsbD 2 = true) ∧
    (let s := transfer true 8 (cellsAt (2 ^ 48 + 0x11000) (leBytes 8 (2 ^ 62 + 0x1001)));
      quietTransfer s = true ∧ s.port.sect = 8 ∧ leNat (s.mem.bytes (2 ^ 48 + 0x11000) 8) ≠ 0 ∧
        (TileEntry.ofWord (leNat (s.mem.bytes (2 ^ 48 + 0x11000) 8))).legal = false) := by
  refine ⟨?_, ?_, ?_⟩ <;> decide +kernel

/-- A window operation of a stopped core on instance 0, which holds x. -/
def windowed (op : BitVec 2) (x : ClauseInst) : State :=
  let w : ClauseWindow :=
    { addr := BitVec.ofNat 52 (2 ^ 48), op := op, core := 0, busy := true, done := false, err := 0, mine := false, since := 0, cycles := 0 }
  { lin with
    wipes := [], clause := { ClauseArray.reset with split := 0x050000, win := ClauseArray.reset.win.set 0 w, inst := ClauseArray.reset.inst.set 0 x } }
def windowOk (s : State) : Bool :=
  let w := s.window 0
  w.busy && s.ownsCore (s.clause.owner 0) w.core.toNat && s.coreStopped w.core.toNat && w.addr.toNat % 64 == 0 &&
    s.ownsRange (s.clause.owner 0) w.addr.toNat (contextSize s.ncol)

theorem witness_ClauseWindowsTakeEffect_restore :
    (∀ b ∈ [Binding.free, .bound 0, .failed 0], windowOk (windowed 1 (ClauseInst.empty b)) = true ∧
      (windowed 1 (ClauseInst.empty b)).clauseInst 0 = ClauseInst.empty b) ∧
    (windowed 1 (ClauseInst.empty .free)).wipes = [] ∧
    readImage (fun b => (windowed 1 (ClauseInst.empty .free)).mem.byte (2 ^ 48 + b)) (windowed 1 (ClauseInst.empty .free)).ncol (.bound 0) = none ∧
    (∀ b ∈ [Binding.resident, .bound 1], windowOk (windowed 1 (ClauseInst.empty b)) = true ∧ b ≠ .free ∧ b ≠ .bound 0 ∧ b ≠ .failed 0) := by
  refine ⟨?_, ?_, ?_, ?_⟩ <;> decide +kernel

/-- A save into memory under a wipe, and a release of the context of the job that lives here. -/
theorem witness_ClauseWindowsTakeEffect_wipes :
    (let s : State := { windowed 0 (ClauseInst.empty (.bound 0)) with wipes := [(2 ^ 48, 64)] };
      windowOk s = true ∧ s.inWipe (2 ^ 48) (contextSize s.ncol) = true ∧ (windowed 0 (ClauseInst.empty (.bound 0))).inWipe (2 ^ 48) 0x110000 = false) ∧
    (let x : ClauseInst := { ClauseInst.empty .resident with job := lin.id.job }; windowOk (windowed 3 x) = true ∧
      (windowed 3 x).clauseInst 0 = x ∧ (windowed 3 x).jobLives = true) := by
  refine ⟨?_, ?_⟩ <;> decide +kernel

/-- Core 0 armed by the timed ring: no command names it; and a launch that waits for a time to come. -/
theorem witness_FrontEndCommands_armed :
    (let y : Launch := ⟨1, 0, 1, 9, ⟨0, 0, [], [], []⟩⟩;
      let x : Waiting := { what := .release y, head := head true 0xB 0 0, words := 6, since := 0, limit := 0, polled := 0 };
      let s := ringOn ready true { CommandRing.reset with wait := some x };
      (coresOf 1).any s.notNameable = true ∧ (coresOf 1).any ready.notNameable = false ∧ s.checkCores 1 = 4) ∧
    (ready.ptime / 9 < (5 : Word).toNat + 2 ^ 32 * (0 : Word).toNat) ∧
    ready.mem.fields = [] := by
  refine ⟨?_, ?_, ?_⟩ <;> decide +kernel

/-- What the GPM may give partition 6: an interleave set of another die, one of its quads, and a function; and what it may not. -/
def granting (fn : Option Nat) (g : SetGrant) : NewPartition := { image := ⟨[], []⟩, sets := [g], quads := [(1, 2)], fn := fn }
def farSet : SetGrant := { die := 1, start := 0, size := 0x20000, channels := [0, 63], granule := 65536 }

theorem witness_BootAndPower_partitions :
    (staged 2).grantable 6 (granting (some 32) farSet) = true ∧ (staged 2).grantable 6 (granting (some 33) farSet) = false ∧
    (staged 2).grantable 6 (granting none { farSet with channels := [63, 0] }) = false ∧ (staged 2).wholeOwner = none ∧
    (let b := (staged 2).boot; (∃ x ∈ b.parts, x.num = 5 ∧ x.fn ≠ none) ∧ (∀ x ∈ b.parts, x.num = 6 → x.fn = none) ∧ ∀ x ∈ b.parts, x.num ≠ 6) := by
  refine ⟨?_, ?_, ?_, ?_, ?_⟩ <;> decide +kernel

/-- Flash records at and behind the fuses, and each transition that waits for its wipe. -/
theorem witness_RecoveryFramesAct_changes :
    ((staged 0).boot.fuses ≤ (staged 0).boot.record ∧ ({ (staged 0).boot with fuses := 1 } : Boot).record < ({ (staged 0).boot with fuses := 1 } : Boot).fuses) ∧
    (∀ l ∈ [LifeCycle.provisioned, .deployed, .returned],
      ({ staged 0 with boot := { (staged 0).boot with change := some (l, [7]) } } : State).boot.change = some (l, [7])) ∧
    (staged 0).boot.change = none ∧
    (let f := frame 1 6 0; frameScope f = 1 ∧ frameLct f = 0 ∧ (∀ x ∈ (staged 2).boot.parts, x.num.toNat ≠ framePart f) ∧
      framePart f ≠ (staged 2).id.part.toNat) := by
  refine ⟨?_, ?_, ?_, ?_⟩ <;> decide +kernel
/-- A status that is a stop of the main context. -/
theorem witness_stopped : lin.status ≠ .running ∧ ∀ d, lin.status ≠ .halting d := stopped_of rfl

/-! ## Words that the manual itself writes out -/

theorem test_manual_words : reads [
    (0x185FFFFD, .br 2 0x1FFFFD), (0x20807400, .trapOp 7 2), (0x18800004, .br 4 4), (0x16000400, .amov 0 0 0), (0x0E115203, .bfx 1 2 8 3),
    (0x18000005, .br 0 5), (0x200AC000, .chkEq 5 12 0), (0x52202080, .clLd 0 1 1), (0x10500430, .cmp 1 2 0 0 2 3),
    (0x105405FD, .cmpi 1 2 0 0 2 0x1FD), (0x04110C05, .div 1 2 3 0 0), (0x04110C45, .div 1 2 3 0 1), (0x40300000, .drain 3),
    (0x22006400, .fmt 0x19 0), (0x364F2002, .ist 4 2 0 2), (0x1C018011, .loop 3 17), (0x1C801001, .loopi 4 1),
    (0x16130800, .luset 1 6 0 0), (0x16240800, .luset 2 8 0 0), (0x503A0400, .mbPost 7 4 2), (0x51528850, .mbTake 1 4 20 2 5),
    (0x22B03802, .mfsr 11 14 0 0 0)] := by decide +kernel

theorem test_manual_words_rest : reads [
    (0x12308008, .mnot 3 1 0), (0x0C908123, .movh 9 0 0x123), (0x0C900FFF, .movi 9 0 0xFFF), (0x42852000, .tset 20 2),
    (0x42450A00, .tstat 20 5), (0x2E050003, .vbcast 0 10 0 0), (0x2E348043, .vbcast 3 9 0 4), (0x2C110004, .vcmp 1 2 0 0 0 4),
    (0x30510000, .vredsum 5 2 0 0), (0x14C2A000, .xcp 12 5 1 0), (0x14202001, .xcpv 2 0 1 0), (0x40484000, .xlat 2 2),
    (0x366F6600, .ist 6 6 3 0), (0x049499D4, .crc 9 9 6 3 1), (0x04949994, .crc 9 9 6 3 0), (0x1B500000, .bswap 5 0),
    (0x1F800000, .ifence), (0x04629093, .sel 6 5 4 1 0), (0x104406FF, .cmpi 1 0 0 0 3 255), (0x36304800, .ld 3 0 4 4 0),
    (0x4D020E01, .acwait 1 0 7 1)] := by decide +kernel

/-! ## Single steps, with results worked out from the rules -/

/-- What the operation leaves on its way. -/
def sent (i : Instr) (s : State) : List Landing := match exec i s with | .next t => t.core.flights.map (·.land) | _ => []
/-- The main context with s1 = x and s2 = y. -/
def two (x y : Dword) : State := holds (holds (main 0) 1 x) 2 y
/-- The state that follows. -/
def after (i : Instr) (s : State) : State := match exec i s with | .next t => t | _ => s

/-- R86: a .w sum wraps in 32 bits and is sign-extended. -/
theorem test_add_w_wraps : sent (.add 3 1 2 0 1) (two 0x7FFFFFFF 1) = [.s 3 0xFFFFFFFF80000000] := by decide +kernel
theorem test_add_wraps : sent (.add 3 1 2 0 0) (two 0xFFFFFFFFFFFFFFFF 1) = [.s 3 0] := by decide +kernel
theorem test_sub_order : sent (.sub 3 1 2 0 0) (two 5 7) = [.s 3 0xFFFFFFFFFFFFFFFE] := by decide +kernel
/-- R86: the high half of (2^64 − 1)² is 2^64 − 2 unsigned, and 0 signed. -/
theorem test_mulhn : sent (.mulhn 3 1 2 0 0) (two 0xFFFFFFFFFFFFFFFF 0xFFFFFFFFFFFFFFFF) = [.s 3 0xFFFFFFFFFFFFFFFE] := by decide +kernel
theorem test_mulh : sent (.mulh 3 1 2 0 0) (two 0xFFFFFFFFFFFFFFFF 0xFFFFFFFFFFFFFFFF) = [.s 3 0] := by decide +kernel
/-- R86: quotients truncate toward zero, and a remainder has the dividend's sign. -/
theorem test_div_truncates : sent (.div 3 1 2 0 0) (two 0xFFFFFFFFFFFFFFF9 2) = [.s 3 0xFFFFFFFFFFFFFFFD] := by decide +kernel
theorem test_rem_sign : sent (.rem 3 1 2 0 0) (two 0xFFFFFFFFFFFFFFF9 2) = [.s 3 0xFFFFFFFFFFFFFFFF] := by decide +kernel
theorem test_div_by_zero : sent (.div 3 1 2 0 0) (two 5 0) = [.s 3 0xFFFFFFFFFFFFFFFF] := by decide +kernel
theorem test_remn_by_zero : sent (.remn 3 1 2 0 0) (two 5 0) = [.s 3 5] := by decide +kernel
theorem test_shl_counts_modulo : sent (.shl 3 1 2 0 0) (two 3 65) = [.s 3 6] := by decide +kernel
theorem test_sar_fills : sent (.sar 3 1 2 0 1) (two 0x80000000 33) = [.s 3 0xFFFFFFFFC0000000] := by decide +kernel
theorem test_minn_unsigned : sent (.minn 3 1 2 0 0) (two 0xFFFFFFFFFFFFFFFF 1) = [.s 3 1] := by decide +kernel
/-- R87: the CRC-32C remainder of a last byte 1 after zeros is the published table's entry for 1. -/
theorem test_crc_table : sent (.crc 3 1 2 0 0) (two 0 0x0100000000000000) = [.s 3 0xF26B8303] := by decide +kernel
theorem test_movh : sent (.movh 1 0 0x123) (two 5 0) = [.s 1 0x5123] := by decide +kernel
theorem test_clz_of_zero : sent (.clz 3 1) (two 0 0) = [.s 3 64] := by decide +kernel
theorem test_bfi : sent (.bfi 1 2 4 7) (two 0xFFFFFFFFFFFFFFFF 0x12) = [.s 1 0xFFFFFFFFFFFFF12F] := by decide +kernel
theorem test_bfx_top : sent (.bfx 3 1 63 0) (two 0x8000000000000000 0) = [.s 3 1] := by decide +kernel
theorem test_sext : sent (.sext 3 1 7) (two 0x80 0) = [.s 3 0xFFFFFFFFFFFFFF80] := by decide +kernel
/-- R91: −1 is less than 1 signed (cc 2), and not unsigned (cc 4). -/
theorem test_cmp_lt : sent (.cmp 3 2 0 0 1 2) (two 0xFFFFFFFFFFFFFFFF 1) = [.p 3 true] := by decide +kernel
theorem test_cmp_ltn : sent (.cmp 3 4 0 0 1 2) (two 0xFFFFFFFFFFFFFFFF 1) = [.p 3 false] := by decide +kernel
/-- R92: the mask of the first three elements. -/
theorem test_mset : sent (.mset 3 1 0) (two 3 0) = [.m 3 (BitVec.allOnes 2048) 7] := by decide +kernel
/-- R40: a write to s0 is discarded, and p0 reads as true. -/
theorem test_s0_discards : ((Regs.reset.setS 0 0 9).cluster 0).rs 0 = 0 ∧ ((Regs.reset.setP 0 0 false).cluster 0).rp 0 = true := by decide +kernel

/-- IEEE 754 in FP32: 1 + 1; a tie rounds to even; a sum of opposite numbers is +0. -/
theorem test_add_f32 : (addE f32 0x3F800000 0x3F800000).1 = 0x40000000 ∧ (addE f32 0x3F800000 0x33800000).1 = 0x3F800000 ∧
    (addE f32 0x3F800001 0x33800000).1 = 0x3F800002 ∧ (addE f32 0x3F800000 0xBF800000).1 = 0 := by decide +kernel
theorem test_mul_overflows : (mulE f32 0x7F000000 0x7F000000).1 = 0x7F800000 := by decide +kernel
/-- One rounding: (1 + 2^−12)² − (1 + 2^−11) is 2^−24 exactly. -/
theorem test_fma_rounds_once : (fmaE f32 false true 0x3F800800 0x3F800800 0x3F801000).1 = 0x33800000 := by decide +kernel
theorem test_div_f32 : (divE f32 0x3F800000 0x40400000).1 = 0x3EAAAAAB ∧ (divE f32 0x3F800000 0).1 = 0x7F800000 := by decide +kernel
theorem test_sqrt_f32 : (sqrtE f32 0x40800000).1 = 0x40000000 := by decide +kernel
theorem test_exp2_f32 : (exp2E 0x40400000).1 = 0x41000000 := by decide +kernel
theorem test_rcp_f32 : (rcpE 0x40000000).1 = 0x3F000000 := by decide +kernel
/-- R139: 2.5 to even is 2; −1.5 toward zero is −1. -/
theorem test_convert_to_integer : (convertE 0 4 (Mode.ofCode 0) false false false 0x40200000).1 = 2 ∧
    (convertE 0 4 (Mode.ofCode 1) false false false 0xBFC00000).1 = 0xFFFFFFFF := by decide +kernel

/-- The SHA-256 of "abc" (FIPS 180-4) begins BA7816BF. -/
theorem test_sha256_abc : (sha256 [0x61, 0x62, 0x63]).take 4 = [0xBA, 0x78, 0x16, 0xBF] := by decide +kernel

/-- R150's example: the trap of a chk.eq at 0x04F0 in slot 0. -/
theorem test_trapinfo_of_manual :
    let s := withIss { main 3 with core := { (main 3).core with bundle := { addr := 0x4F0, words := Vector.replicate 4 0x02000000, header := none } } }
      fun i => { i with trap := some { cause := 5, smask := 1, reason := 0, code := 0, detail := 0x0002004000020000 } }
    (after .nop s).sys.trapinfo0 = 0x05100000000004F0 ∧ (after .nop s).sys.trapinfo1 = 0x0002004000020000 ∧ (after .nop s).status = .trapped := by
  decide +kernel

/-- CRC-32C of the published check string "123456789", and of 32 zeros (RFC 3720, B.4). -/
theorem test_crc32c : crcOf [0x31, 0x32, 0x33, 0x34, 0x35, 0x36, 0x37, 0x38, 0x39] = 0xE3069283 ∧
    crcOf (List.replicate 32 0) = 0x8A9136AA := by decide +kernel

/-- R283: TYPE 1, SDIE 0, SCORE 0, DDIE 1, DUNIT 67, PARTITION 5, SEQ 0, flags, LEN 0, GCRC 0, from bit 255 of the header down. -/
theorem test_slot_header : slotHeader (ringSlot 1 1 true .idle) =
    0b0001_0000000000_0000_0000000001_1000011_000101_0000000000000000_0_1_000000000_00000000000000000000000000000000 := by decide +kernel

/-- R13, R217: a load takes its bytes least significant first, and code 0 extends the sign of one byte. -/
theorem test_load_lands :
    let s : State := { flying (.load (.scalar 3 true) [⟨0, 2 ^ 49, 2⟩]) 0 false 0 0 with mem := ⟨[(2 ^ 49, 0x34), (2 ^ 49 + 1, 0x92)], [], []⟩ }
    ((after (.resultLand .main) s).core.regs.cluster 1).rs 3 = 0xFFFFFFFFFFFF9234 := by decide +kernel

/-- R100: a loopi of four iterations opens a level whose count is three. -/
theorem test_loopi_opens : (after (.loopi 4 1) (main 0)).core.iss.flow = .openLoop 1 3 := by decide +kernel
theorem test_br_back : (after (.br 0 0x1FFFFD) { main 0 with core := { (main 0).core with bundle := { addr := 0x100, words := Vector.replicate 4 0, header := none } } }).core.iss.flow =
    .jump 0xD0 := by decide +kernel

/-- R231: the fields of a tile definition. -/
theorem test_tdef : sent (.tdef 5 1) (two (BitVec.ofNat 64 (127 * 2 ^ 52 + 127 * 2 ^ 45 + 0x1000)) 0) =
    [.tile 5 { state := 0, type := 0, rowsM1 := 127, colsM1 := 127, base := 0x1000 }] := by decide +kernel

/-- R300: words of a routine. -/
theorem test_routine_addi :
    let s : State := { main 0 with routine := some (routine 0) }
    ((after (.routineAddi 2 1 0 0x1FFF8) s).routine.map fun r => (r.get 2, r.pc)) = some (BitVec.ofNat 64 (2 ^ 48 + 65520), 1) := by decide +kernel

/-- R378: power-good leads to stage S0, whatever the stage was. -/
theorem test_power_good : (after .powerGood (staged 2)).boot.stage = 0 ∧ (after .powerGood (staged 2)).status = .notReleased := by decide +kernel

/-- Reset: memory is canonical and nothing runs. -/
theorem test_reset : State.reset.mem.wf = true ∧ State.reset.status = .notReleased := by decide +kernel

/-- A step fetches the word that withFetchWord places, and runs it. -/
theorem test_fetch_runs : (match step (State.reset.withFetchWord 32 0x04110C05) with | .next t => t.core.flights.map (·.land) | _ => []) =
    [.s 1 0xFFFFFFFFFFFFFFFF] := by decide +kernel

end Sys2Proof.Tests
end

section
/-! PROOFS. The loop index read by lidx (R103). -/

namespace Sys2Proof.Proofs
open Sys2Proof.Machine Sys2Proof.Laws

/-- The meaning that the machine gives lidx. -/
theorem exec_lidx (d : BitVec 5) (k : BitVec 3) (s : State) : exec (.lidx d k) s = execLidx d k s := rfl

/-- lidx in terms of the loop levels of the state in which it issues (R103). -/
theorem execLidx_eq (d : BitVec 5) (k : BitVec 3) (s : State) :
    execLidx d k s = .next (s.markLive.emit 1
      (.s d (if (s.core.regs.loop k.toNat).valid then (s.core.regs.loop k.toNat).index.setWidth 64 else 0)) .no).retire := by
  simp only [execLidx, plainOp_eq, markLive_regs]

/-- Settles O27: marking the slot live comes before the level is read and leaves the level alone. The bound on the level,
which the decoder keeps (R99), is not needed here: a level past the last one reads as not open. -/
theorem loopIndexIsRead : Obligations.LoopIndexIsRead := by
  intro s d k _
  unfold Sends
  rw [exec_lidx, execLidx_eq]

end Sys2Proof.Proofs
end

section
/-! PROOFS. The choice between two vectors by vsel (R133). -/

namespace Sys2Proof.Proofs
open Sys2Proof.Machine Sys2Proof.Laws

/-- The meaning that the machine gives vsel. -/
theorem exec_vsel (d a b : BitVec 5) (m t : BitVec 3) (s : State) : exec (.vsel d a b m t) s = execVsel d a b m t s := rfl

/-- vsel in terms of the registers of the state in which it issues (R133). -/
theorem execVsel_eq (d a b : BitVec 5) (m t : BitVec 3) (s : State) :
    execVsel d a b m t s = .next (s.markLive.emit 1 (.vec d (BitVec.allOnes 16384)
      (mergeBits (s.rv b) (enableMask (typeWidth t) (enabledBits (typeCount t) (s.rm m))) (s.rv a))) .no).retire := by
  simp only [execVsel, plainOp_eq, markLive_rm, markLive_rv]

/-- Elements with the same bits are equal. -/
theorem element_congr {w j : Nat} {u v : Vec} (h : ∀ k < w, u.getLsbD (w * j + k) = v.getLsbD (w * j + k)) :
    element w j u = element w j v := by
  refine Nat.eq_of_testBit_eq fun k => ?_
  by_cases hk : k < w
  · rw [← element_bit w j k u hk, ← element_bit w j k v hk, h k hk]
  · simp [element, Nat.testBit_mod_two_pow, hk]

/-- A bit of a merge comes from the new word where the mask has a one, and from the old word elsewhere. -/
theorem getLsbD_mergeBits {n : Nat} (old mask new : BitVec n) (k : Nat) :
    (mergeBits old mask new).getLsbD k = if mask.getLsbD k then new.getLsbD k else old.getLsbD k := by
  by_cases hk : k < n
  · simp only [mergeBits, BitVec.getLsbD_or, BitVec.getLsbD_and, BitVec.getLsbD_not, hk]
    cases mask.getLsbD k <;> simp
  · simp [BitVec.getLsbD_of_ge _ k (Nat.le_of_not_lt hk)]

/-- A merge whose mask enables whole elements takes each element whole. -/
theorem element_mergeBits {w n : Nat} (hw : w * n ≤ 16384) (m : Mask) (old new : Vec) {j : Nat} (hj : j < n) :
    element w j (mergeBits old (enableMask w (enabledBits n m)) new) =
      if m.getLsbD j then element w j new else element w j old := by
  have bit : ∀ k < w, (mergeBits old (enableMask w (enabledBits n m)) new).getLsbD (w * j + k) =
      if m.getLsbD j then new.getLsbD (w * j + k) else old.getLsbD (w * j + k) := fun k hk => by
    rw [getLsbD_mergeBits, enableMask_bit m hw j k hj hk]
  split
  case isTrue h => exact element_congr fun k hk => by rw [bit k hk, if_pos h]
  case isFalse h => exact element_congr fun k hk => by rw [bit k hk, if_neg h]

/-- Settles O18: vsel merges v_a over v_b under the bits of the selected elements, and enables every bit of the result. -/
theorem selectTakesEachElement : Obligations.SelectTakesEachElement := by
  intro s d a b m t
  refine ⟨_, by rw [Sends, exec_vsel, execVsel_eq], fun j hj => ?_⟩
  exact element_mergeBits (width_count t).le (s.rm m) (s.rv b) (s.rv a) hj

end Sys2Proof.Proofs
end
